-- ==== Sys2Proof/Word.lean ====
section
/-!
DEFINITION. The data widths of the IL-440 (R5) and their plainest arithmetic.
-/

namespace Sys2Proof

/-- A word: 32 bits (R5). -/
abbrev Word := BitVec 32

/-- A byte: 8 bits (R5). -/
abbrev Byte := BitVec 8

/-- A double: 64 bits (R5). -/
abbrev Dbl := BitVec 64

/-- A vector register number v0 to v63 (R8). -/
abbrev VReg := BitVec 6

/-- A uniform register number s0 to s31 (R8). -/
abbrev UReg := BitVec 5

end Sys2Proof
end

