-- ==== Sys2Proof/Config.lean ====
section
/-!
DEFINITION. What the implementation fixes or the spec leaves open: constants without a body (free values: nothing in Lean
can evaluate them), applied to the model's step counter or to the operands they depend on.
-/

namespace Sys2Proof.Config

/-- The order of the agents' moves where no rule fixes it (R367): which of the enabled moves the machine makes at the
step with this number, taken modulo their count. Log 2. -/
opaque freeChoice : Nat → Nat

/-- A value that the spec does not state, for the step with this number. Each use names its log entry. -/
opaque freeWord : Nat → Nat

/-- A unit of an encoder's stream (log 31): what it codes (profile, kind of unit, frame kind, quantiser, width, height), the frame's
bytes and those of the frame it refers to, empty for a frame of its own. -/
opaque streamUnit : List Nat → List Byte → List Byte → List Byte

/-- The frame as a decoder has it after the same arguments, which the next inter frame refers to (log 31). -/
opaque decodedFrame : List Nat → List Byte → List Byte → List Byte

/-! Firmware (R363, R364, log 67): what the spec names without a form that the model could compute. -/

/-- SHA3-256, as a number of 256 bits. -/
opaque sha3 : List Byte → Nat

/-- The public key that an image carries, whether an ML-DSA-44 signature of the image passes for a key, and the image's version. -/
opaque imageKey : List Byte → List Byte
@[inherit_doc imageKey] opaque imageSigned : List Byte → List Byte → Bool
@[inherit_doc imageKey] opaque imageVersion : List Byte → Nat

/-- The fused hash of the public key; the bytes of an image; the image that the module holds before any is staged. -/
opaque fusedKey : Nat
@[inherit_doc fusedKey] opaque imageSize : Nat
@[inherit_doc fusedKey] opaque ownImage : List Byte

/-- The stages that an image loads in turn, as their bytes. -/
opaque nextStages : List Byte → List (List Byte)

/-- The signed report of ATTEST with its certificates, from the measurements, the identity registers, the version and the nonce; what
STATUS writes, from the version and the rollback counter. -/
opaque report : List Nat → List Nat → Nat → List Byte → List Byte
@[inherit_doc report] opaque statusForm : Nat → Nat → List Byte

end Sys2Proof.Config
end

