-- ==== Sys2Proof/Syntax.lean ====
section
/-!
DEFINITION. The instructions and events of the IL-440: one constructor of `Instr` for each row of the opcode table
(spec/opcode_table.json). Rows 0 to 219 are Yelfen instructions (12_encoding.md, R133 to R140); rows 220 to 305 are the
steps of the engines, of Kettle, of the fabric and of the outside world (95_what_each_step_holds.md), whose operands
name their subject or carry what the outside says. The chain bit C belongs to the word, not to the instruction (R130).
-/

namespace Sys2Proof

/-- The atomic operations of R206 and R207. -/
inductive AtomOp where
  | add | min | max | and | or | xor | xchg | cas
  deriving DecidableEq, Repr

/-- What a remote request asks of the owner (R323). `fill` is the read of a whole line for a copy of R366. -/
inductive ReqKind where
  | read | write | atomic (op : AtomOp) | rel | amax | fill
  deriving DecidableEq, Repr

/-- The operation fields of a request message (R316, R323): the exported offset (R324), the access size in bytes, the
type code of R138, the operands, the scope, the SC flag and its core clock. -/
structure Req where
  kind : ReqKind
  off : Nat
  size : Nat
  typ : Nat
  x : Nat
  cmp : Nat
  scope : Nat
  sc : Bool
  clock : Nat
  deriving DecidableEq, Repr

/-- A fabric message (R316). `typ` is TYPE: 0 request, 1 response, 2 refusal, 3 collective chunk, 4 acknowledgment.
`rsv` says that a reserved field is set. `data` is the bytes of a response or a chunk; `off` the chunk's offset, or the SC timestamp
of a response (R323); `total` the size of the part that a chunk is of, and `tiles` the tiles that make up the part (COMP). -/
structure Msg where
  osrc : Nat
  odst : Nat
  typ : Nat
  ordered : Bool
  relayed : Bool
  rsv : Bool
  len : Nat
  seq : Nat
  tag : Nat
  req : Option Req
  off : Nat
  data : List Nat
  total : Nat := 0
  tiles : List Nat := []
  deriving DecidableEq, Repr

/-- A slot frame (R315): header fields, allowances (destination, flits), messages. -/
structure Frame where
  src : Nat
  dst : Nat
  rot : Nat
  slot : Nat
  plane : Nat
  allow : List (Nat × Nat)
  msgs : List Msg
  deriving DecidableEq, Repr

/-- The operand word of COPY (R217). -/
structure CopyW where
  skind : BitVec 2
  dscr : Bool
  tr : Bool
  layout : BitVec 2
  bound : Bool
  bar : BitVec 4
  wscope : BitVec 4
  cw : Bool
  ch : BitVec 4
  deriving DecidableEq, Repr

/-- The operand word of COPY.SCATTER and COPY.GATHER (R217): the fields that are not for COPY only. -/
structure RowCopyW where
  skind : BitVec 2
  dscr : Bool
  layout : BitVec 2
  bound : Bool
  bar : BitVec 4
  ch : BitVec 4
  deriving DecidableEq, Repr

/-- The operand word of TRACE (R252). -/
structure TraceW where
  emit : Bool
  cullb : Bool
  first : Bool
  rtype : BitVec 4
  mask : BitVec 8
  deriving DecidableEq, Repr

/-- The instructions and events, one constructor per row of the opcode table, in the table's order. -/
inductive Instr where
  -- integer arithmetic without condition codes (R149)
  | iadd (d a b : VReg) (pa pb : Bool)
  | isub (d a b : VReg) (pa pb : Bool)
  | iaddx (d a b : VReg) (pa pb : Bool)
  | isubx (d a b : VReg) (pa pb : Bool)
  | imul (d a b : VReg) (pa pb : Bool)
  | imulhI32 (d a b : VReg) (pa pb : Bool)
  | imulhN32 (d a b : VReg) (pa pb : Bool)
  | iminI32 (d a b : VReg) (pa pb : Bool)
  | iminN32 (d a b : VReg) (pa pb : Bool)
  | imaxI32 (d a b : VReg) (pa pb : Bool)
  | imaxN32 (d a b : VReg) (pa pb : Bool)
  | iaddsI32 (d a b : VReg) (pa pb : Bool)
  -- the same writing condition-code set c (R150)
  | iaddCc (c : BitVec 2) (d a b : VReg) (pa pb : Bool)
  | isubCc (c : BitVec 2) (d a b : VReg) (pa pb : Bool)
  | iaddxCc (c : BitVec 2) (d a b : VReg) (pa pb : Bool)
  | isubxCc (c : BitVec 2) (d a b : VReg) (pa pb : Bool)
  | imulCc (c : BitVec 2) (d a b : VReg) (pa pb : Bool)
  | imulhI32Cc (c : BitVec 2) (d a b : VReg) (pa pb : Bool)
  | imulhN32Cc (c : BitVec 2) (d a b : VReg) (pa pb : Bool)
  | iminI32Cc (c : BitVec 2) (d a b : VReg) (pa pb : Bool)
  | iminN32Cc (c : BitVec 2) (d a b : VReg) (pa pb : Bool)
  | imaxI32Cc (c : BitVec 2) (d a b : VReg) (pa pb : Bool)
  | imaxN32Cc (c : BitVec 2) (d a b : VReg) (pa pb : Bool)
  | iaddsI32Cc (c : BitVec 2) (d a b : VReg) (pa pb : Bool)
  -- compares (R151)
  | icmp (c : BitVec 2) (a b : VReg) (pa pb : Bool)
  | fcmpF32 (c : BitVec 2) (a b : VReg) (pa pb : Bool)
  -- 64-bit pairs (R152)
  | iadd64 (d a b : VReg) (pa pb : Bool)
  | isub64 (d a b : VReg) (pa pb : Bool)
  | addr (d a b : VReg) (pa pb : Bool)
  -- logic and shifts (R153)
  | and (d a b : VReg) (pa pb : Bool)
  | or (d a b : VReg) (pa pb : Bool)
  | xor (d a b : VReg) (pa pb : Bool)
  | shl (d a b : VReg) (pa pb : Bool)
  | shrN32 (d a b : VReg) (pa pb : Bool)
  | shrI32 (d a b : VReg) (pa pb : Bool)
  | popc (d a : VReg) (pa : Bool)
  | clz (d a : VReg) (pa : Bool)
  | bfx (d a b : VReg) (pa pb : Bool)
  | bfi (d a b : VReg) (pa pb : Bool)
  -- immediates (R154)
  | iaddi (d a : VReg) (imm : BitVec 12)
  | andi (d a : VReg) (imm : BitVec 12)
  | ori (d a : VReg) (imm : BitVec 12)
  | xori (d a : VReg) (imm : BitVec 12)
  | shli (d a : VReg) (imm : BitVec 5)
  | shri (d a : VReg) (imm : BitVec 5)
  | movi (d : VReg) (imm : BitVec 12)
  -- floating point (R155), r the rounding mode of the major
  | faddF32 (r : BitVec 2) (d a b : VReg) (pa pb : Bool)
  | fsubF32 (r : BitVec 2) (d a b : VReg) (pa pb : Bool)
  | fmulF32 (r : BitVec 2) (d a b : VReg) (pa pb : Bool)
  | ffmaF32 (r : BitVec 2) (d a b : VReg) (pa pb : Bool)
  | faddF16x2 (r : BitVec 2) (d a b : VReg) (pa pb : Bool)
  | fmulF16x2 (r : BitVec 2) (d a b : VReg) (pa pb : Bool)
  | ffmaF16x2 (r : BitVec 2) (d a b : VReg) (pa pb : Bool)
  | faddBf16x2 (r : BitVec 2) (d a b : VReg) (pa pb : Bool)
  | fmulBf16x2 (r : BitVec 2) (d a b : VReg) (pa pb : Bool)
  | ffmaBf16x2 (r : BitVec 2) (d a b : VReg) (pa pb : Bool)
  -- without rounding (R156)
  | fminF32 (d a b : VReg) (pa pb : Bool)
  | fmaxF32 (d a b : VReg) (pa pb : Bool)
  | fabsF32 (d a : VReg) (pa : Bool)
  | fnegF32 (d a : VReg) (pa : Bool)
  | fclassF32 (d a : VReg) (pa : Bool)
  | fminF16x2 (d a b : VReg) (pa pb : Bool)
  | fmaxF16x2 (d a b : VReg) (pa pb : Bool)
  | mov (d a : VReg) (pa : Bool)
  -- special functions (R157)
  | rcpF32 (d a : VReg) (pa : Bool)
  | rsqrtF32 (d a : VReg) (pa : Bool)
  | sqrtF32 (d a : VReg) (pa : Bool)
  | exp2F32 (d a : VReg) (pa : Bool)
  | log2F32 (d a : VReg) (pa : Bool)
  | sinF32 (d a : VReg) (pa : Bool)
  | cosF32 (d a : VReg) (pa : Bool)
  | tanhF32 (d a : VReg) (pa : Bool)
  | fdivF32 (d a b : VReg) (pa pb : Bool)
  -- conversion, packing, selection (R158 to R161)
  | cvt (d a : VReg) (pa : Bool) (ftz : Bool) (ovf rnd : BitVec 2) (dst src : BitVec 4)
  | pack (d a : VReg) (pa : Bool) (ovf rnd : BitVec 2) (qtype : BitVec 2) (fmt : BitVec 4)
  | unpack (d a : VReg) (pa : Bool) (fmt : BitVec 4)
  | sel (d a b : VReg) (pa pb : Bool) (cond : BitVec 4) (set : BitVec 2)
  -- lane operations (R162 to R166)
  | lanePick (d a b : VReg) (pa pb : Bool)
  | laneRise (d a b : VReg) (pa pb : Bool)
  | laneFall (d a b : VReg) (pa pb : Bool)
  | laneSwap (d a b : VReg) (pa pb : Bool)
  | pollSome (d a : VReg) (pa : Bool)
  | pollEvery (d a : VReg) (pa : Bool)
  | pollMask (d a : VReg) (pa : Bool)
  | foldAddI32 (d a : VReg) (pa : Bool)
  | foldMinI32 (d a : VReg) (pa : Bool)
  | foldMaxI32 (d a : VReg) (pa : Bool)
  | foldFaddF32 (d a : VReg) (pa : Bool)
  | scanAddI32 (d a : VReg) (pa : Bool)
  | bsort (d : VReg) (a : UReg)
  | intersect (d a b : VReg) (pa pb : Bool)
  -- pruning, activation tables, AMAX (R167, R169, R170, R172)
  | prune (d a b : VReg) (pa pb : Bool) (m : BitVec 6) (logn : BitVec 3)
  | act (d a : VReg) (pa : Bool) (tbl : BitVec 2)
  | actld (d : VReg) (a : UReg)
  | amax (d a : BitVec 6) (pa : Bool) (u size : Bool) (scope : BitVec 4)
  -- exchange and uniform operations (R173, R174)
  | vtos (d : UReg) (a : VReg) (pa : Bool)
  | stov (d : VReg) (a : UReg)
  | uadd (d a b : UReg)
  | uaddImm (d a : UReg) (imm : BitVec 9)
  | usub (d a b : UReg)
  | usubImm (d a : UReg) (imm : BitVec 9)
  | uand (d a b : UReg)
  | uandImm (d a : UReg) (imm : BitVec 9)
  | uor (d a b : UReg)
  | uorImm (d a : UReg) (imm : BitVec 9)
  | uxor (d a b : UReg)
  | uxorImm (d a : UReg) (imm : BitVec 9)
  | ushl (d a b : UReg)
  | ushlImm (d a : UReg) (imm : BitVec 9)
  | ushr (d a b : UReg)
  | ushrImm (d a : UReg) (imm : BitVec 9)
  | umov (d b : UReg)
  | umovImm (d : UReg) (imm : BitVec 9)
  -- control (R176 to R191)
  | bra (off : BitVec 24)
  | call (off : BitVec 24)
  | brc (a : VReg) (pa : Bool) (cond : BitVec 4) (set : BitVec 2) (rz : Bool) (off : BitVec 24)
  | meet (clr : Bool) (off : BitVec 24)
  | bar (d : VReg) (n : BitVec 4)
  | barArrive (n : BitVec 4)
  | barWait (d : VReg) (n : BitVec 4)
  | carve (d : VReg) (l1g : BitVec 4) (scrg : BitVec 5) (n : BitVec 4)
  | phase
  | spawn (d a b : VReg) (pa pb : Bool) (fr : Bool) (join : BitVec 12) (edge : BitVec 10)
  | emit (d a b : VReg) (pa pb : Bool) (fr : Bool) (join : BitVec 12) (edge : BitVec 10)
  | join (d a : VReg) (pa : Bool)
  | finish (a : VReg) (pa : Bool)
  -- macros and system (R193 to R197)
  | mcall (p3 p2 p1 p0 : BitVec 6) (slot : BitVec 6)
  | mload (d : VReg) (a : UReg) (slot : BitVec 6)
  | trap (code : BitVec 16)
  | svc (code : BitVec 16)
  | eret
  | rdsys (d : VReg) (w64 : Bool) (sreg : BitVec 16)
  | wrsys (a : VReg) (pa : Bool) (w64 : Bool) (sreg : BitVec 16)
  | jmp (a : VReg) (pa : Bool)
  | callr (d a : VReg) (pa : Bool)
  | ret (a : VReg) (pa : Bool)
  | exit
  | nop
  | yield
  | elect (d : VReg)
  | sprd (d : VReg) (sel : BitVec 6)
  | spwr (b : VReg) (pb : Bool)
  -- loads and stores (R201 to R205); u: the address is uniform
  | ldN8 (t a : BitVec 6) (u : Bool)
  | ldI8 (t a : BitVec 6) (u : Bool)
  | ldN16 (t a : BitVec 6) (u : Bool)
  | ldI16 (t a : BitVec 6) (u : Bool)
  | ldN32 (t a : BitVec 6) (u : Bool)
  | ldN64 (t a : BitVec 6) (u : Bool)
  | ldN32x4 (t a : BitVec 6) (u : Bool)
  | stN8 (t a : BitVec 6) (u : Bool)
  | stN16 (t a : BitVec 6) (u : Bool)
  | stN32 (t a : BitVec 6) (u : Bool)
  | stN64 (t a : BitVec 6) (u : Bool)
  | stN32x4 (t a : BitVec 6) (u : Bool)
  | uldN32 (t : UReg) (a : BitVec 6) (u : Bool)
  | uldN64 (t : UReg) (a : BitVec 6) (u : Bool)
  | ustN32 (t : UReg) (a : BitVec 6) (u : Bool)
  | ustN64 (t : UReg) (a : BitVec 6) (u : Bool)
  | ldsN32 (t a : BitVec 6) (u : Bool)
  | ldsN64 (t a : BitVec 6) (u : Bool)
  | ldsN32x4 (t a : BitVec 6) (u : Bool)
  | stsN32 (t a : BitVec 6) (u : Bool)
  | stsN64 (t a : BitVec 6) (u : Bool)
  | stsN32x4 (t a : BitVec 6) (u : Bool)
  | gather (t a : VReg) (sz : BitVec 2)
  | scatter (t a : VReg) (sz : BitVec 2)
  -- atomics and reductions (R206, R207)
  | atomAdd (t a : VReg) (scope : BitVec 4) (sc : Bool) (ty : BitVec 3)
  | atomMin (t a : VReg) (scope : BitVec 4) (sc : Bool) (ty : BitVec 3)
  | atomMax (t a : VReg) (scope : BitVec 4) (sc : Bool) (ty : BitVec 3)
  | atomAnd (t a : VReg) (scope : BitVec 4) (sc : Bool) (ty : BitVec 3)
  | atomOr (t a : VReg) (scope : BitVec 4) (sc : Bool) (ty : BitVec 3)
  | atomXor (t a : VReg) (scope : BitVec 4) (sc : Bool) (ty : BitVec 3)
  | atomXchg (t a : VReg) (scope : BitVec 4) (sc : Bool) (ty : BitVec 3)
  | atomCas (t a : VReg) (scope : BitVec 4) (sc : Bool) (ty : BitVec 3)
  | redAdd (t a : VReg) (scope : BitVec 4) (sc : Bool) (ty : BitVec 3)
  | redMin (t a : VReg) (scope : BitVec 4) (sc : Bool) (ty : BitVec 3)
  | redMax (t a : VReg) (scope : BitVec 4) (sc : Bool) (ty : BitVec 3)
  -- SC operations, objects, fences (R209 to R212)
  | scld (t a : VReg) (scope : BitVec 4) (sz : BitVec 2)
  | scst (t a : VReg) (scope : BitVec 4) (sz : BitVec 2)
  | acq (t a : VReg) (scope : BitVec 4)
  | rel (a : VReg) (scope : BitVec 4)
  | bind (t a : VReg)
  | fenceAll (scope : BitVec 4)
  -- copies (R216 to R224)
  | copy (d a b : UReg) (w : CopyW)
  | copyWait (d : VReg) (a : UReg) (ch : BitVec 4)
  | copyQuery (d : VReg) (clr : Bool) (ch : BitVec 4)
  | prefetch (a : UReg) (l1 : Bool)
  | copyScatter (d a b : UReg) (w : RowCopyW)
  | copyGather (d a b : UReg) (w : RowCopyW)
  | tstclr (d : VReg) (mask : BitVec 4)
  -- caddy regions (R225, R226); h names the handle's pair
  | cld (t a : VReg) (h : BitVec 4)
  | cst (t a : VReg) (h : BitVec 4)
  | cred (t a : VReg) (h : BitVec 4)
  | cnext (t a : VReg) (h : BitVec 4)
  | cprobe (t a : VReg) (h : BitVec 4)
  -- collectives (R229)
  | collA2a (a b : UReg) (scope : BitVec 4)
  | collReduce (a b : UReg) (scope : BitVec 4)
  | collAllred (a b : UReg) (scope : BitVec 4)
  | collComp (a b : UReg) (scope : BitVec 4)
  -- matrix engine, routing, sorting (R233 to R242)
  | mma (d a : VReg) (pa : Bool) (b : UReg) (tile : BitVec 4)
  | mmaZ (d a : VReg) (pa : Bool) (b : UReg) (tile : BitVec 4)
  | acld (d : VReg) (a : UReg) (tr : Bool) (tile : BitVec 4)
  | acst (d : VReg) (a : UReg) (tr : Bool) (tile : BitVec 4)
  | acz (d : VReg) (tile : BitVec 4)
  | accvt (d : VReg) (a : UReg) (b : VReg) (pb : Bool) (tile : BitVec 4)
  | route (d : VReg) (a : UReg)
  | sort (a b : UReg) (scope : BitVec 4)
  -- splats (R244 to R247)
  | sproj (d a b : VReg) (pa pb : Bool)
  | splat (d a b : VReg) (pa pb : Bool)
  | blend (d a : VReg) (pa : Bool) (b : VReg)
  | blendBwd (d a b : VReg) (pb : Bool)
  -- Cistern reductions (R248, R251)
  | redF32 (t a : VReg) (scope : BitVec 4) (w : BitVec 2)
  | cflush
  -- rays, samples, triangles, display (R252 to R262)
  | trace (a : VReg) (pa : Bool) (b : UReg) (w : TraceW)
  | trres (d : VReg) (sel : Bool)
  | smpld (d : VReg) (a : UReg) (slot : BitVec 4)
  | sample (d a : VReg) (pa : Bool) (b : UReg) (slot : BitVec 4)
  | rast (d a : VReg) (pa : Bool) (b : UReg)
  | rastFlush (d : VReg)
  | pres (a b : UReg) (wscope : BitVec 4) (enc scan : Bool) (head : BitVec 3)
  -- EVENTS. Threads: u a team, g a gang, t a thread, f a fragment (its lowest lane), k an index of a list of the state
  | yieldExpiry (u g f : Nat)
  | ldCheckDone (u g : Nat)
  | loadFill (k : Nat)
  | scratchpadLoadFill (k : Nat)
  | lateResultFill (k : Nat)
  | atomicPerform (k : Nat)
  | scOperationPerform (k : Nat)
  | relPerformed (u t : Nat)
  | fenceAllDone (u t : Nat)
  | bindPerformed (u t : Nat)
  | cflushDone (u t : Nat)
  | l1Eviction (place line : Nat)
  | cisternAddition (k : Nat)
  | recordArrival (k : Nat)
  | joinDecrement (k : Nat)
  | caddyOperation (k : Nat)
  | mmaStart (core : Nat)
  | mmaComplete (core : Nat)
  | accumulatorOpComplete (core : Nat)
  | routeComplete (k : Nat)
  | strainerJobStart (die : Nat)
  | strainerJobDone (die : Nat)
  | copyStart (u ch : Nat)
  | copyDelivery (u ch : Nat)
  | actldComplete (core : Nat)
  | mloadComplete (core : Nat)
  | smpldComplete (core : Nat)
  | sampleJob (k : Nat)
  | traversalNodeVisit (u t : Nat)
  | rasteriseTriangle (die : Nat)
  | verticalBlank (head : Nat)
  | presentComplete (head : Nat)
  | launchEntry (slice queue : Nat)
  | teamPlacement (slice : Nat)
  | agingQuantum (l : Nat)
  | preemptionWaitEnd (u : Nat)
  | launchEnd (l : Nat)
  | phaseFlushPoint (l : Nat)
  | lqDoorbell (inst : Nat) (v : BitVec 32)
  | lqCtlWrite (inst : Nat) (v : BitVec 32)
  | kettleCtxswSave (slice : Nat)
  | kettleCtxswRestore (slice : Nat)
  | ctxswSaveDone (slice : Nat)
  | ctxswRestoreDone (slice : Nat)
  | resume (slice : Nat) (seq : BitVec 32)
  | abortLaunch (slice : Nat) (seq : BitVec 32)
  | resumeOperation (slice : Nat) (seq : BitVec 32)
  | abortOperation (slice : Nat) (seq : BitVec 32)
  | abortLaunchBySeq (slice : Nat) (queue : BitVec 2) (seq : BitVec 32)
  | faultqCtlWrite (slice : Nat) (v : BitVec 32)
  | dieCarveWrite (die : Nat) (v : BitVec 32)
  | sliceGroupWrite (v : BitVec 32)
  | xlatInvalPage (slice : Nat) (va : Nat)
  | xlatInvalAll (slice : Nat)
  | xlatInvalDone (slice : Nat)
  | scrSkewWrite (u : Nat) (second : Bool) (v : BitVec 32)
  | fabricCtlWrite (v : BitVec 32)
  | travNodeueClear (core : Nat) (v : BitVec 64)
  | dispCtlWrite (head : Nat) (v : BitVec 32)
  | snapTrigger
  | powerCapWrite (v : BitVec 32)
  | fstepAdjust (watts : BitVec 16)
  | fwAttest (buf : Nat)
  | fwStage (buf : Nat)
  | fwStatus (buf : Nat)
  | fwMboxResult
  | sysregWrite (sreg : BitVec 16) (v : BitVec 64)
  | reset (ok : Bool)
  | hostLinkTraining (width rate : Nat)
  | cxlLinkUp (gib : Nat)
  | cxlLinkDown
  | linePoisoned (line : Nat)
  | correctedError (die : Nat)
  | slotStart (plane : Nat)
  | slotMarker (plane : Nat) (onTime : Bool)
  | slotFrameReceive (plane : Nat) (f : Frame)
  | remoteRequest (k : Nat)
  | remoteResponse (k : Nat)
  | remoteRefusal (k : Nat)
  | remoteTimeout (tag : Nat)
  | acknowledgment (k : Nat)
  | collectiveChunk (k : Nat)
  | chunkRefusal (k : Nat)
  | collectiveTimeout (k : Nat)
  | unassignedOpcode (w opw : BitVec 32)
  | displayportLinkTraining (head width height : Nat)
  deriving DecidableEq, Repr

end Sys2Proof
end

