-- ==== Sys2Proof/WellFormed.lean ====
section
/-!
DEFINITION. Which instructions are well formed for a kernel of N registers: the field conditions of R134 and of the
instructions' own rules that decoding leaves to the field values. A word whose instruction is not well formed raises
ILLEGAL_FIELD at decode step 3 (R131). Bits that no field of an instruction holds are checked by Decode itself.
-/

namespace Sys2Proof

/-- A vector register below N (R30, R134). -/
def r1 (N : Nat) (x : VReg) : Bool := x.toNat < N

/-- An even vector register whose pair lies below N (R134). -/
def r2 (N : Nat) (x : VReg) : Bool := x.toNat % 2 == 0 && x.toNat + 1 < N

/-- A vector register that is a multiple of 4, its four below N (R134). -/
def r4 (N : Nat) (x : VReg) : Bool := x.toNat % 4 == 0 && x.toNat + 3 < N

/-- An even uniform register (R134). -/
def u2 (x : UReg) : Bool := x.toNat % 2 == 0

/-- The address operand of majors 0x50 to 0x52 (R199): a uniform pair or a vector pair. -/
def addrOk (N : Nat) (a : BitVec 6) (u : Bool) : Bool :=
  if u then a.toNat < 32 && a.toNat % 2 == 0 else r2 N a

/-- The offset operand of LDS and STS (R204): one uniform or one vector register. -/
def offOk (N : Nat) (a : BitVec 6) (u : Bool) : Bool := if u then a.toNat < 32 else r1 N a

/-- A scope code that R92 assigns. -/
def scopeOk (s : BitVec 4) : Bool := s.toNat < 12

/-- Registers of a size: 0 one, 1 a pair, 2 four. -/
def rSize (N : Nat) (sz : Nat) (x : VReg) : Bool :=
  match sz with
  | 0 => r1 N x
  | 1 => r2 N x
  | _ => r4 N x

/-- Two-register ALU operands. -/
def r111 (N : Nat) (d a b : VReg) : Bool := r1 N d && r1 N a && r1 N b

/-- The system registers of R345: `some (is64, instances)` for a number that names one, by its register byte. -/
def sregInfo (n : Nat) : Option (Bool × Nat) :=
  if 0x01 ≤ n ∧ n ≤ 0x06 then some (false, 1)
  else if 0x08 ≤ n ∧ n ≤ 0x0A then some (true, 1)
  else if n = 0x10 ∨ n = 0x11 then some (false, 2)
  else if n = 0x18 then some (true, 32)
  else if 0x19 ≤ n ∧ n ≤ 0x1B then some (false, 32)
  else if n = 0x20 ∨ n = 0x22 then some (false, 8)
  else if n = 0x21 ∨ n = 0x23 then some (true, 8)
  else if n = 0x24 then some (true, 8)
  else if n = 0x25 then some (false, 8)
  else if 0x28 ≤ n ∧ n ≤ 0x2A then some (true, 8)
  else if n = 0x2B then some (false, 8)
  else if n = 0x30 ∨ n = 0x31 then some (false, 1)
  else if n = 0x32 then some (true, 1)
  else if n = 0x33 ∨ n = 0x34 then some (false, 8)
  else if n = 0x35 then some (false, 1)
  else if n = 0x38 then some (true, 192)
  else if n = 0x39 then some (false, 8)
  else if n = 0x40 ∨ n = 0x41 then some (false, 1)
  else if n = 0x48 ∨ n = 0x4A then some (false, 1)
  else if n = 0x49 then some (true, 3)
  else if n = 0x4B then some (true, 1)
  else if n = 0x4C then some (true, 8)
  else if n = 0x50 ∨ n = 0x51 then some (false, 1)
  else if n = 0x58 then some (true, 1)
  else none

/-- The conditions of R197 and R344 on a system-register number: it names a register, the width matches, and the
instance lies in its range. -/
def sregOk (w64 : Bool) (sreg : BitVec 16) : Bool :=
  match sregInfo (sreg.toNat / 256) with
  | some (is64, n) => is64 == w64 && sreg.toNat % 256 < n
  | none => false

/-- Type and scope conditions of majors 0x54 (R138, R206). `k` is the operation; `red` a reduction. -/
def atomOk (N : Nat) (k : AtomOp) (t a : VReg) (scope : BitVec 4) (sc : Bool) (ty : BitVec 3) : Bool :=
  let wide := ty.toNat == 2 || ty.toNat == 3
  let cas := k == .cas
  ty.toNat < 5 && scopeOk scope && r2 N a
  && (if cas then (if wide then r4 N t else r2 N t) else (if wide then r2 N t else r1 N t))
  && !((k == .and || k == .or || k == .xor) && ty.toNat == 4)
  && !((k == .min || k == .max) && wide && sc)

/-- Conditions on a copy's kinds and barrier (R217). -/
def copyKindOk (skind layout : BitVec 2) (bound : Bool) (bar : BitVec 4) : Bool :=
  skind.toNat < 3 && layout.toNat < 3 && (bound || bar.toNat == 0)

/-- R134 and the instruction's own field conditions, for a kernel of N registers. An event is no instruction of a
program, so it is never well formed. -/
def Instr.wf (N : Nat) : Instr → Bool
  | .iadd d a b _ _ | .isub d a b _ _ | .iaddx d a b _ _ | .isubx d a b _ _ | .imul d a b _ _ | .imulhI32 d a b _ _
  | .imulhN32 d a b _ _ | .iminI32 d a b _ _ | .iminN32 d a b _ _ | .imaxI32 d a b _ _ | .imaxN32 d a b _ _
  | .iaddsI32 d a b _ _ => r111 N d a b
  | .iaddCc _ d a b _ _ | .isubCc _ d a b _ _ | .iaddxCc _ d a b _ _ | .isubxCc _ d a b _ _ | .imulCc _ d a b _ _
  | .imulhI32Cc _ d a b _ _ | .imulhN32Cc _ d a b _ _ | .iminI32Cc _ d a b _ _ | .iminN32Cc _ d a b _ _
  | .imaxI32Cc _ d a b _ _ | .imaxN32Cc _ d a b _ _ | .iaddsI32Cc _ d a b _ _ => r111 N d a b
  | .icmp _ a b _ _ | .fcmpF32 _ a b _ _ => r1 N a && r1 N b
  | .iadd64 d a b _ _ | .isub64 d a b _ _ => r2 N d && r2 N a && r2 N b
  | .addr d a b _ _ => r2 N d && r2 N a && r1 N b
  | .and d a b _ _ | .or d a b _ _ | .xor d a b _ _ | .shl d a b _ _ | .shrN32 d a b _ _ | .shrI32 d a b _ _
  | .bfx d a b _ _ | .bfi d a b _ _ => r111 N d a b
  | .popc d a _ | .clz d a _ => r1 N d && r1 N a
  | .iaddi d a _ | .andi d a _ | .ori d a _ | .xori d a _ => r1 N d && r1 N a
  | .shli d a _ | .shri d a _ => r1 N d && r1 N a
  | .movi d _ => r1 N d
  | .faddF32 _ d a b _ _ | .fsubF32 _ d a b _ _ | .fmulF32 _ d a b _ _ | .ffmaF32 _ d a b _ _ | .faddF16x2 _ d a b _ _
  | .fmulF16x2 _ d a b _ _ | .ffmaF16x2 _ d a b _ _ | .faddBf16x2 _ d a b _ _ | .fmulBf16x2 _ d a b _ _
  | .ffmaBf16x2 _ d a b _ _ => r111 N d a b
  | .fminF32 d a b _ _ | .fmaxF32 d a b _ _ | .fminF16x2 d a b _ _ | .fmaxF16x2 d a b _ _ | .fdivF32 d a b _ _ => r111 N d a b
  | .fabsF32 d a _ | .fnegF32 d a _ | .fclassF32 d a _ | .mov d a _ | .rcpF32 d a _ | .rsqrtF32 d a _ | .sqrtF32 d a _
  | .exp2F32 d a _ | .log2F32 d a _ | .sinF32 d a _ | .cosF32 d a _ | .tanhF32 d a _ => r1 N d && r1 N a
  | .cvt d a _ _ _ _ dst src =>
    (if 14 ≤ dst.toNat then r2 N d else r1 N d) && (if 14 ≤ src.toNat then r2 N a else r1 N a)
  | .pack d a _ _ _ qtype fmt => r1 N d && r1 N a && 12 ≤ fmt.toNat && (fmt.toNat == 15 || qtype.toNat == 0)
  | .unpack d a _ fmt => r1 N d && r1 N a && 12 ≤ fmt.toNat
  | .sel d a b _ _ _ _ => r111 N d a b
  | .lanePick d a b _ _ | .laneRise d a b _ _ | .laneFall d a b _ _ | .laneSwap d a b _ _ => r111 N d a b
  | .pollSome d a _ | .pollEvery d a _ | .pollMask d a _ | .foldAddI32 d a _ | .foldMinI32 d a _ | .foldMaxI32 d a _
  | .foldFaddF32 d a _ | .scanAddI32 d a _ => r1 N d && r1 N a
  | .bsort d _ => r4 N d
  | .intersect d a b _ _ => r2 N d && r1 N a && r1 N b
  | .prune d a b _ _ m logn =>
    r111 N d a b && 1 ≤ logn.toNat && logn.toNat ≤ 5 && 1 ≤ m.toNat && m.toNat ≤ 2 ^ logn.toNat
  | .act d a _ _ => r1 N d && r1 N a
  | .actld d a => r1 N d && u2 a
  | .amax d a pa u size scope =>
    (if size then r2 N d else r1 N d) && addrOk N a u && !(u && pa) && scopeOk scope
  | .vtos _ a _ => r1 N a
  | .stov d _ => r1 N d
  | .uadd _ _ _ | .uaddImm _ _ _ | .usub _ _ _ | .usubImm _ _ _ | .uand _ _ _ | .uandImm _ _ _ | .uor _ _ _
  | .uorImm _ _ _ | .uxor _ _ _ | .uxorImm _ _ _ | .ushl _ _ _ | .ushlImm _ _ _ | .ushr _ _ _ | .ushrImm _ _ _
  | .umov _ _ | .umovImm _ _ => true
  | .bra _ | .call _ => true
  | .brc a pa cond set rz _ =>
    if rz then r1 N a && cond.toNat < 2 && set.toNat == 0 else a.toNat == 0 && !pa
  | .meet clr off => !clr || off.toNat == 0
  | .bar d _ | .barWait d _ => r1 N d
  | .barArrive _ | .phase => true
  | .carve d l1g scrg _ => r1 N d && l1g.toNat ≤ 8 && scrg.toNat ≤ 16
  | .spawn d a b _ _ _ _ _ => r2 N d && r4 N a && r2 N b
  | .emit d a b _ pb fr _ _ => r2 N d && r4 N a && (if fr then r2 N b else b.toNat == 0 && !pb)
  | .join d a _ => r1 N d && r2 N a
  | .finish a _ => r2 N a
  | .mcall _ _ _ _ _ => true
  | .mload d a _ => r1 N d && u2 a
  | .trap _ | .svc _ | .eret | .exit | .nop | .yield => true
  | .rdsys d w64 sreg => sregOk w64 sreg && (if w64 then r2 N d else r1 N d)
  | .wrsys a _ w64 sreg => sregOk w64 sreg && (if w64 then r2 N a else r1 N a)
  | .jmp a _ | .ret a _ => r2 N a
  | .callr d a _ => r2 N d && r2 N a
  | .elect d => r1 N d
  | .sprd d sp => r1 N d && sp.toNat < 14
  | .spwr b _ => r1 N b
  | .ldN8 t a u | .ldI8 t a u | .ldN16 t a u | .ldI16 t a u | .ldN32 t a u => r1 N t && addrOk N a u
  | .ldN64 t a u => r2 N t && addrOk N a u
  | .ldN32x4 t a u => r4 N t && addrOk N a u
  | .stN8 t a u | .stN16 t a u | .stN32 t a u => r1 N t && addrOk N a u
  | .stN64 t a u => r2 N t && addrOk N a u
  | .stN32x4 t a u => r4 N t && addrOk N a u
  | .uldN32 _ a u | .ustN32 _ a u => addrOk N a u
  | .uldN64 t a u | .ustN64 t a u => u2 t && addrOk N a u
  | .ldsN32 t a u | .stsN32 t a u => r1 N t && offOk N a u
  | .ldsN64 t a u | .stsN64 t a u => r2 N t && offOk N a u
  | .ldsN32x4 t a u | .stsN32x4 t a u => r4 N t && offOk N a u
  | .gather t a sz | .scatter t a sz => sz.toNat < 3 && rSize N sz.toNat t && r1 N a
  | .atomAdd t a s sc ty | .redAdd t a s sc ty => atomOk N .add t a s sc ty
  | .atomMin t a s sc ty | .redMin t a s sc ty => atomOk N .min t a s sc ty
  | .atomMax t a s sc ty | .redMax t a s sc ty => atomOk N .max t a s sc ty
  | .atomAnd t a s sc ty => atomOk N .and t a s sc ty
  | .atomOr t a s sc ty => atomOk N .or t a s sc ty
  | .atomXor t a s sc ty => atomOk N .xor t a s sc ty
  | .atomXchg t a s sc ty => atomOk N .xchg t a s sc ty
  | .atomCas t a s sc ty => atomOk N .cas t a s sc ty
  | .scld t a s sz | .scst t a s sz => sz.toNat < 2 && rSize N sz.toNat t && r2 N a && scopeOk s
  | .acq t a s => r2 N t && r2 N a && scopeOk s
  | .rel a s => r2 N a && scopeOk s
  | .bind t a => r4 N t && r2 N a
  | .fenceAll s => scopeOk s
  | .copy d a b w =>
    copyKindOk w.skind w.layout w.bound w.bar && u2 a && u2 b && (if w.cw then u2 d else d.toNat == 0)
    && (if w.cw then scopeOk w.wscope else w.wscope.toNat == 0)
  | .copyScatter d a b w | .copyGather d a b w =>
    copyKindOk w.skind w.layout w.bound w.bar && w.skind.toNat < 2 && u2 a && u2 b && u2 d
  | .copyWait d a _ => r2 N d && u2 a
  | .copyQuery d _ _ => r4 N d
  | .prefetch a _ => u2 a
  | .tstclr d _ => r1 N d
  | .cld t a _ | .cst t a _ | .cred t a _ => r1 N t && r2 N a
  | .cnext t a _ | .cprobe t a _ => r2 N t && r2 N a
  | .collA2a a b s | .collReduce a b s | .collAllred a b s | .collComp a b s => u2 a && u2 b && scopeOk s
  | .mma d a _ b _ | .mmaZ d a _ b _ => r1 N d && r1 N a && b.toNat % 4 == 0
  | .acld d _ _ _ | .acst d _ _ _ => r1 N d
  | .acz d _ => r1 N d
  | .accvt d _ b _ _ => r1 N d && r1 N b
  | .route d a => r1 N d && u2 a
  | .sort a b s => u2 a && u2 b && scopeOk s
  | .sproj d a b _ _ => r2 N d && r1 N a && r1 N b
  | .splat d a b _ _ => r1 N d && r4 N a && r2 N b
  | .blend d a _ b => r4 N d && r4 N a && r1 N b
  | .blendBwd d a b _ => r4 N d && r4 N a && r4 N b
  | .redF32 t a s w => w.toNat < 3 && rSize N w.toNat t && r2 N a && 5 ≤ s.toNat && s.toNat < 12
  | .cflush => true
  | .trace a _ b _ => a.toNat % 4 == 0 && a.toNat + 7 < N && u2 b
  | .trres d _ => r4 N d
  | .smpld d a _ => r1 N d && u2 a
  | .sample d a _ b _ => r4 N d && r4 N a && u2 b
  | .rast d a _ b => r1 N d && r2 N a && u2 b
  | .rastFlush d => r1 N d
  | .pres a b s _ _ _ => u2 a && u2 b && scopeOk s
  | _ => false

end Sys2Proof
end

