-- ==== Sys2Proof/Decode.lean ====
section
/-!
DEFINITION. Decoding and encoding of instruction words (R130 to R140). `decode` reads an instruction word and the word
after it (the operand word of format X; other formats ignore it). It checks the opcode map and every bit that no field of
the instruction holds; the conditions on field values are `Instr.wf`. The chain bit [31] is not part of an instruction.
-/

namespace Sys2Proof

/-- Why decode step 3 of R131 refuses a word. -/
inductive DecodeErr where
  /-- A major, or a major and minor, that the opcode map leaves unassigned: ILLEGAL_OP. -/
  | unassigned
  /-- A field that must be zero is not: ILLEGAL_FIELD. -/
  | badField
  deriving DecidableEq, Repr

/-! Fields of the formats (R133). -/

/-- The major opcode, bits [30:24]. -/
abbrev fMaj (w : BitVec 32) : BitVec 7 := w.extractLsb' 24 7
/-- Field D, bits [23:18] (T in format M). -/
abbrev fD (w : BitVec 32) : BitVec 6 := w.extractLsb' 18 6
/-- Field A, bits [17:12]. -/
abbrev fA (w : BitVec 32) : BitVec 6 := w.extractLsb' 12 6
/-- Field B, bits [11:6]. -/
abbrev fB (w : BitVec 32) : BitVec 6 := w.extractLsb' 6 6
/-- The policy bits PA and PB, bits [5] and [4]. -/
abbrev fPA (w : BitVec 32) : Bool := w.extractLsb' 5 1 == 1#1
@[inherit_doc fPA] abbrev fPB (w : BitVec 32) : Bool := w.extractLsb' 4 1 == 1#1
/-- The minor of formats A and X, bits [3:0]. -/
abbrev fMin (w : BitVec 32) : BitVec 4 := w.extractLsb' 0 4
/-- The minor of format M, bits [11:8], its SCOPE, bits [7:4], and its AUX, bits [3:0]. -/
abbrev mMin (w : BitVec 32) : BitVec 4 := w.extractLsb' 8 4
@[inherit_doc mMin] abbrev mScope (w : BitVec 32) : BitVec 4 := w.extractLsb' 4 4
@[inherit_doc mMin] abbrev mAux (w : BitVec 32) : BitVec 4 := w.extractLsb' 0 4
/-- A one-bit field at `lo`. -/
abbrev fBit (w : BitVec 32) (lo : Nat) : Bool := w.extractLsb' lo 1 == 1#1
/-- The n bits at `lo` are zero. -/
abbrev fZero (w : BitVec 32) (lo n : Nat) : Bool := w.extractLsb' lo n == 0#n
/-- A field naming a uniform register: its low five bits. -/
abbrev uD (w : BitVec 32) : UReg := w.extractLsb' 18 5
@[inherit_doc uD] abbrev uA (w : BitVec 32) : UReg := w.extractLsb' 12 5
@[inherit_doc uD] abbrev uB (w : BitVec 32) : UReg := w.extractLsb' 6 5
/-- Bit 5 of a field that names a uniform register is zero (R134). -/
abbrev uDz (w : BitVec 32) : Bool := fZero w 23 1
@[inherit_doc uDz] abbrev uAz (w : BitVec 32) : Bool := fZero w 17 1
@[inherit_doc uDz] abbrev uBz (w : BitVec 32) : Bool := fZero w 11 1

/-- The instruction if its unused bits are zero. -/
def chk (b : Bool) (i : Instr) : Except DecodeErr Instr := if b then .ok i else .error .badField

/-- Fields D, A and B with the policy bits, all used. -/
abbrev useDAB (w : BitVec 32) (f : VReg → VReg → VReg → Bool → Bool → Instr) : Except DecodeErr Instr :=
  .ok (f (fD w) (fA w) (fB w) (fPA w) (fPB w))

/-- Fields D and A with PA used; B and PB zero. -/
abbrev useDA (w : BitVec 32) (f : VReg → VReg → Bool → Instr) : Except DecodeErr Instr :=
  chk (fZero w 6 6 && fZero w 4 1) (f (fD w) (fA w) (fPA w))

/-- Majors 0x01 and 0x04 to 0x07, minors 0 to B, without condition codes. -/
def dec01 (w : BitVec 32) : Except DecodeErr Instr :=
  match (fMin w).toNat with
  | 0 => useDAB w .iadd
  | 1 => useDAB w .isub
  | 2 => useDAB w .iaddx
  | 3 => useDAB w .isubx
  | 4 => useDAB w .imul
  | 5 => useDAB w .imulhI32
  | 6 => useDAB w .imulhN32
  | 7 => useDAB w .iminI32
  | 8 => useDAB w .iminN32
  | 9 => useDAB w .imaxI32
  | 10 => useDAB w .imaxN32
  | 11 => useDAB w .iaddsI32
  | _ => .error .unassigned

/-- Majors 0x04 to 0x07: condition-code set c. -/
def decCc (c : BitVec 2) (w : BitVec 32) : Except DecodeErr Instr :=
  match (fMin w).toNat with
  | 0 => useDAB w (.iaddCc c)
  | 1 => useDAB w (.isubCc c)
  | 2 => useDAB w (.iaddxCc c)
  | 3 => useDAB w (.isubxCc c)
  | 4 => useDAB w (.imulCc c)
  | 5 => useDAB w (.imulhI32Cc c)
  | 6 => useDAB w (.imulhN32Cc c)
  | 7 => useDAB w (.iminI32Cc c)
  | 8 => useDAB w (.iminN32Cc c)
  | 9 => useDAB w (.imaxI32Cc c)
  | 10 => useDAB w (.imaxN32Cc c)
  | 11 => useDAB w (.iaddsI32Cc c)
  | 12 => chk (fZero w 18 6) (.icmp c (fA w) (fB w) (fPA w) (fPB w))
  | 13 => chk (fZero w 18 6) (.fcmpF32 c (fA w) (fB w) (fPA w) (fPB w))
  | _ => .error .unassigned

/-- Major 0x02. -/
def dec02 (w : BitVec 32) : Except DecodeErr Instr :=
  match (fMin w).toNat with
  | 0 => useDAB w .iadd64
  | 1 => useDAB w .isub64
  | 2 => useDAB w .addr
  | _ => .error .unassigned

/-- Major 0x03. -/
def dec03 (w : BitVec 32) : Except DecodeErr Instr :=
  match (fMin w).toNat with
  | 0 => useDAB w .and
  | 1 => useDAB w .or
  | 2 => useDAB w .xor
  | 3 => useDAB w .shl
  | 4 => useDAB w .shrN32
  | 5 => useDAB w .shrI32
  | 6 => useDA w .popc
  | 7 => useDA w .clz
  | 8 => useDAB w .bfx
  | 9 => useDAB w .bfi
  | _ => .error .unassigned

/-- Majors 0x08 to 0x0B: rounding mode r. -/
def decFp (r : BitVec 2) (w : BitVec 32) : Except DecodeErr Instr :=
  match (fMin w).toNat with
  | 0 => useDAB w (.faddF32 r)
  | 1 => useDAB w (.fsubF32 r)
  | 2 => useDAB w (.fmulF32 r)
  | 3 => useDAB w (.ffmaF32 r)
  | 4 => useDAB w (.faddF16x2 r)
  | 5 => useDAB w (.fmulF16x2 r)
  | 6 => useDAB w (.ffmaF16x2 r)
  | 7 => useDAB w (.faddBf16x2 r)
  | 8 => useDAB w (.fmulBf16x2 r)
  | 9 => useDAB w (.ffmaBf16x2 r)
  | _ => .error .unassigned

/-- Major 0x0C. -/
def dec0C (w : BitVec 32) : Except DecodeErr Instr :=
  match (fMin w).toNat with
  | 0 => useDAB w .fminF32
  | 1 => useDAB w .fmaxF32
  | 2 => useDA w .fabsF32
  | 3 => useDA w .fnegF32
  | 4 => useDA w .fclassF32
  | 5 => useDAB w .fminF16x2
  | 6 => useDAB w .fmaxF16x2
  | 7 => useDA w .mov
  | _ => .error .unassigned

/-- Format I, majors 0x10 to 0x16. -/
def decI (k : Nat) (w : BitVec 32) : Except DecodeErr Instr :=
  match k with
  | 0 => .ok (.iaddi (fD w) (fA w) (w.extractLsb' 0 12))
  | 1 => .ok (.andi (fD w) (fA w) (w.extractLsb' 0 12))
  | 2 => .ok (.ori (fD w) (fA w) (w.extractLsb' 0 12))
  | 3 => .ok (.xori (fD w) (fA w) (w.extractLsb' 0 12))
  | 4 => chk (fZero w 5 7) (.shli (fD w) (fA w) (w.extractLsb' 0 5))
  | 5 => chk (fZero w 5 7) (.shri (fD w) (fA w) (w.extractLsb' 0 5))
  | 6 => chk (fZero w 12 6) (.movi (fD w) (w.extractLsb' 0 12))
  | _ => .error .unassigned

/-- Major 0x20. -/
def dec20 (w : BitVec 32) : Except DecodeErr Instr :=
  match (fMin w).toNat with
  | 0 => useDA w .rcpF32
  | 1 => useDA w .rsqrtF32
  | 2 => useDA w .sqrtF32
  | 3 => useDA w .exp2F32
  | 4 => useDA w .log2F32
  | 5 => useDA w .sinF32
  | 6 => useDA w .cosF32
  | 7 => useDA w .tanhF32
  | 8 => useDAB w .fdivF32
  | _ => .error .unassigned

/-- Major 0x21. -/
def dec21 (w o : BitVec 32) : Except DecodeErr Instr :=
  match (fMin w).toNat with
  | 0 => chk (fZero w 6 6 && fZero w 4 1 && fZero o 13 19)
      (.cvt (fD w) (fA w) (fPA w) (fBit o 12) (o.extractLsb' 10 2) (o.extractLsb' 8 2) (o.extractLsb' 4 4) (o.extractLsb' 0 4))
  | 1 => chk (fZero w 6 6 && fZero w 4 1 && fZero o 12 20 && fZero o 6 2)
      (.pack (fD w) (fA w) (fPA w) (o.extractLsb' 10 2) (o.extractLsb' 8 2) (o.extractLsb' 4 2) (o.extractLsb' 0 4))
  | 2 => chk (fZero w 6 6 && fZero w 4 1 && fZero o 4 28) (.unpack (fD w) (fA w) (fPA w) (o.extractLsb' 0 4))
  | 3 => chk (fZero o 6 26)
      (.sel (fD w) (fA w) (fB w) (fPA w) (fPB w) (o.extractLsb' 2 4) (o.extractLsb' 0 2))
  | _ => .error .unassigned

/-- Major 0x22. -/
def dec22 (w : BitVec 32) : Except DecodeErr Instr :=
  match (fMin w).toNat with
  | 0 => useDAB w .lanePick
  | 1 => useDAB w .laneRise
  | 2 => useDAB w .laneFall
  | 3 => useDAB w .laneSwap
  | 4 => useDA w .pollSome
  | 5 => useDA w .pollEvery
  | 6 => useDA w .pollMask
  | 7 => useDA w .foldAddI32
  | 8 => useDA w .foldMinI32
  | 9 => useDA w .foldMaxI32
  | 10 => useDA w .foldFaddF32
  | 11 => useDA w .scanAddI32
  | 12 => chk (uAz w && fZero w 6 6 && fZero w 4 2) (.bsort (fD w) (uA w))
  | 13 => useDAB w .intersect
  | _ => .error .unassigned

/-- Major 0x23. -/
def dec23 (w o : BitVec 32) : Except DecodeErr Instr :=
  match (fMin w).toNat with
  | 0 => chk (fZero o 14 18 && fZero o 3 5)
      (.prune (fD w) (fA w) (fB w) (fPA w) (fPB w) (o.extractLsb' 8 6) (o.extractLsb' 0 3))
  | 1 => chk (fZero w 6 6 && fZero w 4 1 && fZero o 2 30) (.act (fD w) (fA w) (fPA w) (o.extractLsb' 0 2))
  | 2 => chk (uAz w && fZero w 6 6 && fZero w 4 2 && fZero o 0 32) (.actld (fD w) (uA w))
  | 3 => chk (fZero w 6 6 && fZero w 4 1 && fZero o 7 25 && fZero o 5 1)
      (.amax (fD w) (fA w) (fPA w) (fBit o 6) (fBit o 4) (o.extractLsb' 0 4))
  | _ => .error .unassigned

/-- Major 0x24. -/
def dec24 (w : BitVec 32) : Except DecodeErr Instr :=
  match (fMin w).toNat with
  | 0 => chk (uDz w && fZero w 6 6 && fZero w 4 1) (.vtos (uD w) (fA w) (fPA w))
  | 1 => chk (uAz w && fZero w 6 6 && fZero w 4 2) (.stov (fD w) (uA w))
  | _ => .error .unassigned

/-- Major 0x28, format U. -/
def dec28 (w : BitVec 32) : Except DecodeErr Instr :=
  let d : UReg := w.extractLsb' 19 5
  let a : UReg := w.extractLsb' 14 5
  let b : UReg := w.extractLsb' 4 5
  let n : BitVec 9 := w.extractLsb' 0 9
  if fBit w 13 then
    match (w.extractLsb' 9 4).toNat with
    | 0 => .ok (.uaddImm d a n)
    | 1 => .ok (.usubImm d a n)
    | 2 => .ok (.uandImm d a n)
    | 3 => .ok (.uorImm d a n)
    | 4 => .ok (.uxorImm d a n)
    | 5 => .ok (.ushlImm d a n)
    | 6 => .ok (.ushrImm d a n)
    | 7 => chk (fZero w 14 5) (.umovImm d n)
    | _ => .error .unassigned
  else
    match (w.extractLsb' 9 4).toNat with
    | 0 => chk (fZero w 0 4) (.uadd d a b)
    | 1 => chk (fZero w 0 4) (.usub d a b)
    | 2 => chk (fZero w 0 4) (.uand d a b)
    | 3 => chk (fZero w 0 4) (.uor d a b)
    | 4 => chk (fZero w 0 4) (.uxor d a b)
    | 5 => chk (fZero w 0 4) (.ushl d a b)
    | 6 => chk (fZero w 0 4) (.ushr d a b)
    | 7 => chk (fZero w 0 4 && fZero w 14 5) (.umov d b)
    | _ => .error .unassigned

/-- Major 0x42. -/
def dec42 (w o : BitVec 32) : Except DecodeErr Instr :=
  match (fMin w).toNat with
  | 0 => chk (fZero w 18 6 && fZero w 6 6 && fZero w 4 1 && fZero o 24 1)
      (.brc (fA w) (fPA w) (o.extractLsb' 28 4) (o.extractLsb' 26 2) (fBit o 25) (o.extractLsb' 0 24))
  | 1 => chk (fZero w 4 20 && fZero o 25 7) (.meet (fBit o 24) (o.extractLsb' 0 24))
  | _ => .error .unassigned

/-- Major 0x43. -/
def dec43 (w o : BitVec 32) : Except DecodeErr Instr :=
  match (fMin w).toNat with
  | 0 => chk (fZero w 4 14 && fZero o 4 28) (.bar (fD w) (o.extractLsb' 0 4))
  | 1 => chk (fZero w 4 20 && fZero o 4 28) (.barArrive (o.extractLsb' 0 4))
  | 2 => chk (fZero w 4 14 && fZero o 4 28) (.barWait (fD w) (o.extractLsb' 0 4))
  | 3 => chk (fZero w 4 14 && fZero o 28 4 && fZero o 21 3 && fZero o 4 12)
      (.carve (fD w) (o.extractLsb' 24 4) (o.extractLsb' 16 5) (o.extractLsb' 0 4))
  | 4 => chk (fZero w 4 20 && fZero o 0 32) .phase
  | 5 => chk (fZero o 23 9)
      (.spawn (fD w) (fA w) (fB w) (fPA w) (fPB w) (fBit o 22) (o.extractLsb' 10 12) (o.extractLsb' 0 10))
  | 6 => chk (fZero o 23 9)
      (.emit (fD w) (fA w) (fB w) (fPA w) (fPB w) (fBit o 22) (o.extractLsb' 10 12) (o.extractLsb' 0 10))
  | 7 => chk (fZero w 6 6 && fZero w 4 1 && fZero o 0 32) (.join (fD w) (fA w) (fPA w))
  | 8 => chk (fZero w 18 6 && fZero w 6 6 && fZero w 4 1 && fZero o 0 32) (.finish (fA w) (fPA w))
  | _ => .error .unassigned

/-- Major 0x44. -/
def dec44 (w o : BitVec 32) : Except DecodeErr Instr :=
  match (fMin w).toNat with
  | 0 => chk (fZero w 4 20 && fZero o 30 2)
      (.mcall (o.extractLsb' 24 6) (o.extractLsb' 18 6) (o.extractLsb' 12 6) (o.extractLsb' 6 6) (o.extractLsb' 0 6))
  | 1 => chk (uAz w && fZero w 4 8 && fZero o 6 26) (.mload (fD w) (uA w) (o.extractLsb' 0 6))
  | 2 => chk (fZero w 4 20 && fZero o 16 16) (.trap (o.extractLsb' 0 16))
  | 3 => chk (fZero w 4 20 && fZero o 16 16) (.svc (o.extractLsb' 0 16))
  | 4 => chk (fZero w 4 20 && fZero o 0 32) .eret
  | 5 => chk (fZero w 4 14 && fZero o 17 15) (.rdsys (fD w) (fBit o 16) (o.extractLsb' 0 16))
  | 6 => chk (fZero w 18 6 && fZero w 6 6 && fZero w 4 1 && fZero o 17 15)
      (.wrsys (fA w) (fPA w) (fBit o 16) (o.extractLsb' 0 16))
  | _ => .error .unassigned

/-- Major 0x45. -/
def dec45 (w : BitVec 32) : Except DecodeErr Instr :=
  match (fMin w).toNat with
  | 0 => chk (fZero w 18 6 && fZero w 6 6 && fZero w 4 1) (.jmp (fA w) (fPA w))
  | 1 => useDA w .callr
  | 2 => chk (fZero w 18 6 && fZero w 6 6 && fZero w 4 1) (.ret (fA w) (fPA w))
  | 3 => chk (fZero w 4 20) .exit
  | 4 => chk (fZero w 4 20) .nop
  | 5 => chk (fZero w 4 20) .yield
  | 6 => chk (fZero w 4 14) (.elect (fD w))
  | 7 => chk (fZero w 4 8) (.sprd (fD w) (fA w))
  | 8 => chk (fZero w 18 6 && w.extractLsb' 12 6 == 13#6 && fZero w 5 1) (.spwr (fB w) (fPB w))
  | _ => .error .unassigned

/-- A load or store of majors 0x50 and 0x51: SCOPE and AUX[3:1] zero. -/
abbrev useTAU (w : BitVec 32) (f : VReg → BitVec 6 → Bool → Instr) : Except DecodeErr Instr :=
  chk (fZero w 1 7) (f (fD w) (fA w) (fBit w 0))

/-- The same with T a uniform register. -/
abbrev useUTAU (w : BitVec 32) (f : UReg → BitVec 6 → Bool → Instr) : Except DecodeErr Instr :=
  chk (fZero w 1 7 && uDz w) (f (uD w) (fA w) (fBit w 0))

/-- Major 0x50. -/
def dec50 (w : BitVec 32) : Except DecodeErr Instr :=
  match (mMin w).toNat with
  | 0 => useTAU w .ldN8
  | 1 => useTAU w .ldI8
  | 2 => useTAU w .ldN16
  | 3 => useTAU w .ldI16
  | 4 => useTAU w .ldN32
  | 5 => useTAU w .ldN64
  | 6 => useTAU w .ldN32x4
  | _ => .error .unassigned

/-- Major 0x51. -/
def dec51 (w : BitVec 32) : Except DecodeErr Instr :=
  match (mMin w).toNat with
  | 0 => useTAU w .stN8
  | 1 => useTAU w .stN16
  | 2 => useTAU w .stN32
  | 3 => useTAU w .stN64
  | 4 => useTAU w .stN32x4
  | _ => .error .unassigned

/-- Major 0x52. -/
def dec52 (w : BitVec 32) : Except DecodeErr Instr :=
  match (mMin w).toNat with
  | 0 => useUTAU w .uldN32
  | 1 => useUTAU w .uldN64
  | 2 => useUTAU w .ustN32
  | 3 => useUTAU w .ustN64
  | _ => .error .unassigned

/-- Major 0x53. -/
def dec53 (w : BitVec 32) : Except DecodeErr Instr :=
  match (mMin w).toNat with
  | 0 => useTAU w .ldsN32
  | 1 => useTAU w .ldsN64
  | 2 => useTAU w .ldsN32x4
  | 3 => useTAU w .stsN32
  | 4 => useTAU w .stsN64
  | 5 => useTAU w .stsN32x4
  | 6 => chk (fZero w 2 6) (.gather (fD w) (fA w) (w.extractLsb' 0 2))
  | 7 => chk (fZero w 2 6) (.scatter (fD w) (fA w) (w.extractLsb' 0 2))
  | _ => .error .unassigned

/-- An operation of major 0x54, every field used. -/
abbrev useAtom (w : BitVec 32) (f : VReg → VReg → BitVec 4 → Bool → BitVec 3 → Instr) : Except DecodeErr Instr :=
  .ok (f (fD w) (fA w) (mScope w) (fBit w 3) (w.extractLsb' 0 3))

/-- Major 0x54. -/
def dec54 (w : BitVec 32) : Except DecodeErr Instr :=
  match (mMin w).toNat with
  | 0 => useAtom w .atomAdd
  | 1 => useAtom w .atomMin
  | 2 => useAtom w .atomMax
  | 3 => useAtom w .atomAnd
  | 4 => useAtom w .atomOr
  | 5 => useAtom w .atomXor
  | 6 => useAtom w .atomXchg
  | 7 => useAtom w .atomCas
  | 8 => useAtom w .redAdd
  | 9 => useAtom w .redMin
  | 10 => useAtom w .redMax
  | _ => .error .unassigned

/-- Major 0x55. -/
def dec55 (w : BitVec 32) : Except DecodeErr Instr :=
  match (mMin w).toNat with
  | 0 => chk (fZero w 2 2) (.scld (fD w) (fA w) (mScope w) (w.extractLsb' 0 2))
  | 1 => chk (fZero w 2 2) (.scst (fD w) (fA w) (mScope w) (w.extractLsb' 0 2))
  | 2 => chk (fZero w 0 4) (.acq (fD w) (fA w) (mScope w))
  | 3 => chk (fZero w 18 6 && fZero w 0 4) (.rel (fA w) (mScope w))
  | 4 => chk (fZero w 0 8) (.bind (fD w) (fA w))
  | 5 => chk (fZero w 12 12 && fZero w 0 4) (.fenceAll (mScope w))
  | _ => .error .unassigned

/-- The operand word of COPY.SCATTER and COPY.GATHER. -/
def decRowCopy (o : BitVec 32) : RowCopyW :=
  ⟨o.extractLsb' 28 2, fBit o 27, o.extractLsb' 24 2, fBit o 23, o.extractLsb' 19 4, o.extractLsb' 0 4⟩

/-- Fields D, A and B of uniform registers, policy bits zero. -/
abbrev u3z (w : BitVec 32) : Bool := uDz w && uAz w && uBz w && fZero w 4 2

/-- Major 0x56. -/
def dec56 (w o : BitVec 32) : Except DecodeErr Instr :=
  match (fMin w).toNat with
  | 0 => chk (u3z w && fZero o 30 2 && fZero o 4 10)
      (.copy (uD w) (uA w) (uB w)
        ⟨o.extractLsb' 28 2, fBit o 27, fBit o 26, o.extractLsb' 24 2, fBit o 23, o.extractLsb' 19 4,
          o.extractLsb' 15 4, fBit o 14, o.extractLsb' 0 4⟩)
  | 1 => chk (uAz w && fZero w 4 8 && fZero o 4 28) (.copyWait (fD w) (uA w) (o.extractLsb' 0 4))
  | 2 => chk (fZero w 4 14 && fZero o 5 27) (.copyQuery (fD w) (fBit o 4) (o.extractLsb' 0 4))
  | 3 => chk (fZero w 18 6 && uAz w && fZero w 4 8 && fZero o 1 31) (.prefetch (uA w) (fBit o 0))
  | 4 => chk (u3z w && fZero o 30 2 && fZero o 26 1 && fZero o 4 15) (.copyScatter (uD w) (uA w) (uB w) (decRowCopy o))
  | 5 => chk (u3z w && fZero o 30 2 && fZero o 26 1 && fZero o 4 15) (.copyGather (uD w) (uA w) (uB w) (decRowCopy o))
  | 6 => chk (fZero w 4 14 && fZero o 4 28) (.tstclr (fD w) (o.extractLsb' 0 4))
  | _ => .error .unassigned

/-- Major 0x58. -/
def dec58 (w : BitVec 32) : Except DecodeErr Instr :=
  match (mMin w).toNat with
  | 0 => chk (fZero w 4 4) (.cld (fD w) (fA w) (mAux w))
  | 1 => chk (fZero w 4 4) (.cst (fD w) (fA w) (mAux w))
  | 2 => chk (fZero w 4 4) (.cred (fD w) (fA w) (mAux w))
  | 3 => chk (fZero w 4 4) (.cnext (fD w) (fA w) (mAux w))
  | 4 => chk (fZero w 4 4) (.cprobe (fD w) (fA w) (mAux w))
  | _ => .error .unassigned

/-- A and B uniform pairs, D zero, a scope in OPW [3:0]. -/
abbrev useUUS (w o : BitVec 32) (f : UReg → UReg → BitVec 4 → Instr) : Except DecodeErr Instr :=
  chk (fZero w 18 6 && uAz w && uBz w && fZero w 4 2 && fZero o 4 28) (f (uA w) (uB w) (o.extractLsb' 0 4))

/-- Major 0x59. -/
def dec59 (w o : BitVec 32) : Except DecodeErr Instr :=
  match (fMin w).toNat with
  | 0 => useUUS w o .collA2a
  | 1 => useUUS w o .collReduce
  | 2 => useUUS w o .collAllred
  | 3 => useUUS w o .collComp
  | _ => .error .unassigned

/-- Major 0x70. -/
def dec70 (w o : BitVec 32) : Except DecodeErr Instr :=
  match (fMin w).toNat with
  | 0 => chk (uBz w && fZero w 4 1 && fZero o 4 28) (.mma (fD w) (fA w) (fPA w) (uB w) (o.extractLsb' 0 4))
  | 1 => chk (uBz w && fZero w 4 1 && fZero o 4 28) (.mmaZ (fD w) (fA w) (fPA w) (uB w) (o.extractLsb' 0 4))
  | _ => .error .unassigned

/-- Major 0x71. -/
def dec71 (w o : BitVec 32) : Except DecodeErr Instr :=
  match (fMin w).toNat with
  | 0 => chk (uAz w && fZero w 4 8 && fZero o 5 27) (.acld (fD w) (uA w) (fBit o 4) (o.extractLsb' 0 4))
  | 1 => chk (uAz w && fZero w 4 8 && fZero o 5 27) (.acst (fD w) (uA w) (fBit o 4) (o.extractLsb' 0 4))
  | 2 => chk (fZero w 4 14 && fZero o 4 28) (.acz (fD w) (o.extractLsb' 0 4))
  | 3 => chk (uAz w && fZero w 5 1 && fZero o 4 28) (.accvt (fD w) (uA w) (fB w) (fPB w) (o.extractLsb' 0 4))
  | _ => .error .unassigned

/-- Major 0x72. -/
def dec72 (w o : BitVec 32) : Except DecodeErr Instr :=
  match (fMin w).toNat with
  | 0 => chk (uAz w && fZero w 4 8 && fZero o 0 32) (.route (fD w) (uA w))
  | 1 => useUUS w o .sort
  | _ => .error .unassigned

/-- Major 0x73. -/
def dec73 (w o : BitVec 32) : Except DecodeErr Instr :=
  match (fMin w).toNat with
  | 0 => chk (fZero o 0 32) (.sproj (fD w) (fA w) (fB w) (fPA w) (fPB w))
  | 1 => chk (fZero o 0 32) (.splat (fD w) (fA w) (fB w) (fPA w) (fPB w))
  | 2 => chk (fZero o 0 32 && fZero w 4 1) (.blend (fD w) (fA w) (fPA w) (fB w))
  | 3 => chk (fZero o 0 32 && fZero w 5 1) (.blendBwd (fD w) (fA w) (fB w) (fPB w))
  | _ => .error .unassigned

/-- Major 0x74. -/
def dec74 (w : BitVec 32) : Except DecodeErr Instr :=
  match (mMin w).toNat with
  | 0 => chk (fZero w 2 2) (.redF32 (fD w) (fA w) (mScope w) (w.extractLsb' 0 2))
  | 1 => chk (fZero w 12 12 && fZero w 0 8) .cflush
  | _ => .error .unassigned

/-- Major 0x75. -/
def dec75 (w o : BitVec 32) : Except DecodeErr Instr :=
  match (fMin w).toNat with
  | 0 => chk (fZero w 18 6 && uBz w && fZero w 4 1 && fZero o 15 17)
      (.trace (fA w) (fPA w) (uB w) ⟨fBit o 14, fBit o 13, fBit o 12, o.extractLsb' 8 4, o.extractLsb' 0 8⟩)
  | 1 => chk (fZero w 4 14 && fZero o 1 31) (.trres (fD w) (fBit o 0))
  | _ => .error .unassigned

/-- Major 0x76. -/
def dec76 (w o : BitVec 32) : Except DecodeErr Instr :=
  match (fMin w).toNat with
  | 0 => chk (uAz w && fZero w 4 8 && fZero o 4 28) (.smpld (fD w) (uA w) (o.extractLsb' 0 4))
  | 1 => chk (uBz w && fZero w 4 1 && fZero o 4 28) (.sample (fD w) (fA w) (fPA w) (uB w) (o.extractLsb' 0 4))
  | _ => .error .unassigned

/-- Major 0x77. -/
def dec77 (w o : BitVec 32) : Except DecodeErr Instr :=
  match (fMin w).toNat with
  | 0 => chk (uBz w && fZero w 4 1 && fZero o 0 32) (.rast (fD w) (fA w) (fPA w) (uB w))
  | 1 => chk (fZero w 4 14 && fZero o 0 32) (.rastFlush (fD w))
  | _ => .error .unassigned

/-- Major 0x78. -/
def dec78 (w o : BitVec 32) : Except DecodeErr Instr :=
  match (fMin w).toNat with
  | 0 => chk (fZero w 18 6 && uAz w && uBz w && fZero w 4 2 && fZero o 12 20 && fZero o 5 3)
      (.pres (uA w) (uB w) (o.extractLsb' 8 4) (fBit o 4) (fBit o 3) (o.extractLsb' 0 3))
  | _ => .error .unassigned

/-- The opcode map (R138 to R140): the instruction of the word `w` with the word `o` after it. -/
def decode (w o : BitVec 32) : Except DecodeErr Instr :=
  match (fMaj w).toNat with
  | 0x01 => dec01 w
  | 0x02 => dec02 w
  | 0x03 => dec03 w
  | 0x04 => decCc 0 w
  | 0x05 => decCc 1 w
  | 0x06 => decCc 2 w
  | 0x07 => decCc 3 w
  | 0x08 => decFp 0 w
  | 0x09 => decFp 1 w
  | 0x0A => decFp 2 w
  | 0x0B => decFp 3 w
  | 0x0C => dec0C w
  | 0x10 => decI 0 w
  | 0x11 => decI 1 w
  | 0x12 => decI 2 w
  | 0x13 => decI 3 w
  | 0x14 => decI 4 w
  | 0x15 => decI 5 w
  | 0x16 => decI 6 w
  | 0x20 => dec20 w
  | 0x21 => dec21 w o
  | 0x22 => dec22 w
  | 0x23 => dec23 w o
  | 0x24 => dec24 w
  | 0x28 => dec28 w
  | 0x40 => .ok (.bra (w.extractLsb' 0 24))
  | 0x41 => .ok (.call (w.extractLsb' 0 24))
  | 0x42 => dec42 w o
  | 0x43 => dec43 w o
  | 0x44 => dec44 w o
  | 0x45 => dec45 w
  | 0x50 => dec50 w
  | 0x51 => dec51 w
  | 0x52 => dec52 w
  | 0x53 => dec53 w
  | 0x54 => dec54 w
  | 0x55 => dec55 w
  | 0x56 => dec56 w o
  | 0x58 => dec58 w
  | 0x59 => dec59 w o
  | 0x70 => dec70 w o
  | 0x71 => dec71 w o
  | 0x72 => dec72 w o
  | 0x73 => dec73 w o
  | 0x74 => dec74 w
  | 0x75 => dec75 w o
  | 0x76 => dec76 w o
  | 0x77 => dec77 w o
  | 0x78 => dec78 w o
  | _ => .error .unassigned

/-- The majors of format X, whose instruction takes the next word as its operand word (R130, R138). -/
def isX (w : BitVec 32) : Bool :=
  let m := (fMaj w).toNat
  m == 0x21 || m == 0x23 || m == 0x42 || m == 0x43 || m == 0x44 || m == 0x56 || m == 0x59 || m == 0x70 || m == 0x71
    || m == 0x72 || m == 0x73 || m == 0x75 || m == 0x76 || m == 0x77 || m == 0x78

/-- The chain bit C, bit [31] (R130). -/
def chained (w : BitVec 32) : Bool := w.extractLsb' 31 1 == 1#1

/-! ENCODER. -/

/-- One bit. -/
def bit (b : Bool) : BitVec 1 := BitVec.ofBool b

/-- A word from its fields, which together have 32 bits. -/
def word {n : Nat} (x : BitVec n) (h : n = 32 := by rfl) : BitVec 32 := x.cast h

/-- A uniform register in a six-bit field. -/
abbrev u6 (x : UReg) : BitVec 6 := 0#1 ++ x

/-- A word of format A or X (R133): C and the major in eight bits, D, A, B, PA, PB, MIN. -/
def packA (maj : BitVec 8) (d a b : BitVec 6) (pa pb : Bool) (min : BitVec 4) : BitVec 32 :=
  word (maj ++ d ++ a ++ b ++ bit pa ++ bit pb ++ min)

/-- A word of format M (R133). -/
def packM (maj : BitVec 8) (t a : BitVec 6) (min scope aux : BitVec 4) : BitVec 32 :=
  word (maj ++ t ++ a ++ min ++ scope ++ aux)

/-- A word of format I (R133). -/
def packI (maj : BitVec 8) (d a : BitVec 6) (imm : BitVec 12) : BitVec 32 := word (maj ++ d ++ a ++ imm)

/-- A word of format J (R133). -/
def packJ (maj : BitVec 8) (off : BitVec 24) : BitVec 32 := word (maj ++ off)

/-- A word of format U with a register operand, and with an immediate (R133). -/
def packU (d a : UReg) (min : BitVec 4) (b : UReg) : BitVec 32 :=
  word (0x28#8 ++ d ++ a ++ 0#1 ++ min ++ b ++ 0#4)
@[inherit_doc packU] def packUI (d a : UReg) (min : BitVec 4) (n : BitVec 9) : BitVec 32 :=
  word (0x28#8 ++ d ++ a ++ 1#1 ++ min ++ n)

/-- AUX of majors 0x50 to 0x53: U in bit 0. -/
abbrev auxU (u : Bool) : BitVec 4 := 0#3 ++ bit u

/-- The instruction word and, in format X, the operand word. -/
abbrev Words := BitVec 32 × Option (BitVec 32)

/-- The words of an instruction (R133 to R140), the chain bit clear; no words for an event. -/
def encode : Instr → Option Words
  | .iadd d a b pa pb => some (packA 0x01 d a b pa pb 0, none)
  | .isub d a b pa pb => some (packA 0x01 d a b pa pb 1, none)
  | .iaddx d a b pa pb => some (packA 0x01 d a b pa pb 2, none)
  | .isubx d a b pa pb => some (packA 0x01 d a b pa pb 3, none)
  | .imul d a b pa pb => some (packA 0x01 d a b pa pb 4, none)
  | .imulhI32 d a b pa pb => some (packA 0x01 d a b pa pb 5, none)
  | .imulhN32 d a b pa pb => some (packA 0x01 d a b pa pb 6, none)
  | .iminI32 d a b pa pb => some (packA 0x01 d a b pa pb 7, none)
  | .iminN32 d a b pa pb => some (packA 0x01 d a b pa pb 8, none)
  | .imaxI32 d a b pa pb => some (packA 0x01 d a b pa pb 9, none)
  | .imaxN32 d a b pa pb => some (packA 0x01 d a b pa pb 10, none)
  | .iaddsI32 d a b pa pb => some (packA 0x01 d a b pa pb 11, none)
  | .iaddCc c d a b pa pb => some (packA (1#6 ++ c) d a b pa pb 0, none)
  | .isubCc c d a b pa pb => some (packA (1#6 ++ c) d a b pa pb 1, none)
  | .iaddxCc c d a b pa pb => some (packA (1#6 ++ c) d a b pa pb 2, none)
  | .isubxCc c d a b pa pb => some (packA (1#6 ++ c) d a b pa pb 3, none)
  | .imulCc c d a b pa pb => some (packA (1#6 ++ c) d a b pa pb 4, none)
  | .imulhI32Cc c d a b pa pb => some (packA (1#6 ++ c) d a b pa pb 5, none)
  | .imulhN32Cc c d a b pa pb => some (packA (1#6 ++ c) d a b pa pb 6, none)
  | .iminI32Cc c d a b pa pb => some (packA (1#6 ++ c) d a b pa pb 7, none)
  | .iminN32Cc c d a b pa pb => some (packA (1#6 ++ c) d a b pa pb 8, none)
  | .imaxI32Cc c d a b pa pb => some (packA (1#6 ++ c) d a b pa pb 9, none)
  | .imaxN32Cc c d a b pa pb => some (packA (1#6 ++ c) d a b pa pb 10, none)
  | .iaddsI32Cc c d a b pa pb => some (packA (1#6 ++ c) d a b pa pb 11, none)
  | .icmp c a b pa pb => some (packA (1#6 ++ c) 0 a b pa pb 12, none)
  | .fcmpF32 c a b pa pb => some (packA (1#6 ++ c) 0 a b pa pb 13, none)
  | .iadd64 d a b pa pb => some (packA 0x02 d a b pa pb 0, none)
  | .isub64 d a b pa pb => some (packA 0x02 d a b pa pb 1, none)
  | .addr d a b pa pb => some (packA 0x02 d a b pa pb 2, none)
  | .and d a b pa pb => some (packA 0x03 d a b pa pb 0, none)
  | .or d a b pa pb => some (packA 0x03 d a b pa pb 1, none)
  | .xor d a b pa pb => some (packA 0x03 d a b pa pb 2, none)
  | .shl d a b pa pb => some (packA 0x03 d a b pa pb 3, none)
  | .shrN32 d a b pa pb => some (packA 0x03 d a b pa pb 4, none)
  | .shrI32 d a b pa pb => some (packA 0x03 d a b pa pb 5, none)
  | .popc d a pa => some (packA 0x03 d a 0 pa false 6, none)
  | .clz d a pa => some (packA 0x03 d a 0 pa false 7, none)
  | .bfx d a b pa pb => some (packA 0x03 d a b pa pb 8, none)
  | .bfi d a b pa pb => some (packA 0x03 d a b pa pb 9, none)
  | .iaddi d a imm => some (packI 0x10 d a imm, none)
  | .andi d a imm => some (packI 0x11 d a imm, none)
  | .ori d a imm => some (packI 0x12 d a imm, none)
  | .xori d a imm => some (packI 0x13 d a imm, none)
  | .shli d a imm => some (packI 0x14 d a (0#7 ++ imm), none)
  | .shri d a imm => some (packI 0x15 d a (0#7 ++ imm), none)
  | .movi d imm => some (packI 0x16 d 0 imm, none)
  | .faddF32 r d a b pa pb => some (packA (2#6 ++ r) d a b pa pb 0, none)
  | .fsubF32 r d a b pa pb => some (packA (2#6 ++ r) d a b pa pb 1, none)
  | .fmulF32 r d a b pa pb => some (packA (2#6 ++ r) d a b pa pb 2, none)
  | .ffmaF32 r d a b pa pb => some (packA (2#6 ++ r) d a b pa pb 3, none)
  | .faddF16x2 r d a b pa pb => some (packA (2#6 ++ r) d a b pa pb 4, none)
  | .fmulF16x2 r d a b pa pb => some (packA (2#6 ++ r) d a b pa pb 5, none)
  | .ffmaF16x2 r d a b pa pb => some (packA (2#6 ++ r) d a b pa pb 6, none)
  | .faddBf16x2 r d a b pa pb => some (packA (2#6 ++ r) d a b pa pb 7, none)
  | .fmulBf16x2 r d a b pa pb => some (packA (2#6 ++ r) d a b pa pb 8, none)
  | .ffmaBf16x2 r d a b pa pb => some (packA (2#6 ++ r) d a b pa pb 9, none)
  | .fminF32 d a b pa pb => some (packA 0x0C d a b pa pb 0, none)
  | .fmaxF32 d a b pa pb => some (packA 0x0C d a b pa pb 1, none)
  | .fabsF32 d a pa => some (packA 0x0C d a 0 pa false 2, none)
  | .fnegF32 d a pa => some (packA 0x0C d a 0 pa false 3, none)
  | .fclassF32 d a pa => some (packA 0x0C d a 0 pa false 4, none)
  | .fminF16x2 d a b pa pb => some (packA 0x0C d a b pa pb 5, none)
  | .fmaxF16x2 d a b pa pb => some (packA 0x0C d a b pa pb 6, none)
  | .mov d a pa => some (packA 0x0C d a 0 pa false 7, none)
  | .rcpF32 d a pa => some (packA 0x20 d a 0 pa false 0, none)
  | .rsqrtF32 d a pa => some (packA 0x20 d a 0 pa false 1, none)
  | .sqrtF32 d a pa => some (packA 0x20 d a 0 pa false 2, none)
  | .exp2F32 d a pa => some (packA 0x20 d a 0 pa false 3, none)
  | .log2F32 d a pa => some (packA 0x20 d a 0 pa false 4, none)
  | .sinF32 d a pa => some (packA 0x20 d a 0 pa false 5, none)
  | .cosF32 d a pa => some (packA 0x20 d a 0 pa false 6, none)
  | .tanhF32 d a pa => some (packA 0x20 d a 0 pa false 7, none)
  | .fdivF32 d a b pa pb => some (packA 0x20 d a b pa pb 8, none)
  | .cvt d a pa ftz ovf rnd dst src =>
    some (packA 0x21 d a 0 pa false 0, some (word (0#19 ++ bit ftz ++ ovf ++ rnd ++ dst ++ src)))
  | .pack d a pa ovf rnd qtype fmt =>
    some (packA 0x21 d a 0 pa false 1, some (word (0#20 ++ ovf ++ rnd ++ 0#2 ++ qtype ++ fmt)))
  | .unpack d a pa fmt => some (packA 0x21 d a 0 pa false 2, some (word (0#28 ++ fmt)))
  | .sel d a b pa pb cond set => some (packA 0x21 d a b pa pb 3, some (word (0#26 ++ cond ++ set)))
  | .lanePick d a b pa pb => some (packA 0x22 d a b pa pb 0, none)
  | .laneRise d a b pa pb => some (packA 0x22 d a b pa pb 1, none)
  | .laneFall d a b pa pb => some (packA 0x22 d a b pa pb 2, none)
  | .laneSwap d a b pa pb => some (packA 0x22 d a b pa pb 3, none)
  | .pollSome d a pa => some (packA 0x22 d a 0 pa false 4, none)
  | .pollEvery d a pa => some (packA 0x22 d a 0 pa false 5, none)
  | .pollMask d a pa => some (packA 0x22 d a 0 pa false 6, none)
  | .foldAddI32 d a pa => some (packA 0x22 d a 0 pa false 7, none)
  | .foldMinI32 d a pa => some (packA 0x22 d a 0 pa false 8, none)
  | .foldMaxI32 d a pa => some (packA 0x22 d a 0 pa false 9, none)
  | .foldFaddF32 d a pa => some (packA 0x22 d a 0 pa false 10, none)
  | .scanAddI32 d a pa => some (packA 0x22 d a 0 pa false 11, none)
  | .bsort d a => some (packA 0x22 d (u6 a) 0 false false 12, none)
  | .intersect d a b pa pb => some (packA 0x22 d a b pa pb 13, none)
  | .prune d a b pa pb m logn => some (packA 0x23 d a b pa pb 0, some (word (0#18 ++ m ++ 0#5 ++ logn)))
  | .act d a pa tbl => some (packA 0x23 d a 0 pa false 1, some (word (0#30 ++ tbl)))
  | .actld d a => some (packA 0x23 d (u6 a) 0 false false 2, some 0)
  | .amax d a pa u size scope =>
    some (packA 0x23 d a 0 pa false 3, some (word (0#25 ++ bit u ++ 0#1 ++ bit size ++ scope)))
  | .vtos d a pa => some (packA 0x24 (u6 d) a 0 pa false 0, none)
  | .stov d a => some (packA 0x24 d (u6 a) 0 false false 1, none)
  | .uadd d a b => some (packU d a 0 b, none)
  | .uaddImm d a n => some (packUI d a 0 n, none)
  | .usub d a b => some (packU d a 1 b, none)
  | .usubImm d a n => some (packUI d a 1 n, none)
  | .uand d a b => some (packU d a 2 b, none)
  | .uandImm d a n => some (packUI d a 2 n, none)
  | .uor d a b => some (packU d a 3 b, none)
  | .uorImm d a n => some (packUI d a 3 n, none)
  | .uxor d a b => some (packU d a 4 b, none)
  | .uxorImm d a n => some (packUI d a 4 n, none)
  | .ushl d a b => some (packU d a 5 b, none)
  | .ushlImm d a n => some (packUI d a 5 n, none)
  | .ushr d a b => some (packU d a 6 b, none)
  | .ushrImm d a n => some (packUI d a 6 n, none)
  | .umov d b => some (packU d 0 7 b, none)
  | .umovImm d n => some (packUI d 0 7 n, none)
  | .bra off => some (packJ 0x40 off, none)
  | .call off => some (packJ 0x41 off, none)
  | .brc a pa cond set rz off =>
    some (packA 0x42 0 a 0 pa false 0, some (word (cond ++ set ++ bit rz ++ 0#1 ++ off)))
  | .meet clr off => some (packA 0x42 0 0 0 false false 1, some (word (0#7 ++ bit clr ++ off)))
  | .bar d n => some (packA 0x43 d 0 0 false false 0, some (word (0#28 ++ n)))
  | .barArrive n => some (packA 0x43 0 0 0 false false 1, some (word (0#28 ++ n)))
  | .barWait d n => some (packA 0x43 d 0 0 false false 2, some (word (0#28 ++ n)))
  | .carve d l1g scrg n => some (packA 0x43 d 0 0 false false 3, some (word (0#4 ++ l1g ++ 0#3 ++ scrg ++ 0#12 ++ n)))
  | .phase => some (packA 0x43 0 0 0 false false 4, some 0)
  | .spawn d a b pa pb fr join edge => some (packA 0x43 d a b pa pb 5, some (word (0#9 ++ bit fr ++ join ++ edge)))
  | .emit d a b pa pb fr join edge => some (packA 0x43 d a b pa pb 6, some (word (0#9 ++ bit fr ++ join ++ edge)))
  | .join d a pa => some (packA 0x43 d a 0 pa false 7, some 0)
  | .finish a pa => some (packA 0x43 0 a 0 pa false 8, some 0)
  | .mcall p3 p2 p1 p0 slot => some (packA 0x44 0 0 0 false false 0, some (word (0#2 ++ p3 ++ p2 ++ p1 ++ p0 ++ slot)))
  | .mload d a slot => some (packA 0x44 d (u6 a) 0 false false 1, some (word (0#26 ++ slot)))
  | .trap code => some (packA 0x44 0 0 0 false false 2, some (word (0#16 ++ code)))
  | .svc code => some (packA 0x44 0 0 0 false false 3, some (word (0#16 ++ code)))
  | .eret => some (packA 0x44 0 0 0 false false 4, some 0)
  | .rdsys d w64 sreg => some (packA 0x44 d 0 0 false false 5, some (word (0#15 ++ bit w64 ++ sreg)))
  | .wrsys a pa w64 sreg => some (packA 0x44 0 a 0 pa false 6, some (word (0#15 ++ bit w64 ++ sreg)))
  | .jmp a pa => some (packA 0x45 0 a 0 pa false 0, none)
  | .callr d a pa => some (packA 0x45 d a 0 pa false 1, none)
  | .ret a pa => some (packA 0x45 0 a 0 pa false 2, none)
  | .exit => some (packA 0x45 0 0 0 false false 3, none)
  | .nop => some (packA 0x45 0 0 0 false false 4, none)
  | .yield => some (packA 0x45 0 0 0 false false 5, none)
  | .elect d => some (packA 0x45 d 0 0 false false 6, none)
  | .sprd d sp => some (packA 0x45 d sp 0 false false 7, none)
  | .spwr b pb => some (packA 0x45 0 13 b false pb 8, none)
  | .ldN8 t a u => some (packM 0x50 t a 0 0 (auxU u), none)
  | .ldI8 t a u => some (packM 0x50 t a 1 0 (auxU u), none)
  | .ldN16 t a u => some (packM 0x50 t a 2 0 (auxU u), none)
  | .ldI16 t a u => some (packM 0x50 t a 3 0 (auxU u), none)
  | .ldN32 t a u => some (packM 0x50 t a 4 0 (auxU u), none)
  | .ldN64 t a u => some (packM 0x50 t a 5 0 (auxU u), none)
  | .ldN32x4 t a u => some (packM 0x50 t a 6 0 (auxU u), none)
  | .stN8 t a u => some (packM 0x51 t a 0 0 (auxU u), none)
  | .stN16 t a u => some (packM 0x51 t a 1 0 (auxU u), none)
  | .stN32 t a u => some (packM 0x51 t a 2 0 (auxU u), none)
  | .stN64 t a u => some (packM 0x51 t a 3 0 (auxU u), none)
  | .stN32x4 t a u => some (packM 0x51 t a 4 0 (auxU u), none)
  | .uldN32 t a u => some (packM 0x52 (u6 t) a 0 0 (auxU u), none)
  | .uldN64 t a u => some (packM 0x52 (u6 t) a 1 0 (auxU u), none)
  | .ustN32 t a u => some (packM 0x52 (u6 t) a 2 0 (auxU u), none)
  | .ustN64 t a u => some (packM 0x52 (u6 t) a 3 0 (auxU u), none)
  | .ldsN32 t a u => some (packM 0x53 t a 0 0 (auxU u), none)
  | .ldsN64 t a u => some (packM 0x53 t a 1 0 (auxU u), none)
  | .ldsN32x4 t a u => some (packM 0x53 t a 2 0 (auxU u), none)
  | .stsN32 t a u => some (packM 0x53 t a 3 0 (auxU u), none)
  | .stsN64 t a u => some (packM 0x53 t a 4 0 (auxU u), none)
  | .stsN32x4 t a u => some (packM 0x53 t a 5 0 (auxU u), none)
  | .gather t a sz => some (packM 0x53 t a 6 0 (0#2 ++ sz), none)
  | .scatter t a sz => some (packM 0x53 t a 7 0 (0#2 ++ sz), none)
  | .atomAdd t a s sc ty => some (packM 0x54 t a 0 s (bit sc ++ ty), none)
  | .atomMin t a s sc ty => some (packM 0x54 t a 1 s (bit sc ++ ty), none)
  | .atomMax t a s sc ty => some (packM 0x54 t a 2 s (bit sc ++ ty), none)
  | .atomAnd t a s sc ty => some (packM 0x54 t a 3 s (bit sc ++ ty), none)
  | .atomOr t a s sc ty => some (packM 0x54 t a 4 s (bit sc ++ ty), none)
  | .atomXor t a s sc ty => some (packM 0x54 t a 5 s (bit sc ++ ty), none)
  | .atomXchg t a s sc ty => some (packM 0x54 t a 6 s (bit sc ++ ty), none)
  | .atomCas t a s sc ty => some (packM 0x54 t a 7 s (bit sc ++ ty), none)
  | .redAdd t a s sc ty => some (packM 0x54 t a 8 s (bit sc ++ ty), none)
  | .redMin t a s sc ty => some (packM 0x54 t a 9 s (bit sc ++ ty), none)
  | .redMax t a s sc ty => some (packM 0x54 t a 10 s (bit sc ++ ty), none)
  | .scld t a s sz => some (packM 0x55 t a 0 s (0#2 ++ sz), none)
  | .scst t a s sz => some (packM 0x55 t a 1 s (0#2 ++ sz), none)
  | .acq t a s => some (packM 0x55 t a 2 s 0, none)
  | .rel a s => some (packM 0x55 0 a 3 s 0, none)
  | .bind t a => some (packM 0x55 t a 4 0 0, none)
  | .fenceAll s => some (packM 0x55 0 0 5 s 0, none)
  | .copy d a b w =>
    some (packA 0x56 (u6 d) (u6 a) (u6 b) false false 0,
      some (word (0#2 ++ w.skind ++ bit w.dscr ++ bit w.tr ++ w.layout ++ bit w.bound ++ w.bar ++ w.wscope ++ bit w.cw
        ++ 0#10 ++ w.ch)))
  | .copyWait d a ch => some (packA 0x56 d (u6 a) 0 false false 1, some (word (0#28 ++ ch)))
  | .copyQuery d clr ch => some (packA 0x56 d 0 0 false false 2, some (word (0#27 ++ bit clr ++ ch)))
  | .prefetch a l1 => some (packA 0x56 0 (u6 a) 0 false false 3, some (word (0#31 ++ bit l1)))
  | .copyScatter d a b w =>
    some (packA 0x56 (u6 d) (u6 a) (u6 b) false false 4,
      some (word (0#2 ++ w.skind ++ bit w.dscr ++ 0#1 ++ w.layout ++ bit w.bound ++ w.bar ++ 0#15 ++ w.ch)))
  | .copyGather d a b w =>
    some (packA 0x56 (u6 d) (u6 a) (u6 b) false false 5,
      some (word (0#2 ++ w.skind ++ bit w.dscr ++ 0#1 ++ w.layout ++ bit w.bound ++ w.bar ++ 0#15 ++ w.ch)))
  | .tstclr d mask => some (packA 0x56 d 0 0 false false 6, some (word (0#28 ++ mask)))
  | .cld t a h => some (packM 0x58 t a 0 0 h, none)
  | .cst t a h => some (packM 0x58 t a 1 0 h, none)
  | .cred t a h => some (packM 0x58 t a 2 0 h, none)
  | .cnext t a h => some (packM 0x58 t a 3 0 h, none)
  | .cprobe t a h => some (packM 0x58 t a 4 0 h, none)
  | .collA2a a b s => some (packA 0x59 0 (u6 a) (u6 b) false false 0, some (word (0#28 ++ s)))
  | .collReduce a b s => some (packA 0x59 0 (u6 a) (u6 b) false false 1, some (word (0#28 ++ s)))
  | .collAllred a b s => some (packA 0x59 0 (u6 a) (u6 b) false false 2, some (word (0#28 ++ s)))
  | .collComp a b s => some (packA 0x59 0 (u6 a) (u6 b) false false 3, some (word (0#28 ++ s)))
  | .mma d a pa b tile => some (packA 0x70 d a (u6 b) pa false 0, some (word (0#28 ++ tile)))
  | .mmaZ d a pa b tile => some (packA 0x70 d a (u6 b) pa false 1, some (word (0#28 ++ tile)))
  | .acld d a tr tile => some (packA 0x71 d (u6 a) 0 false false 0, some (word (0#27 ++ bit tr ++ tile)))
  | .acst d a tr tile => some (packA 0x71 d (u6 a) 0 false false 1, some (word (0#27 ++ bit tr ++ tile)))
  | .acz d tile => some (packA 0x71 d 0 0 false false 2, some (word (0#28 ++ tile)))
  | .accvt d a b pb tile => some (packA 0x71 d (u6 a) b false pb 3, some (word (0#28 ++ tile)))
  | .route d a => some (packA 0x72 d (u6 a) 0 false false 0, some 0)
  | .sort a b s => some (packA 0x72 0 (u6 a) (u6 b) false false 1, some (word (0#28 ++ s)))
  | .sproj d a b pa pb => some (packA 0x73 d a b pa pb 0, some 0)
  | .splat d a b pa pb => some (packA 0x73 d a b pa pb 1, some 0)
  | .blend d a pa b => some (packA 0x73 d a b pa false 2, some 0)
  | .blendBwd d a b pb => some (packA 0x73 d a b false pb 3, some 0)
  | .redF32 t a s w => some (packM 0x74 t a 0 s (0#2 ++ w), none)
  | .cflush => some (packM 0x74 0 0 1 0 0, none)
  | .trace a pa b w =>
    some (packA 0x75 0 a (u6 b) pa false 0,
      some (word (0#17 ++ bit w.emit ++ bit w.cullb ++ bit w.first ++ w.rtype ++ w.mask)))
  | .trres d s => some (packA 0x75 d 0 0 false false 1, some (word (0#31 ++ bit s)))
  | .smpld d a slot => some (packA 0x76 d (u6 a) 0 false false 0, some (word (0#28 ++ slot)))
  | .sample d a pa b slot => some (packA 0x76 d a (u6 b) pa false 1, some (word (0#28 ++ slot)))
  | .rast d a pa b => some (packA 0x77 d a (u6 b) pa false 0, some 0)
  | .rastFlush d => some (packA 0x77 d 0 0 false false 1, some 0)
  | .pres a b ws enc scan head =>
    some (packA 0x78 0 (u6 a) (u6 b) false false 0, some (word (0#20 ++ ws ++ 0#3 ++ bit enc ++ bit scan ++ head)))
  | _ => none

/-- The decoder's answer for an instruction given as bits: bit 0 is bit 0 of the first word, and the second word is bits
63 to 32. A format X instruction is two words (R130); the words lie in memory little-endian, the first lowest (R3, R126). -/
def decodeTableWord (_nbits w : Nat) : Option Instr :=
  match decode (BitVec.ofNat 32 w) (BitVec.ofNat 32 (w / 2 ^ 32)) with
  | .ok i => some i
  | .error _ => none

end Sys2Proof
end

