-- ==== Sys2Proof/Machine/NMap.lean ====
section
/-!
DEFINITION. Finite maps from natural keys, as plain data: a list of pairs read with a default. Registers, scratchpads
and tables of the state are such maps; `put` never drops an entry, so its two laws hold of every list.
-/

namespace Sys2Proof.Machine

/-- A finite map: pairs of key and value, meant to rise by key; a key not listed reads as a default. -/
abbrev NMap (α : Type) := List (Nat × α)

/-- The value at key `k`, `d` where none is listed. -/
def NMap.get {α : Type} (d : α) : NMap α → Nat → α
  | [], _ => d
  | (k', x) :: m, k => if k = k' then x else if k < k' then d else NMap.get d m k

/-- The map with key `k` holding `x`. -/
def NMap.put {α : Type} : NMap α → Nat → α → NMap α
  | [], k, x => [(k, x)]
  | (k', y) :: m, k, x =>
    if k = k' then (k, x) :: m
    else if k < k' then (k, x) :: (k', y) :: m
    else (k', y) :: NMap.put m k x

/-- The entry at key `k`, if listed. -/
def NMap.find {α : Type} : NMap α → Nat → Option α
  | [], _ => none
  | (k', x) :: m, k => if k = k' then some x else if k < k' then none else NMap.find m k

/-- The map without the keys that `p` selects. -/
def NMap.drop {α : Type} (p : Nat → Bool) (m : NMap α) : NMap α :=
  m.filter (fun e => !p e.1)

end Sys2Proof.Machine
end

