-- ==== Sys2Proof/Machine/State.lean ====
section
/-!
DEFINITION. The state of one package as plain data, the reasons a step can stop, and the state after reset.
Register files and tables are finite maps from natural keys (NMap); the keys are in Machine/Ops.lean.
-/

namespace Sys2Proof.Machine

open Sys2Proof (Word Byte Dbl Instr AtomOp Msg Req Frame)

/-- The causes of R346. -/
inductive Cause where
  | illegalOp | illegalField | illegalChain | execPool | feEmpty | fmtDiverge | cvtOverflow | align | access | pageFault
  | overlap | indexExhausted | detSpill | brk | svc | memUe | nodeUe
  deriving DecidableEq, Repr

/-- Reasons to stop with a fault. The machine of the spec takes its faults as traps of a thread or as fault-queue
entries, so no rule stops the whole machine. -/
inductive Fault where
  /-- A memory list out of its canonical form, found by a check of the model: raised by nothing; safe. -/
  | badMemory
  deriving DecidableEq, Repr

/-- Reasons to refuse. -/
inductive Refusal where
  /-- The instruction has no meaning yet: raised by its arm of `exec`; safe. -/
  | notModelled (mnemonic : String)
  deriving DecidableEq, Repr

/-- A move of an agent: a quarter of a core issues, or the event that the instruction names happens; of the model's own, a load on its
way or a team's code is looked at before it arrives or is fetched (logs 17 and 69). -/
inductive Move where
  | issue (core quarter : Nat)
  | event (i : Instr)
  | sampleLoad (k : Nat)
  | sampleCode (uid pos : Nat)
  /-- The k-th part of what engines have still to write is written (R94). -/
  | enginePart (k : Nat)
  deriving DecidableEq, Repr

/-- A trap found at an issue (R346, R347): its cause, the lowest failing lane, the failed check, the trap code, the
address, and whether the failing access was a write. -/
structure Trap where
  cause : Cause
  lane : Nat := 0
  check : Nat := 0
  code : Nat := 0
  addr : Nat := 0
  write : Bool := false
  deriving DecidableEq, Repr

/-- The issue latch: the model's record of the issue under way. `lanes` are the active lanes in ascending order; `pos`
the position of the group, `word` the word index of the instruction, `follow` the position after the group; `tgt` the
transfers taken; `v0`, `u0`, `cc0`, `fpctl0` the registers as they stood at the issue (R132); `trap` the first trap
found; `moved` the lanes whose position the instruction itself has settled; `stall` says that it cannot issue yet, `judged` that this has
been tested for the whole group on the state before it. -/
structure Issue where
  uid : Nat := 0
  gang : Nat := 0
  frag : Nat := 0
  lanes : List Nat := []
  pos : Nat := 0
  word : Nat := 0
  follow : Nat := 0
  tgt : NMap Nat := []
  v0 : NMap Word := []
  u0 : NMap Word := []
  cc0 : NMap (BitVec 4) := []
  fpctl0 : Word := 0
  mstep : Option Nat := none
  moved : List Nat := []
  trap : Option Trap := none
  stall : Bool := false
  judged : Bool := false
  deriving DecidableEq, Repr

/-- A held translation (R79): where (core, 192 + die, or 194 + die for the Sluice), for which slice, the page's virtual
and physical base and size, the leaf's permissions, and the address of the leaf entry. -/
structure Tlb where
  place : Nat
  slice : Nat
  va : Nat
  size : Nat
  pa : Nat
  tier : Nat
  w : Bool
  x : Bool
  p : Bool
  disc : Bool
  caddy : Bool
  ent : Nat
  deriving DecidableEq, Repr

/-- What a thread that cannot issue waits for. -/
inductive Wait where
  | none
  /-- Held at its `%meet` (R35). -/
  | held
  /-- At barrier b, for the barrier word in v[d] (R184, R185). -/
  | barrier (b d : Nat)
  /-- At PHASE (R188). -/
  | phase
  /-- A REL of the object at this address and scope, with the translation made at issue (R100); remote writes with tags
  below `upto` must be answered first (R107). -/
  | rel (addr scope : Nat) (tr : Option Tlb) (upto : Nat)
  /-- A FENCE.ALL of this scope (R102); `upto` as for REL: the tag below which the remote writes must be answered. -/
  | fence (scope upto : Nat)
  /-- A BIND (R211). -/
  | bind
  /-- A CFLUSH (R251). -/
  | cflush
  /-- Its own wait has ended; it goes on when every thread of its fragment has (R33). -/
  | done
  /-- Stopped by a fault of its own until the fault's entry is answered (R350). -/
  | faulted
  /-- Only in `Back`: its barrier's phase completed while a fault kept it away, with this barrier word for v[d]. -/
  | departed (d : Nat) (word : Word)
  deriving DecidableEq, Repr

/-- Where a thread stood that a fault found waiting, and the wait it goes back to when the fault is over (R37, R350, R354);
`wait` none means that only a wait for its memory operations kept it at `pos`. -/
structure Back where
  pos : Nat
  next : Nat
  wait : Wait
  deriving DecidableEq, Repr

/-- A macro under way: the slot, the position of the MCALL, the body at its issue, the parameters, the next micro-step
(R194). -/
structure MacroRun where
  slot : Nat
  at_ : Nat
  ops : List (BitVec 32 × BitVec 32)
  params : List Nat
  step : Nat
  deriving DecidableEq, Repr

/-- The results that TRRES reads (R254). -/
structure TravRes where
  t : Word := 0x7F800000
  prim : Word := 0xFFFFFFFF
  instIx : Word := 0xFFFFFFFF
  geom : Word := 0xFFFFFFFF
  u : Word := 0
  v : Word := 0
  status : Word := 0
  deriving DecidableEq, Repr

/-- A hit accepted so far by a traversal, with the address of its instance record (R333). -/
structure Hit where
  t : Word
  prim : Word
  instIx : Word
  geom : Word
  u : Word
  v : Word
  shader : Nat
  addr : Nat
  deriving DecidableEq, Repr

/-- An instance that a traversal has entered (R330, R332): its identifier, shader base, record address and flags, and the
ray as transformed. -/
structure TInst where
  id : Word
  shader : Nat
  addr : Nat
  flags : Nat
  org : List Word
  dir : List Word
  deriving DecidableEq, Repr

/-- A node that a traversal has to visit: kind (0 interior, 1 leaf, 2 instance), address, triangles, its place on the path
from 1 up, the near distance of its box, and the instance it lies in. -/
structure TNode where
  kind : Nat
  addr : Nat
  cnt : Nat
  level : Nat
  near : Word
  inst : Option TInst
  deriving DecidableEq, Repr

/-- A traversal in flight (R252, R332, R336): its ray, its options, the current tmax `lim`, the node to visit, the short
stack, the levels of the dropped entries, newest first, the restart trail and, in a restart, the level that it descends to (R334), the
best hit, the emission sequence. `fault` is a fault met on a node, or the malformed node at which it ended; `told` that a
TRRES has reported it; `sure` the hit that it was found to come to when a TRRES issued that still waits for it (R331). -/
structure Trav where
  org : List Word
  user : Word
  dir : List Word
  tmax : Word
  tmin : Word
  root : Nat
  table : Nat
  priv : Bool
  emit : Bool
  cullb : Bool
  first : Bool
  rtype : Nat
  mask : Nat
  seq : Nat
  lim : Word
  cur : Option TNode
  stack : List TNode
  drops : List Nat
  trail : Nat
  redo : Nat
  best : Option Hit
  fault : Option (Cause × Nat)
  told : Bool
  sure : Option (Option Hit)
  deriving DecidableEq, Repr

/-- A node, leaf or instance record held by a core's node cache for a team (R335). -/
structure NodeLine where
  core : Nat
  uid : Nat
  addr : Nat
  data : List Byte
  deriving DecidableEq, Repr

/-- A thread (R30 to R36). Positions are packet address plus word index. A thread that does not exist reads as exited.
`frag` is the lowest lane of its fragment, `stamp` the step at which the fragment last issued, `sleep` that a YIELD
keeps it from being ready; `wait` is a meeting, a barrier, PHASE or a fault, `mwait` the wait of a REL, FENCE.ALL, BIND or
CFLUSH; `back` is the wait that a fault on the host route interrupted, `hback` one on the team-handler route; `next` is the position it continues at when its waits end; `mrun` and `hrun` are the macros
under way outside and inside handler mode;
`trw` the TRRES reads that wait for the traversal (R254); `fenced` one more than the widest scope of its FENCE.ALLs so far. -/
structure Thread where
  exited : Bool := true
  pos : Nat := 0
  next : Nat := 0
  meet : Nat := 0
  wait : Wait := .none
  mwait : Wait := .none
  back : Option Back := none
  hback : Option Back := none
  frag : Nat := 0
  stamp : Nat := 0
  sleep : Bool := false
  handler : Bool := false
  epc : Dbl := 0
  detail : Dbl := 0
  taddr : Dbl := 0
  mrun : Option MacroRun := none
  hrun : Option MacroRun := none
  trav : Option Trav := none
  tres : TravRes := {}
  trw : List (Nat × Bool) := []
  fenced : Nat := 0
  deriving DecidableEq, Repr

/-- A barrier of a team (R184, R187). `arrived` are the threads that arrived at the current phase, `copies` the bound
copies still to arrive, `has` that some phase has completed, `last` its barrier word. -/
structure Bar where
  phase : Nat := 0
  arrived : List Nat := []
  copies : Nat := 0
  error : Bool := false
  has : Bool := false
  last : Word := 0
  carve : Option (Nat × Nat) := none
  carveBad : Bool := false
  deriving DecidableEq, Repr

/-- A tensor shape-and-stride record (R82). -/
structure Trec where
  base : Nat
  esz : Nat
  rank : Nat
  ext : List Nat
  str : List Int
  deriving DecidableEq, Repr

/-- At most 8 bytes, within a naturally aligned part, that an engine operation has still to write (R94). `op` is the model's name of the
operation. -/
structure EngPart where
  uid : Nat
  op : Nat
  core : Nat
  va : Nat
  tr : Tlb
  bs : List Byte
  deriving DecidableEq, Repr

/-- What ends an engine operation once it has written everything (R103): registers of a gang's lanes, or a completion word. -/
inductive EngFin where
  | reg (gang : Nat) (lanes : List Nat) (d : Nat) (x : Word)
  | word (core slice : Nat) (priv : Bool) (launch va scope word : Nat)
  deriving DecidableEq, Repr

/-- The operation of a queued copy. -/
inductive CopyKind where
  | plain (tr : Bool) (layout : Nat)
  | scatter (layout : Nat) (idx : List Nat)
  | gather (layout : Nat) (idx : List Nat)
  deriving DecidableEq, Repr

/-- A Pump copy in a channel (R217, R219): kinds, records, barrier, completion word, the destination bytes delivered and
their total; `busy` says that its next piece awaits another package, reading (1) or writing (2), `got` the bytes read so; `met` the
faults that the Sluice has met ahead, by 4 KiB unit and whether for a write, held back until the unit is used (R83). -/
structure Copy where
  kind : CopyKind
  priv : Bool
  skind : Nat
  dscr : Bool
  src : Trec
  dst : Trec
  handle : Nat
  bar : Option Nat
  done : Option (Nat × Nat)
  at_ : Nat
  total : Nat
  started : Bool
  fault : Bool
  busy : Nat
  got : Option (List Byte)
  met : List (Nat × Bool × Cause) := []
  deriving DecidableEq, Repr

/-- A copy channel (R90, R223). -/
structure Chan where
  wp : Nat := 0
  err : Bool := false
  queue : List Copy := []
  deriving DecidableEq, Repr

/-- The logged LD of a gang (R353, R357): its fragment, the word index and packet of the LD, its minor and register,
its lanes' addresses, whether the check failed, whether its threads were in handler mode, and its micro-step in a macro. -/
structure OpLog where
  frag : Nat
  word : Nat
  packet : Nat
  minor : Nat
  t : Nat
  addrs : List (Nat × Nat)
  deferred : Bool
  handler : Bool
  step : Nat
  deriving DecidableEq, Repr

/-- A record (R38): the header and the payload. -/
structure Rec where
  hdr : BitVec 128
  pay : BitVec 128
  deriving DecidableEq, Repr

/-- A fault of a team that has still to be posted: its entry's fields (R351). -/
structure FaultInfo where
  detail : Dbl
  addr : Dbl
  pos : Nat
  lane : Nat
  deriving DecidableEq, Repr

/-- Why Kettle stops a team (R356): 1 pre-emption, 2 context switch, 3 fault, 4 contained error; whether it is to be flushed
(R67); the faults still to be posted; for a pre-emption its bound in µs, how many teams its request names, and whether the
choice has been made (R66). -/
structure Stop where
  reason : Nat
  flush : Bool
  faults : List FaultInfo
  bound : Nat := 0
  n : Nat := 1
  chosen : Bool := false
  deriving DecidableEq, Repr

/-- A resident team (R28 to R32, R40, R43). -/
structure Team where
  live : Bool := false
  core : Nat := 0
  slot : Nat := 0
  q0 : Nat := 0
  slice : Nat := 0
  launch : Nat := 0
  node : Nat := 0
  lti : Nat := 0
  recs : List Rec := []
  tx : Nat := 0
  ty : Nat := 0
  tz : Nat := 0
  tlin : Nat := 0
  stage : Nat := 0
  sx : Nat := 1
  sy : Nat := 1
  sz : Nat := 1
  n : Nat := 64
  nreg : Nat := 4
  regg : Nat := 0
  scrg : Nat := 0
  l1g : Nat := 0
  acc : Nat := 0
  scr : Nat := 0
  priv : Bool := false
  det : Bool := false
  idem : Bool := false
  status : Word := 0
  fpctl : Word := 0
  skew0 : Word := 0
  skew1 : Word := 0
  area : Word := 0x2000
  lcoord : Word := 0
  bars : NMap Bar := []
  chans : NMap Chan := []
  stats : NMap Nat := []
  emitted : NMap Nat := []
  emSeq : Nat := 0
  acted : Bool := false
  phased : Bool := false
  seqs : NMap Nat := []
  actld : Nat := 0
  mloads : NMap Nat := []
  smplds : NMap Nat := []
  stop : Option Stop := none
  open_ : List Nat := []
  drain : Bool := false
  budget : Nat := 0
  /-- The forms of the code lines that the team's fetches may find (R129); the step at which it last started (R97). -/
  code : NMap (List (List Byte)) := []
  since : Nat := 0
  deriving DecidableEq, Repr

/-- A record held in a node queue (R55): its slot, and what deterministic numbering needs of its producer (R63). -/
structure QRec where
  slot : Nat
  plti : Nat
  seq : Nat
  deriving DecidableEq, Repr

/-- A node of a work graph (R53) with its queue in order (R55) and the slots reserved on it (R56). -/
structure GNode where
  qbase : Nat := 0
  qcap : Nat := 0
  code : Nat := 0
  sx : Nat := 1
  sy : Nat := 1
  sz : Nat := 1
  nreg : Nat := 4
  l1g : Nat := 0
  batch : Nat := 1
  stage : Nat := 0
  idem : Bool := false
  scr : Nat := 0
  budget : Nat := 0
  acc : Nat := 0
  queue : List QRec := []
  resv : Nat := 0
  deriving DecidableEq, Repr

/-- An edge of a work graph (R53). -/
structure GEdge where
  src : Nat
  dst : Nat
  maxEmit : Nat
  deriving DecidableEq, Repr

/-- A team of a deterministic phase that has not started (R63): its index, node and record slots. -/
structure PhTeam where
  lti : Nat
  node : Nat
  slots : List Nat
  deriving DecidableEq, Repr

/-- A launch (R50 to R53, R59, R62, R101). `rank` orders launches of equal standing, 0 for never placed; `wait` counts
whole aging quanta of waiting; `st` is the completion STATUS so far. -/
structure Launch where
  live : Bool := false
  slice : Nat := 0
  queue : Nat := 0
  ring : Nat := 0
  priv : Bool := false
  rcd : Rec := ⟨0, 0⟩
  ex : Nat := 1
  ey : Nat := 1
  ez : Nat := 1
  node0 : GNode := {}
  det : Bool := false
  ser : Bool := false
  done : Nat := 0
  stats : Nat := 0
  spill : Nat := 0
  spilln : Nat := 0
  lcoord : Word := 0
  hasGraph : Bool := false
  nodes : List GNode := []
  edges : List GEdge := []
  started : Nat := 0
  flushed : List Nat := []
  phase : Nat := 0
  phTeams : List PhTeam := []
  runs : Nat := 0
  st : Nat := 0
  posted : Bool := false
  binds : List (Nat × Nat × Nat) := []
  wait : Nat := 0
  rank : Nat := 0
  /-- The STATUS with which an aborted launch ends once its writes have been answered (R52, R352). -/
  dying : Option Nat := none
  deriving DecidableEq, Repr

/-- A ROUTE under way (R239). -/
structure RouteOp where
  uid : Nat
  core : Nat
  slice : Nat
  priv : Bool
  gang : Nat
  lanes : List Nat
  d : Nat
  desc : List Byte
  deriving DecidableEq, Repr

/-- A saved team (R68, R69): what Kettle's own state and the unit state hold of it beside the save area at `addr`. The
team's `open_` are the fault entries still to answer. -/
structure Saved where
  uid : Nat
  addr : Nat
  size : Nat
  team : Team
  threads : List (Nat × Thread)
  logs : List (Nat × List OpLog)
  routes : List RouteOp
  clock : Nat := 0
  deriving DecidableEq, Repr

/-- A copy of a line held at an L1 or a die cache (R86, R93, R366): its bytes and the bytes written here; the step at which
its filling began (R100); the virtual lines under which it was written, which bindings name (R101); for each byte the slice whose core
wrote it. -/
structure LineCopy where
  data : List Byte
  dirty : List Bool
  born : Nat
  vas : List Nat
  who : List Nat
  deriving DecidableEq, Repr

/-- What a plain load's arrival may read again (R99): the core, the address and its translation, the bytes as they stood at
the issue, and LD's minor and register. -/
structure LateLoad where
  core : Nat
  va : Nat
  tr : Option Tlb
  bytes : List Byte
  minor : Nat
  reg : Nat
  deriving DecidableEq, Repr

/-- Registers of a thread to be written late. -/
structure Fill where
  uid : Nat
  t : Nat
  vals : List (Nat × Word)
  uni : Bool
  src : Option LateLoad := none
  deriving DecidableEq, Repr

/-- An operation to be performed at a place after its issue: an atomic (R207), AMAX (R172), an SC operation (R209), an
ACQ (R210), the increment of REL (R100), the second half of a 16-byte store (R94). -/
inductive OpK where
  | atom (op : AtomOp) (ty : Nat)
  | amax
  | read
  | write
  | rel
  | half
  deriving DecidableEq, Repr

/-- A pending operation at a place; `tr` is the translation made at issue, none for a domain-global address. -/
structure Pend where
  uid : Nat
  t : Nat
  core : Nat
  slice : Nat
  kind : OpK
  va : Nat
  size : Nat
  x : Nat
  cmp : Nat
  scope : Nat
  sc : Bool
  acq : Bool
  regs : List Nat
  tr : Option Tlb
  deriving DecidableEq, Repr

/-- What a buffered operation of a deterministic launch does (R64, R208, R228, R250); `line` is the region's declaration line as it was
at the issue. -/
inductive BufK where
  | atom (op : AtomOp) (ty : Nat) (x cmp : Nat)
  | redF32 (x : Word)
  | cred (handle line key : Nat) (data : List Word) (need : Nat)
  deriving DecidableEq, Repr

/-- A buffered operation with its sort key (R64) and the privilege of its thread. -/
structure BufOp where
  uid : Nat
  launch : Nat
  core : Nat
  priv : Bool
  lti : Nat
  gang : Nat
  lane : Nat
  seq : Nat
  kind : BufK
  va : Nat
  scope : Nat
  regs : List Nat
  spilled : Bool
  sent : Bool
  deriving DecidableEq, Repr

/-- A record on its way to its queue's home slice (R189). -/
structure RecArr where
  uid : Nat
  launch : Nat
  node : Nat
  rcd : Rec
  plti : Nat
  seq : Nat
  t : Nat
  d : Option Nat
  deriving DecidableEq, Repr

/-- A JOIN or FINISH on its way (R191). -/
structure JoinArr where
  uid : Nat
  launch : Nat
  addr : Nat
  t : Nat
  d : Option Nat
  deriving DecidableEq, Repr

/-- A caddy operation on its way to its unit (R226, R300). -/
structure CaddyOp where
  uid : Nat
  launch : Nat
  t : Nat
  slice : Nat
  minor : Nat
  handle : Nat
  line : Nat
  key : Nat
  data : List Word
  reg : Nat
  w : Nat
  need : Nat
  deriving DecidableEq, Repr


/-- A declared caddy region as its unit keeps it (R295, R303, R304): entries by rising key; the tree's shape as the
lowest key routed to each leaf and, level by level from the leaves up, the children of each interior node; the pool pages
taken; nodes reserved for buffered CREDs; whether an error fenced it (R309); the root node's address, which names nothing
until the root first exists. -/
structure CReg where
  entries : List (Nat × List Word) := []
  seps : List Nat := []
  levels : List (List Nat) := []
  pages : List Nat := []
  resv : Nat := 0
  fenced : Bool := false
  root : Nat := 0
  deriving DecidableEq, Repr

/-- An operation of a core's matrix engine or accumulator store (R234, R237). -/
inductive MOpK where
  | mma (zero : Bool) (fmt aoff boff sa sb : Nat)
  | acld (off : Nat) (tr : Bool)
  | acst (off : Nat) (tr : Bool)
  | acz
  | accvt (off fmt : Nat)
  deriving DecidableEq, Repr

/-- The same, queued; `seen` are the rows of an MMA's operands and scales as they stood when it started (R236, R286). -/
structure MOp where
  core : Nat
  uid : Nat
  gang : Nat
  lanes : List Nat
  d : Nat
  tile : Nat
  kind : MOpK
  started : Bool
  seen : List (List Byte × List Byte) := []
  deriving DecidableEq, Repr

/-- An ACTLD, SMPLD or MLOAD under way (R169, R193, R256): `kind` is the engine kind of R351 (1, 2, 4); `replay` that Kettle performs it
again for a resumed team, which issues nothing before (R70, R171). -/
structure ImgLoad where
  kind : Nat
  core : Nat
  uid : Nat
  slice : Nat
  priv : Bool
  gang : Nat
  lanes : List Nat
  d : Nat
  slot : Nat
  addr : Nat
  susp : Bool
  replay : Bool := false
  deriving DecidableEq, Repr

/-- A sampler tap (R255). -/
structure Tap where
  op : Nat
  wsrc : Nat
  bx : Nat
  by_ : Nat
  dx : Int
  dy : Int
  wt : BitVec 16
  deriving DecidableEq, Repr

/-- A sampler job (R257): the lanes whose results are still to write, as thread, u, v and ref, and the slot's program as it
stood at the issue. `id` is the model's name of it. -/
structure SampJob where
  id : Nat
  uid : Nat
  core : Nat
  slice : Nat
  priv : Bool
  d : Nat
  lanes : List (Nat × Word × Word × Word)
  desc : List Byte
  slot : Nat
  taps : List Tap
  susp : Bool
  deriving DecidableEq, Repr

/-- A Strainer job (R241). -/
structure SortJob where
  uid : Nat
  die : Nat
  core : Nat
  slice : Nat
  priv : Bool
  desc : List Byte
  cw : Nat
  scope : Nat
  started : Bool
  deriving DecidableEq, Repr

/-- A triangle queued at a die's fixed rasteriser (R260): the record, the target, the next pixel, whether suspended. -/
structure RastJob where
  uid : Nat
  die : Nat
  core : Nat
  slice : Nat
  priv : Bool
  tri : List Byte
  target : List Byte
  pix : Nat
  susp : Bool
  deriving DecidableEq, Repr

/-- A RAST.FLUSH waiting (R261). -/
structure RastFl where
  uid : Nat
  gang : Nat
  lanes : List Nat
  d : Nat
  ahead : Nat
  deriving DecidableEq, Repr

/-- A present queued at a head (R262, R263). -/
structure PresOp where
  uid : Nat
  launch : Nat
  slice : Nat
  priv : Bool
  core : Nat
  desc : List Byte
  cw : Nat
  scope : Nat
  enc : Bool
  scan : Bool
  latched : Bool
  deriving DecidableEq, Repr

/-- The frame a head shows: surface, width, height, pitch, format, the slice whose translation names it, and the bytes of its
pixels as latched, row after row (a chroma plane after them). -/
structure Shown where
  surf : Nat
  width : Nat
  height : Nat
  pitch : Nat
  fmt : Nat
  slice : Nat
  pixels : List Byte
  deriving DecidableEq, Repr

/-- The reference of an encoder (R343): codec, size and format, and the previous frame as a decoder has it. -/
structure EncRef where
  codec : Nat
  width : Nat
  height : Nat
  fmt : Nat
  frame : List Byte
  deriving DecidableEq, Repr

/-- A display head and its encoder (R341 to R343): the latched frame, the pending presents, the encoder's reference,
the physical mode of the sink. -/
structure Head where
  shown : Option Shown := none
  pend : List PresOp := []
  encRef : Option EncRef := none
  mode : Option (Nat × Nat) := none
  deriving DecidableEq, Repr

/-- A member of a collective (R326, R329): its identifier; the size and, for COMP, the tiles of the issuer's part for it,
whether the issuer sends it one, the offset of the next new chunk, offsets to be sent again, whether a chunk is queued, the offsets
of chunks that stand refused and are queued again, and of those sent, with whether they stood refused before; whether it sends a part
here, the bytes received, and its part's size once known. -/
structure CMember where
  id : Nat
  total : Nat
  tiles : List Nat
  sends : Bool
  next : Nat
  todo : List Nat
  queued : Bool
  refused : List Nat
  out : List (Nat × Bool) := []
  expect : Bool
  got : Nat
  size : Option Nat
  deriving DecidableEq, Repr

/-- A collective in flight (R325, R326). `data` holds pieces received of a reduction, or of COMP's tiles, as member, offset
and bytes; `tiles` the tiles still to composite here with their orders; `wrote` the bytes written to DST; `fate` 1 once it has completed, when
its chunks are still sent, and 2 once it has failed. -/
structure Coll where
  id : Nat
  uid : Nat
  launch : Nat
  slice : Nat
  core : Nat
  priv : Bool
  minor : Nat
  desc : List Byte
  cw : Nat
  scope : Nat
  p : Nat
  members : List CMember
  data : List (Nat × Nat × List Byte)
  tiles : List (Nat × List Nat)
  wrote : Nat
  fate : Nat := 0
  deriving DecidableEq, Repr

/-- What the answer to a remote operation does at the issuer. -/
inductive RemAct where
  /-- Only the flags of R214. -/
  | flags
  /-- Fills vector registers with the value, extended as the minor of LD says (R201). -/
  | regs (rs : List Nat) (minor : Nat)
  /-- Fills uniform registers of a gang (R203). -/
  | uregs (gang : Nat) (rs : List Nat)
  /-- Fills a copy of a domain-global line at a place, for a pending operation of the thread (R366). -/
  | fill (place line : Nat)
  /-- Answers a buffered operation applied at a flush point (R64). -/
  | buf (b : BufOp)
  /-- Gives a piece of the copy at the head of a channel, or counts it (R83, R90). -/
  | copy (ch : Nat)
  deriving DecidableEq, Repr

/-- A remote operation that awaits its reply (R106, R322). `again` says that a fill's line has been written, or read, behind it, so
that the place fetches it anew (R96); `sent` is the step at which it was sent. -/
structure RemOp where
  tag : Nat
  uid : Nat
  launch : Nat
  t : Nat
  slice : Nat
  dst : Nat
  req : Req
  act : RemAct
  again : Bool := false
  sent : Nat := 0
  deriving DecidableEq, Repr

/-- A request of another package of which the first parts have been performed (R94): by its sender, with its translation and the bytes
read so far. -/
structure Serving where
  osrc : Nat
  tr : Tlb
  got : List Byte
  deriving DecidableEq, Repr

/-- A message in a slice's send queue (R317): whether it has overrun (R319) and whether its sequence number is already
assigned; the collective and member it belongs to; the place whose write-back it is (R106). -/
structure QMsg where
  slice : Nat
  msg : Msg
  overrun : Bool
  seqd : Bool
  coll : Option (Nat × Nat)
  place : Option Nat := none
  deriving DecidableEq, Repr

/-- A calendar entry in use: plane, slot, peer (R312). -/
abbrev CalE := Nat × Nat × Nat

/-- A message held in the wells (R320): how many of its flits lie in die 0's, the others in die 1's (R17). -/
structure WellMsg where
  msg : Msg
  on0 : Nat
  deriving DecidableEq, Repr

/-- One plane (R313, R315): whether it is up, its current slot (none before the first of a rotation), its rotation number;
of the current slot, the flits of capacity left, the flits each slice has used, the allowances published, and what was
sent: from the queues, from the wells, and acknowledgments and chunk refusals. -/
structure Plane where
  up : Bool := false
  cur : Option Nat := none
  rot : Nat := 0
  left : Nat := 0
  used : NMap Nat := []
  allow : List (Nat × Nat) := []
  sentQ : List QMsg := []
  sentW : List WellMsg := []
  sentA : List Msg := []
  deriving DecidableEq, Repr

/-- A fault-queue entry (R351): its slice, number, KIND, 64 bytes, launch, team, the engine operation it suspends,
whether it is written to the ring and answered, and the address in the ring. -/
structure FEntry where
  slice : Nat
  seq : Nat
  kind : Nat
  body : List Byte
  launch : Nat
  uid : Nat
  eng : Nat
  ref : Nat
  posted : Bool
  answered : Bool
  at_ : Nat
  deriving DecidableEq, Repr

/-- A Cistern line (R249): its home slice (32 × die + slice), line number, words with touched bits, and the threads
whose additions it holds. -/
structure CisLine where
  home : Nat
  line : Nat
  words : List (Option Word)
  by_ : List Nat
  deriving DecidableEq, Repr

/-- An f32 addition on its way to a Cistern bank (R249). -/
structure CisAdd where
  uid : Nat
  t : Nat
  pa : Nat
  x : Word
  deriving DecidableEq, Repr

/-- What the package shows the outside world: an MSI-X vector (R351, R361), a slot frame sent (R315), black or a frame on
a head (R341). -/
inductive Out where
  | msix (vector : Nat)
  | frame (f : Frame)
  | scan (head : Nat) (shown : Option Shown)
  /-- The physical output of a head: the sink's mode, and its rows of pixels, each as the bytes that hold it, none for black (R342). -/
  | sink (head width height : Nat) (rows : List (List (Option (List Byte))))
  deriving DecidableEq, Repr

/-- The package. -/
structure State where
  /-- The model's own: the moves still to make, the count of steps, the issue latch, what the outside has seen. -/
  agenda : List Move := []
  tick : Nat := 0
  iss : Issue := {}
  out : List Out := []
  /-- Memory (R75) and its poisoned lines (R358). -/
  mem : List Host.Cell := []
  poison : List Nat := []
  /-- Vector registers, their empty bits, condition codes, uniform registers, uniform loads pending (R30, R135). -/
  v : NMap Word := []
  empty : NMap Bool := []
  cc : NMap (BitVec 4) := []
  u : NMap Word := []
  upend : NMap Bool := []
  threads : NMap Thread := []
  oplogs : NMap (List OpLog) := []
  teams : NMap Team := []
  nextUid : Nat := 1
  scratch : NMap Byte := []
  tiles : NMap (List Word) := []
  /-- System registers with their own storage (R345). -/
  sys : NMap Dbl := []
  snap : NMap Dbl := []
  /-- Translations and copies held. -/
  tlb : List Tlb := []
  copies : NMap LineCopy := []
  /-- The last ACQ of an object, or FENCE.ALL (no object), by a core's or a die's threads, as place, object and step (R100, R102). -/
  acqs : List (Nat × Option Nat × Nat) := []
  /-- Completion words written, as physical or domain-global address and scope (R103). -/
  cwords : List (Nat × Nat) := []
  invals : List (Nat × Nat) := []
  clocks : NMap Nat := []
  stamps : NMap Nat := []
  /-- Operations on their way. -/
  loads : List Fill := []
  scrLoads : List Fill := []
  lates : List Fill := []
  atoms : List Pend := []
  scops : List Pend := []
  bufops : List BufOp := []
  recArrs : List RecArr := []
  joinArrs : List JoinArr := []
  caddyOps : List CaddyOp := []
  caddy : NMap CReg := []
  cisAdds : List CisAdd := []
  cistern : List CisLine := []
  /-- Engines. -/
  mops : List MOp := []
  imgs : List ImgLoad := []
  actTabs : NMap Word := []
  actBank : NMap Nat := []
  macros : NMap (Nat × List (BitVec 32 × BitVec 32)) := []
  filters : NMap (List Tap) := []
  samples : List SampJob := []
  routes : List RouteOp := []
  sorts : List SortJob := []
  sortTurn : NMap Nat := []
  rasts : List RastJob := []
  rastFls : List RastFl := []
  nodeFences : List (Nat × Nat) := []
  nodeCache : List NodeLine := []
  heads : NMap Head := []
  /-- What engine operations have still to write, and what ends them then, by team and operation (R94, R103). -/
  parts : List EngPart := []
  fins : List (Nat × Nat × EngFin) := []
  /-- Kettle. -/
  launches : NMap Launch := []
  nextLid : Nat := 1
  ringLid : NMap Nat := []
  bells : NMap Nat := []
  saved : List Saved := []
  entries : List FEntry := []
  fseq : NMap Nat := []
  rankNo : Nat := 0
  ctx : NMap Nat := []
  lateCmds : List (Nat × Dbl) := []
  /-- The fabric. -/
  cal : List CalE := []
  planes : NMap Plane := []
  sendQ : List QMsg := []
  pendRefs : List Msg := []
  wells : List WellMsg := []
  txSeq : NMap Nat := []
  txAck : NMap Nat := []
  txFree : NMap Nat := []
  rxNext : NMap Nat := []
  rxAcked : NMap Nat := []
  rxHeld : List Msg := []
  inReqs : List Msg := []
  servings : List Serving := []
  inResps : List Msg := []
  inRefs : List Msg := []
  inCRefs : List Msg := []
  inAcks : List Msg := []
  inChunks : List Msg := []
  remote : List RemOp := []
  nextTag : Nat := 1
  colls : List Coll := []
  /-- The module's attachments and firmware (R361 to R365). -/
  pcieWidth : Nat := 0
  pcieRate : Nat := 0
  recovery : Bool := false
  measures : List Nat := List.replicate 8 0
  rollback : Nat := 0
  fwBusy : Option (Nat × Nat) := none
  /-- The staged image, and the one that runs: none for the module's own (R363, R364). -/
  fwImage : Option (List Byte) := none
  fwRun : Option (List Byte) := none
  deriving DecidableEq, Repr

/-- The machine right after reset: every field as declared above. No team is resident, no memory byte is listed, no
translation or copy is held, every system register reads its reset value. -/
def State.reset : State := {}

end Sys2Proof.Machine
end

