-- ==== Sys2Proof/Machine/Ops.lean ====
section
/-!
DEFINITION. Named operations over registers, memory bytes, threads, system registers and traps: every meaning is written
over these. Taking an exception is `takeTrap`; returning from one is `leaveHandler`.
-/

namespace Sys2Proof.Machine

/-! Keys of the finite maps. -/

/-- Thread t of team u. -/
def tkey (u t : Nat) : Nat := u * 1024 + t
/-- Vector register r of thread t. -/
def vkey (u t r : Nat) : Nat := tkey u t * 64 + r
/-- Gang g of team u. -/
def gkey (u g : Nat) : Nat := u * 32 + g
/-- Uniform register r of gang g. -/
def ukey (u g r : Nat) : Nat := gkey u g * 32 + r
/-- Condition-code set c of thread t. -/
def cckey (u t c : Nat) : Nat := tkey u t * 4 + c
/-- Scratchpad byte at an offset of team u. -/
def skey (u off : Nat) : Nat := u * 2 ^ 20 + off
/-- Accumulator tile of team u. -/
def tilekey (u tile : Nat) : Nat := u * 16 + tile

/-! Numbers and bytes (R3). -/

/-- Bits [hi:lo] of a number (R11). -/
def bits (x hi lo : Nat) : Nat := x / 2 ^ lo % 2 ^ (hi + 1 - lo)

/-- The n-bit field x read as two's complement (R11). -/
def sext (x n : Nat) : Int := if x % 2 ^ n < 2 ^ (n - 1) then (x % 2 ^ n : Nat) else (x % 2 ^ n : Nat) - (2 ^ n : Nat)

/-- An integer modulo 2^n. -/
def wrap (x : Int) (n : Nat) : Nat := (x % (2 ^ n : Nat)).toNat

/-- Saturation (R11). -/
def sat (x lo hi : Int) : Int := if x < lo then lo else if hi < x then hi else x

/-- A word from a number, modulo 2^32. -/
def toW (x : Nat) : Word := BitVec.ofNat 32 x

/-- A word from an integer, modulo 2^32. -/
def ofInt (x : Int) : Word := BitVec.ofInt 32 x

/-- The low and high words of a double. -/
def lo32 (x : Nat) : Word := toW x
@[inherit_doc lo32] def hi32 (x : Nat) : Word := toW (x / 2 ^ 32)

/-- n bytes of a number, least significant first (R3). -/
def toBytes : Nat → Nat → List Byte
  | 0, _ => []
  | n + 1, x => BitVec.ofNat 8 x :: toBytes n (x / 256)

/-- The number whose little-endian bytes these are (R3). -/
def ofBytes : List Byte → Nat
  | [] => 0
  | b :: bs => b.toNat + 256 * ofBytes bs

/-- n bytes of a list from an offset, as a number; bytes beyond the list read as zero. -/
def bytesAt (bs : List Byte) (off n : Nat) : Nat := ofBytes ((bs.drop off).take n)

/-- The words of a number, lowest first. -/
def toWords (n x : Nat) : List Word := (List.range n).map fun k => toW (x / 2 ^ (32 * k))

/-- The number whose words these are, lowest first. -/
def ofWords : List Word → Nat
  | [] => 0
  | w :: ws => w.toNat + 2 ^ 32 * ofWords ws

/-- Bit k of a number. -/
def nbit (x k : Nat) : Bool := x / 2 ^ k % 2 == 1

/-- The number of the trap cause (R346). -/
def Cause.code : Cause → Nat
  | .illegalOp => 1
  | .illegalField => 2
  | .illegalChain => 3
  | .execPool => 4
  | .feEmpty => 5
  | .fmtDiverge => 6
  | .cvtOverflow => 7
  | .align => 8
  | .access => 9
  | .pageFault => 10
  | .overlap => 11
  | .indexExhausted => 12
  | .detSpill => 13
  | .brk => 14
  | .svc => 15
  | .memUe => 16
  | .nodeUe => 17

/-! Memory bytes: one canonical list of cells, rising addresses, no zero byte listed (log 4). -/

/-- The byte at a physical address; an unlisted address reads as zero. -/
def memGet : List Host.Cell → Nat → Byte
  | [], _ => 0
  | (a', b) :: m, a => if a = a' then b else if a < a' then 0 else memGet m a

/-- The memory with a byte put at an address. -/
def memPut : List Host.Cell → Nat → Byte → List Host.Cell
  | [], a, b => if b = 0 then [] else [(a, b)]
  | (a', b') :: m, a, b =>
    if a = a' then (if b = 0 then m else (a, b) :: m)
    else if a < a' then (if b = 0 then (a', b') :: m else (a, b) :: (a', b') :: m)
    else (a', b') :: memPut m a b

/-- The canonical form: every address above a bound, rising, no zero byte. -/
def memWfAbove : Nat → List Host.Cell → Bool
  | _, [] => true
  | lo, (a, b) :: m => lo ≤ a && b != 0 && memWfAbove (a + 1) m

/-- The canonical form of a memory. -/
def Memory.wf (m : List Host.Cell) : Bool := memWfAbove 0 m

/-- n bytes from a physical address. -/
def memBytes (m : List Host.Cell) (a n : Nat) : List Byte := (List.range n).map fun k => memGet m (a + k)

/-- Bytes put from a physical address on. -/
def memPuts : List Host.Cell → Nat → List Byte → List Host.Cell
  | m, _, [] => m
  | m, a, b :: bs => memPuts (memPut m a b) (a + 1) bs

/-! Threads, teams, registers. -/

/-- Thread t of team u; one that does not exist reads as exited. -/
def State.thr (s : State) (u t : Nat) : Thread := NMap.get {} s.threads (tkey u t)

/-- The state with thread t of team u replaced. -/
def State.setThr (s : State) (u t : Nat) (x : Thread) : State := { s with threads := NMap.put s.threads (tkey u t) x }

/-- Team u; one that does not exist reads as not live. -/
def State.team (s : State) (u : Nat) : Team := NMap.get {} s.teams u

/-- The state with team u replaced. -/
def State.setTeam (s : State) (u : Nat) (x : Team) : State := { s with teams := NMap.put s.teams u x }

/-- The state with launch l replaced. -/
def State.setLaunch (s : State) (l : Nat) (x : Launch) : State := { s with launches := NMap.put s.launches l x }

/-- Launch l; one that does not exist reads as not live. -/
def State.launch (s : State) (l : Nat) : Launch := NMap.get {} s.launches l

/-- The team whose fragment issues. -/
def State.cur (s : State) : Team := s.team s.iss.uid

/-- The thread index of a lane of the issuing gang (R28). -/
def State.tOf (s : State) (lane : Nat) : Nat := 32 * s.iss.gang + lane

/-- The thread of an active lane. -/
def State.thL (s : State) (lane : Nat) : Thread := s.thr s.iss.uid (s.tOf lane)

/-- Replaces the thread of an active lane. -/
def State.setThL (s : State) (lane : Nat) (x : Thread) : State := s.setThr s.iss.uid (s.tOf lane) x

/-- Vector register r of a lane as it stood at the issue (R132). -/
def State.rv (s : State) (lane r : Nat) : Word := NMap.get 0 s.iss.v0 (vkey s.iss.uid (s.tOf lane) r)

/-- The 64-bit pair r, r + 1 of a lane as it stood at the issue. -/
def State.rp (s : State) (lane r : Nat) : Nat := (s.rv lane r).toNat + 2 ^ 32 * (s.rv lane (r + 1)).toNat

/-- Uniform register r of the issuing gang as it stood at the issue. -/
def State.ru (s : State) (r : Nat) : Word := NMap.get 0 s.iss.u0 (ukey s.iss.uid s.iss.gang r)

/-- The uniform pair r, r + 1 as it stood at the issue. -/
def State.rup (s : State) (r : Nat) : Nat := (s.ru r).toNat + 2 ^ 32 * (s.ru (r + 1)).toNat

/-- Condition-code set c of a lane as it stood at the issue. -/
def State.rcc (s : State) (lane c : Nat) : BitVec 4 := NMap.get 0 s.iss.cc0 (cckey s.iss.uid (s.tOf lane) c)

/-- Vector register r of thread t of team u now. -/
def State.vAt (s : State) (u t r : Nat) : Word := NMap.get 0 s.v (vkey u t r)

/-- Writes vector register r of thread t of team u. -/
def State.putV (s : State) (u t r : Nat) (x : Word) : State := { s with v := NMap.put s.v (vkey u t r) x }

/-- Writes vector register r of an active lane. -/
def State.setV (s : State) (lane r : Nat) (x : Word) : State := s.putV s.iss.uid (s.tOf lane) r x

/-- Writes the pair r, r + 1 of an active lane. -/
def State.setP (s : State) (lane r : Nat) (x : Nat) : State := (s.setV lane r (lo32 x)).setV lane (r + 1) (hi32 x)

/-- Writes uniform register r of gang g of team u. -/
def State.putU (s : State) (u g r : Nat) (x : Word) : State := { s with u := NMap.put s.u (ukey u g r) x }

/-- Writes uniform register r of the issuing gang. -/
def State.setU (s : State) (r : Nat) (x : Word) : State := s.putU s.iss.uid s.iss.gang r x

/-- Writes condition-code set c of an active lane. -/
def State.setCc (s : State) (lane c : Nat) (x : BitVec 4) : State :=
  { s with cc := NMap.put s.cc (cckey s.iss.uid (s.tOf lane) c) x }

/-- Is vector register r of thread t of team u empty (R135)? -/
def State.isEmpty (s : State) (u t r : Nat) : Bool := NMap.get false s.empty (vkey u t r)

/-- Marks a register empty, or full. -/
def State.setEmpty (s : State) (u t r : Nat) (b : Bool) : State := { s with empty := NMap.put s.empty (vkey u t r) b }

/-- Marks registers d, d + 1, … (n of them) of every active lane empty (R135). -/
def State.markEmpty (s : State) (d n : Nat) : State :=
  s.iss.lanes.foldl (fun s lane => (List.range n).foldl (fun s k => s.setEmpty s.iss.uid (s.tOf lane) (d + k) true) s) s

/-- Fills a register with a late result (R135); a result for an exited thread is dropped (R182). -/
def State.fillReg (s : State) (u t r : Nat) (x : Word) : State :=
  if (s.thr u t).exited then s else (s.putV u t r x).setEmpty u t r false

/-- Fills several registers of one thread. -/
def State.fillRegs (s : State) (u t : Nat) (vals : List (Nat × Word)) : State :=
  vals.foldl (fun s rx => s.fillReg u t rx.1 rx.2) s

/-- Runs a body for each active lane, in ascending order (R10). -/
def State.lanes (s : State) (f : State → Nat → State) : State := s.iss.lanes.foldl f s

/-- The lowest active lane (R11). -/
def State.low (s : State) : Nat := s.iss.lanes.headD 0

/-- Is a thread privileged (R49)? -/
def State.privOf (s : State) (u t : Nat) : Bool := (s.team u).priv || (s.thr u t).handler

/-- Is the thread of an active lane privileged? -/
def State.privL (s : State) (lane : Nat) : Bool := s.privOf s.iss.uid (s.tOf lane)

/-- The meaning of a next state. -/
abbrev Res := Host.Outcome State Fault Refusal

/-! System registers (R345). -/

/-- The number of instance i of register n. -/
def sreg (n i : Nat) : Nat := n * 256 + i

/-- The reset value of a system register with storage of its own, as its field map states (log 5 for the others). -/
def sysReset (r : Nat) : Dbl :=
  let n := r / 256
  if n = 0x20 then 100
  else if n = 0x2B then 0xFFFE
  else if n = 0x30 then BitVec.ofNat 64 (3 * 2 ^ 26 + 15 * 2 ^ 20 + 8 * 2 ^ 14 + 15 * 2 ^ 8 + 2 ^ 6)
  else if n = 0x33 then 0xFFFFF
  else if n = 0x39 then 60
  else if n = 0x48 then 0x04400000
  else if n = 0x49 then 0xFFFFFFFFFFFFFFFF
  else if n = 0x4A then 0x1FFFF
  else if n = 0x4B then 0xFFFFFFFFFFFFFFFF
  else if n = 0x4C then 0xFFFFFFFFFFFFFFFF
  else if n = 0x50 then 4000
  else if n = 0x51 then 0x240000
  else 0

/-- A system register's value, by its number n and instance i. -/
def State.sysr (s : State) (n i : Nat) : Nat := (NMap.get (sysReset (sreg n i)) s.sys (sreg n i)).toNat

/-- Writes a system register's storage. -/
def State.setSys (s : State) (n i x : Nat) : State := { s with sys := NMap.put s.sys (sreg n i) (BitVec.ofNat 64 x) }

/-- Sets bit k of a system register. -/
def State.setSysBit (s : State) (n i k : Nat) : State :=
  if nbit (s.sysr n i) k then s else s.setSys n i (s.sysr n i + 2 ^ k)

/-- Clears bit k of a system register. -/
def State.clrSysBit (s : State) (n i k : Nat) : State :=
  if nbit (s.sysr n i) k then s.setSys n i (s.sysr n i - 2 ^ k) else s

/-! Slices and cores (R13, R21, R24). -/

/-- The slice that owns a core. -/
def coreSlice (c : Nat) : Nat :=
  let lc := c % 96 / 8
  if lc % 3 = 0 ∨ (lc % 3 = 1 ∧ c % 8 < 4) then 2 * (lc / 3) else 2 * (lc / 3) + 1

/-- The die of a core. -/
def coreDie (c : Nat) : Nat := c / 96

/-- The size of the slice group of slice k (R24). -/
def State.groupSize (s : State) (k : Nat) : Nat :=
  let g := s.sysr 0x41 0
  if nbit g 6 then 8 else if nbit g (4 + k / 4) then 4 else if nbit g (k / 2) then 2 else 1

/-- The lead of the slice group of slice k (R24); a slice alone is its own lead. -/
def State.lead (s : State) (k : Nat) : Nat := k - k % s.groupSize k

/-- The slices of the group led by slice k. -/
def State.members (s : State) (k : Nat) : List Nat := (List.range (s.groupSize k)).map (s.lead k + ·)

/-- The cores of the slice group led by slice k that are present (R25), in ascending order. -/
def State.coresOf (s : State) (k : Nat) : List Nat :=
  (List.range 192).filter fun c => s.lead (coreSlice c) == s.lead k && nbit (s.sysr 0x49 (c / 64)) (c % 64)

/-! Snapshots (R359). -/

/-- A trigger of the snapshot unit: SEQ counts it; with VALID = 0 it latches every register and sets VALID. -/
def State.trigger (s : State) : State :=
  let r := s.sysr 0x40 0
  let s := s.setSys 0x40 0 (r - r % 2 ^ 16 + (r + 1) % 2 ^ 16)
  if nbit r 28 then s
  else
    let s := { s with snap := s.sys, out := s.out ++ [Out.msix 8] }
    s.setSysBit 0x40 0 28

/-! Traps (R347 to R350). -/

/-- The TRAP.DETAIL word (R347). -/
def detailOf (tr : Trap) (word step : Nat) (nested deferred : Bool) : Dbl :=
  BitVec.ofNat 64 (tr.code % 2 ^ 16 * 2 ^ 48 + (if deferred then 2 ^ 31 else 0) + (if nested then 2 ^ 30 else 0)
    + (if tr.write then 2 ^ 29 else 0) + tr.lane % 32 * 2 ^ 24 + step % 32 * 2 ^ 19 + word % 4 * 2 ^ 17
    + tr.check % 8 * 2 ^ 14 + tr.cause.code)

/-- The slice whose registers govern a team: the lead of its slice group. -/
def State.govern (s : State) (u : Nat) : Nat := s.lead (s.team u).slice

/-- Does a cause met by thread t of team u take the team-handler route (R348)? -/
def State.teamRoute (s : State) (u t : Nat) (c : Cause) : Bool :=
  let k := s.govern u
  c.code < 16 && !nbit (s.sysr 0x2B k) c.code && s.sysr 0x2A k / 64 % 2 ^ 51 != 0 && !(s.thr u t).handler

/-- The wait that a fault finds a thread in: at its meeting address, at a barrier or PHASE, or for its memory operations. -/
def Thread.backOf (th : Thread) : Option Back :=
  match th.wait with
  | .none => if th.mwait = .none then none else some ⟨th.pos, th.next, .none⟩
  | .faulted => th.back
  | w => some ⟨th.pos, th.next, w⟩

/-- Where a thread goes on after a fault found while it stands at its position: at its next group, which is the one after
the group that it waits at (R354). -/
def Thread.resumePos (th : Thread) : Nat :=
  match th.wait with
  | .held => th.pos
  | .none => if th.mwait = .none then th.pos else th.next
  | _ => th.next

/-- One thread takes a trap on the team-handler route (R349): EPC, DETAIL and ADDR are written, it enters handler mode
and continues at packet 0 of the handler's line, once a wait for its memory operations is over. -/
def State.enterHandler (s : State) (u t epc : Nat) (detail addr : Dbl) : State :=
  let th := s.thr u t
  let line := s.sysr 0x2A (s.govern u) / 64 * 64 + 4
  s.setThr u t { th with
    epc := BitVec.ofNat 64 epc, detail := detail, taddr := addr, handler := true, wait := .none,
    hback := if th.mwait = .none then th.backOf else none, pos := line, next := if th.mwait = .none then th.next else line }

/-- Kettle begins to stop a team for a fault (R350): the fault is listed for the team, to be posted when it has stopped. The
first fault gives the save its REASON (R356), and a contained error triggers a snapshot under ONERR (R359). -/
def State.stopFor (s : State) (u : Nat) (fi : FaultInfo) (reason : Nat) : State :=
  let tm := s.team u
  let st : Stop := tm.stop.getD { reason := reason, flush := false, faults := [] }
  let st : Stop := { st with reason := if st.faults = [] then reason else st.reason, flush := false, faults := st.faults ++ [fi] }
  let s := s.setTeam u { tm with stop := some st }
  if reason = 4 ∧ nbit (s.sysr 0x40 0) 30 then s.trigger else s

/-- A thread stops for a fault on the host route, keeping its position and the wait that it was in (R37, R350). -/
def State.faultThread (s : State) (u t pos : Nat) : State :=
  s.setThr u t { s.thr u t with pos := pos, wait := .faulted, back := (s.thr u t).backOf }

/-- A trap of threads `ts` of team u, all with one resume position `epc`, takes its route; without a thread there is no trap.
A fault entry says the position that trapped, `at_` (R351); on the host route a thread that waits stays where it waits, and one that
goes on behind its group comes to that position when it goes on (R35). -/
def State.route (s : State) (u : Nat) (ts : List Nat) (c : Cause) (epc at_ : Nat) (detail addr : Dbl) : State :=
  if ts.isEmpty then s
  else if s.teamRoute u (ts.headD 0) c then ts.foldl (fun s t => s.enterHandler u t epc detail addr) s
  else
    let s := ts.foldl (fun s t =>
      let th := s.thr u t
      if th.backOf.isSome then s.faultThread u t th.pos
      else if epc = th.pos then s.faultThread u t epc
      else (s.faultThread u t epc).setThr u t { (s.faultThread u t epc).thr u t with back := some ⟨epc, epc, .none⟩ }) s
    s.stopFor u ⟨detail, addr, at_, ts.headD 0 % 32⟩ (if 16 ≤ c.code then 4 else 3)

/-- TAKING AN EXCEPTION at the issue under way: the resume position is the group's, or the following one for BREAK and
SVC (R346); FMT_DIVERGE counts (R234); BREAK with code 0xFFFF may trigger a snapshot (R359); then the route of R348. -/
def takeTrap (tr : Trap) (s : State) : State :=
  let i := s.iss
  let tm := s.cur
  let s := if tr.cause = .fmtDiverge ∧ tm.status.toNat % 2 ^ 16 < 65535 then
      s.setTeam i.uid { tm with status := tm.status + 1 } else s
  let s := if tr.cause = .brk ∧ tr.code = 0xFFFF ∧ nbit (s.sysr 0x40 0) 29 then s.trigger else s
  let epc := if tr.cause = .brk ∨ tr.cause = .svc then i.follow else i.pos
  let nested := (s.thr i.uid (32 * i.gang + tr.lane)).handler
  let d := detailOf tr i.word (i.mstep.getD 0) nested false
  let s := s.route i.uid (i.lanes.map s.tOf) tr.cause epc i.pos d (BitVec.ofNat 64 tr.addr)
  { s with iss := { s.iss with trap := some tr } }

/-- The meaning of an instruction that traps. -/
def raise (tr : Trap) (s : State) : Res := .next (takeTrap tr s)

/-- The meaning of an instruction that cannot issue yet: nothing changes, the fragment stays where it is. -/
def stall (s : State) : Res := .next { s with iss := { s.iss with stall := true } }

/-- A transfer of an active lane to a position, taken after the group (R127). -/
def State.goto (s : State) (lane pos : Nat) : State :=
  { s with iss := { s.iss with tgt := NMap.put s.iss.tgt lane pos } }

/-- A thread comes to a position by a transfer, by fall-through or by release: it is held if word 0 there is its meeting
address. -/
def State.arriveAt (s : State) (u t pos : Nat) : State :=
  let th := s.thr u t
  s.setThr u t { th with pos := pos, wait := if pos ≠ 0 ∧ pos = th.meet then .held else .none }

/-- A thread whose fault is over goes back to the wait that the fault interrupted: a phase that completed meanwhile lets it
depart with its barrier word, and a wait for its memory operations that ended lets it go on (R37, R184, R350). -/
def State.goBack (s : State) (u t : Nat) (b : Back) : State :=
  let th := { s.thr u t with pos := b.pos, next := b.next, wait := b.wait }
  match b.wait with
  | .departed d w => (s.putV u t d w |>.setThr u t { th with wait := .none }).arriveAt u t b.next
  | .none => let s := s.setThr u t th
    if th.mwait = .none then s.arriveAt u t b.next else s
  | _ => s.setThr u t th

/-- RETURN FROM AN EXCEPTION of one lane (R349): it leaves handler mode and continues at TRAP.EPC; a macro that
trapped goes on if that is where it stood (R194). A thread that the fault found waiting at a barrier or PHASE, and whose
resume position is still the one it was given, waits on (R354). -/
def State.leaveHandler (s : State) (lane : Nat) : State :=
  let th := s.thL lane
  let u := s.iss.uid
  let epc := th.epc.toNat % 2 ^ 57
  let keep := match th.mrun with
    | some r => if r.at_ = epc then some r else none
    | none => none
  let s := s.setThL lane { th with handler := false, hrun := none, mrun := keep, hback := none }
  let s := match th.hback with
    | some b => if b.wait ≠ Wait.held ∧ b.next = epc then s.goBack u (s.tOf lane) b else s.arriveAt u (s.tOf lane) epc
    | none => s.arriveAt u (s.tOf lane) epc
  { s with iss := { s.iss with moved := s.iss.moved ++ [lane] } }

end Sys2Proof.Machine
end

