-- ==== Sys2Proof/Machine/Translate.lean ====
section
/-!
DEFINITION. Address forms, physical memory, the five-level walk, permissions, translation caches and discarded pages
(R73 to R81, R88).
-/

namespace Sys2Proof.Machine

/-- What an access does, for the permission check of R77. -/
inductive Acc where
  | read | write | fetch
  deriving DecidableEq, Repr

/-- Is an address domain-global (bit 63, R73)? -/
def isDomain (va : Nat) : Bool := nbit va 63

/-- The package of a domain-global address, and its offset (R73). -/
def domPkg (va : Nat) : Nat := bits va 62 53
@[inherit_doc domPkg] def domOff (va : Nat) : Nat := va % 2 ^ 53

/-- A local address in the form of R73: bits [62:57] all equal to bit 56. -/
def canonical (va : Nat) : Bool :=
  !nbit va 63 && (bits va 62 57 == if nbit va 56 then 63 else 0)

/-- The number of channels present of HBM4 stack k (R75, R360). -/
def State.channels (s : State) (k : Nat) : Nat :=
  (List.range 32).countP fun c => nbit (s.sysr 0x4C (k / 2)) (32 * (k % 2) + c)

/-- The HBM4 stack of a physical address below 0xC0_0000_0000. -/
def stackOf (pa : Nat) : Nat := pa / 0xC00000000

/-- GiB of CXL memory reachable: 0 while no device is up (R75, R362). -/
def State.cxlGib (s : State) : Nat :=
  if nbit (s.sysr 0x4A 0) 17 then min (bits (s.sysr 0x4A 0) 31 18) 2048 else 0

/-- Is a physical address in HBM4, LPDDR-6 side memory, CXL memory, host memory (R75)? -/
def inHbm (pa : Nat) : Bool := pa < 0xC000000000
@[inherit_doc inHbm] def inLpddr (pa : Nat) : Bool := 0x10000000000 ≤ pa && pa < 0x18000000000
@[inherit_doc inHbm] def inCxl (pa : Nat) : Bool := 0x20000000000 ≤ pa && pa < 0x40000000000
@[inherit_doc inHbm] def inHost (pa : Nat) : Bool := 0x100000000000000 ≤ pa && pa < 0x200000000000000

/-- Is the range of n bytes from pa present (R75)? It lies in one memory. -/
def State.present (s : State) (pa n : Nat) : Bool :=
  if inHbm pa then
    let k := stackOf pa
    pa - k * 0xC00000000 + n ≤ 0x60000000 * s.channels k
  else if inLpddr pa then inLpddr (pa + n - 1) && nbit (s.sysr 0x4A 0) 16
  else if inCxl pa then pa + n ≤ 0x20000000000 + s.cxlGib * 2 ^ 30
  else inHost pa && inHost (pa + n - 1)

/-- Is the page in the memory of its tier (R76)? -/
def tierOk (tier pa : Nat) : Bool :=
  match tier with
  | 0 => inHost pa
  | 1 => inLpddr pa || inCxl pa
  | 2 => inHbm pa
  | _ => false

/-- The page size of a tier (R76). -/
def pageSize (tier : Nat) : Nat := if tier = 2 then 0x200000 else if tier = 1 then 0x10000 else 0x1000

/-- Is the line of a physical address poisoned (R358)? -/
def State.poisoned (s : State) (pa : Nat) : Bool := s.poison.contains (pa / 64)

/-- The home die of a line, and its home slice on that die (R88). -/
def homeDie (pa : Nat) : Nat := if inHbm pa then stackOf pa / 8 else pa / 4096 % 2
@[inherit_doc homeDie] def homeSlice (pa : Nat) : Nat := bits pa 10 6 ^^^ bits pa 15 11 ^^^ bits pa 20 16

/-- The home slice in the package: 32 × die + slice. -/
def homeOf (pa : Nat) : Nat := 32 * homeDie pa + homeSlice pa

/-- The key under which the home die's cache holds a copy of a line (R93). -/
def homeKey (pa : Nat) : Nat := (192 + homeDie pa) * 2 ^ 60 + pa / 64

/-- A table entry read by a walker through its home slice (R79); an absent table reads as not valid. -/
def State.entryAt (s : State) (pa : Nat) : Nat :=
  if !s.present pa 8 then 0
  else
    match NMap.find s.copies (homeKey pa) with
    | some c => bytesAt c.data (pa % 64) 8
    | none => ofBytes (memBytes s.mem pa 8)

/-- A table entry written at its home slice. -/
def State.putEntry (s : State) (pa x : Nat) : State :=
  match NMap.find s.copies (homeKey pa) with
  | some c =>
    let o := pa % 64
    let d := c.data.take o ++ toBytes 8 x ++ c.data.drop (o + 8)
    let m := c.dirty.take o ++ List.replicate 8 true ++ c.dirty.drop (o + 8)
    { s with copies := NMap.put s.copies (homeKey pa) { c with data := d, dirty := m } }
  | none => { s with mem := memPuts s.mem pa (toBytes 8 x) }

/-- The leaf that an entry describes at a level, or the fault of R77. -/
def State.leafOf (s : State) (slice level va ent e : Nat) : Except Cause Tlb :=
  let tier := bits e 62 61
  let size := pageSize tier
  let pa := bits e 56 12 * 4096
  if tier = 3 ∨ (tier = 2 ∧ level ≠ 3) ∨ (tier < 2 ∧ level ≠ 4) then .error .pageFault
  else if pa % size ≠ 0 ∨ !tierOk tier pa ∨ !s.present pa size then .error .pageFault
  else if tier = 2 ∧ !(s.members slice).contains (stackOf pa % 8) then .error .pageFault
  else .ok
    { place := 0, slice := slice, va := va - va % size, size := size, pa := pa, tier := tier, w := nbit e 57,
      x := nbit e 59, p := nbit e 58, disc := nbit e 60, caddy := nbit e 2, ent := ent }

/-- Is an entry valid and free of reserved bits? -/
def entryOk (e : Nat) : Bool := nbit e 0 && !nbit e 63 && bits e 11 3 == 0

/-- The walk from the table at `tab`, with `fuel` levels left; the level is 5 − fuel (R76). Of a group of 16 level-4
entries, a TIER 1 leaf in the first maps the group. How a walker finds that a page is of TIER 1 is left open: where the
group's first entry is no valid TIER 1 leaf the model reads the address's own entry, and a TIER 1 leaf found there gives
PAGE_FAULT (DESIGN CHOICE, log 54). -/
def State.walkFrom (s : State) (slice va : Nat) : Nat → Nat → Except Cause Tlb
  | 0, _ => .error .pageFault
  | fuel + 1, tab =>
    let level := 4 - fuel
    let ix := bits va (56 - 9 * level) (48 - 9 * level)
    let ga := tab + 8 * (ix - ix % 16)
    let ge := s.entryAt ga
    let group := level == 4 && entryOk ge && nbit ge 1 && bits ge 62 61 == 1
    let ea := if group then ga else tab + 8 * ix
    let e := s.entryAt ea
    if s.poisoned ea ∨ (level = 4 ∧ s.poisoned ga) then .error .memUe
    else if !entryOk e then .error .pageFault
    else if nbit e 1 then
      if bits e 62 61 = 1 ∧ !group then .error .pageFault else s.leafOf slice level va ea e
    else if bits e 62 57 ≠ 0 ∨ nbit e 2 then .error .pageFault
    else s.walkFrom slice va fuel (bits e 56 12 * 4096)

/-- A walk in the address space of a slice (its lead's XLAT.ROOT, R24, R80). -/
def State.walk (s : State) (slice va : Nat) : Except Cause Tlb :=
  let k := s.lead slice
  let root := s.sysr 0x28 k
  if !nbit root 0 then .error .pageFault else s.walkFrom k (va % 2 ^ 57) 5 (bits root 56 12 * 4096)

/-- The held translation of an address at a place (R79). -/
def State.held (s : State) (place slice va : Nat) : Option Tlb :=
  s.tlb.find? fun e => e.place == place && e.slice == s.lead slice && e.va ≤ va % 2 ^ 57 && va % 2 ^ 57 < e.va + e.size

/-- The translation held for a core: its own TLB, then its die's (R79). -/
def State.heldFor (s : State) (core slice va : Nat) : Option Tlb :=
  match s.held core slice va with
  | some e => some e
  | none => s.held (192 + coreDie core) slice va

/-- Entries a TLB can hold (R14, R16): 512 of a core, 32,768 of a die, 1,024 of a Sluice. -/
def tlbCap (place : Nat) : Nat := if place < 192 then 512 else if place < 194 then 32768 else 1024

/-- Holds a translation at a place; a full TLB drops its oldest (log 6). -/
def State.hold (s : State) (place : Nat) (e : Tlb) : State :=
  if (s.held place e.slice e.va).isSome then s
  else
    let mine := s.tlb.countP fun t => t.place == place
    let old := if tlbCap place ≤ mine then s.tlb.eraseP fun t => t.place == place else s.tlb
    { s with tlb := old ++ [{ e with place := place }] }

/-- The permission check of R77 on a translation. -/
def permit (e : Tlb) (k : Acc) (priv caddy : Bool) : Option Cause :=
  if (k = .write ∧ !e.w) ∨ (k = .fetch ∧ !e.x) ∨ (!priv ∧ e.p) ∨ (e.caddy ∧ !caddy) then some .access else none

/-- The physical address of a virtual one under a translation. -/
def Tlb.paOf (e : Tlb) (va : Nat) : Nat := e.pa + (va % 2 ^ 57 - e.va)

/-- Translates a canonical local address for a core and checks it: a held translation, else a walk; memory that has
become absent faults as a walk would, before the permission check (R77). -/
def State.xlat (s : State) (core slice : Nat) (priv caddy : Bool) (k : Acc) (va : Nat) : Except Cause Tlb :=
  let r : Except Cause Tlb := match s.heldFor core slice va with
    | some e => .ok e
    | none => s.walk slice va
  match r with
  | .error c => .error c
  | .ok e =>
    if !s.present (e.paOf va) 1 then .error .pageFault
    else
      match permit e k priv caddy with
      | some c => .error c
      | none => .ok e

/-- Holds the translation of an address in the core's and its die's TLB, after an access used it. -/
def State.note (s : State) (core : Nat) (e : Tlb) : State := (s.hold core e).hold (192 + coreDie core) e

/-- Removes from every TLB the translations of a slice that `p` selects (R81). -/
def State.dropTlb (s : State) (slice : Nat) (p : Tlb → Bool) : State :=
  { s with tlb := s.tlb.filter fun e => !(e.slice == s.lead slice && p e) }

/-- The memory with a whole range zero. -/
def memZero (m : List Host.Cell) (a n : Nat) : List Host.Cell := m.filter fun c => !(a ≤ c.1 && c.1 < a + n)

/-- The revival of a discarded page by its first write (R78): the frame is filled with zeros, whatever a cache, the Cistern or
a poison mark holds of it, DISC cleared in the leaf, and the old translation removed from every TLB of the slice. A page
already revived is left as it is. -/
def State.revive (s : State) (e : Tlb) : State :=
  let le := s.entryAt e.ent
  let inside (line : Nat) : Bool := e.pa ≤ 64 * line && 64 * line < e.pa + e.size
  if nbit le 60 then
    let s := { s with
      mem := memZero s.mem e.pa e.size, copies := NMap.drop (fun k => inside (k % 2 ^ 60)) s.copies,
      cistern := s.cistern.filter fun c => !inside c.line, poison := s.poison.filter fun l => !inside l }
    (s.putEntry e.ent (le - 2 ^ 60)).dropTlb e.slice fun t => t.va == e.va
  else s

/-- Is the page of a translation still discarded in its table? No read of the machine: a revival takes the page's translations from every
TLB (R78), and an operation that still carries one is told so by the home. -/
def State.discarded (s : State) (e : Tlb) : Bool := e.disc && nbit (s.entryAt e.ent) 60


end Sys2Proof.Machine
end

