-- ==== Sys2Proof/Machine/Faults.lean ====
section
/-!
DEFINITION. The fault queue of a slice (R351): building an entry, and writing entries to the ring.
-/

namespace Sys2Proof.Machine

/-- What a new fault entry says (R351). `eng` is bytes 28–31, `ref` the model's name of a suspended operation; `quiet` says
that the error it names has triggered its snapshot already. -/
structure NewEntry where
  kind : Nat
  launch : Nat := 0
  uid : Nat := 0
  detail : Nat := 0
  addr : Nat := 0
  save : Nat := 0
  pos : Nat := 0
  eng : Nat := 0
  ref : Nat := 0
  word : Nat := 0
  queue : Nat := 0
  quiet : Bool := false

/-- Does an entry name a contained error or a slice fence, which a snapshot may follow (R358, R359)? -/
def NewEntry.contained (e : NewEntry) : Bool :=
  !e.quiet && (e.kind == 6 || e.detail % 2 ^ 14 == Cause.memUe.code || e.detail % 2 ^ 14 == Cause.nodeUe.code)

/-- The 64 bytes of an entry (R351). -/
def entryBytes (e : NewEntry) (queue ring seq : Nat) : List Byte :=
  toBytes 2 e.kind ++ toBytes 2 (queue % 16) ++ toBytes 4 seq ++ toBytes 8 e.detail ++ toBytes 8 e.addr ++ toBytes 4 ring
    ++ toBytes 4 e.eng ++ toBytes 8 e.save ++ toBytes 8 e.pos ++ toBytes 8 0 ++ toBytes 8 e.word

/-- Adds an entry of a slice to those Kettle has to post; it takes the slice's next entry number. A contained error
and a slice fence may trigger a snapshot (R359). -/
def State.addEntry (s : State) (slice : Nat) (e : NewEntry) : State :=
  let k := s.lead slice
  let seq := NMap.get 0 s.fseq k
  let l := s.launch e.launch
  let fe : FEntry :=
    { slice := k, seq := seq, kind := e.kind, body := entryBytes e l.queue l.ring seq, launch := e.launch, uid := e.uid,
      eng := e.eng, ref := e.ref, posted := false, answered := false, at_ := 0 }
  let s := { s with entries := s.entries ++ [fe], fseq := NMap.put s.fseq k ((seq + 1) % 2 ^ 32) }
  if e.contained ∧ nbit (s.sysr 0x40 0) 30 then s.trigger else s

/-- Writes the oldest waiting entry of a slice to its ring: EN must be 1, the ring must have room, its page must
translate (R351). The entry is a whole line: it is written to the memory itself, whatever a die cache, the Cistern or a poison mark
holds of that line (R358), and the launch has posted an entry from then on (R352). -/
def State.postOne (s : State) (k : Nat) : Option State :=
  match s.entries.find? fun e => e.slice == k && !e.posted with
  | none => none
  | some e =>
    let ctl := s.sysr 0x25 k
    let tail := ctl % 64
    let head := bits ctl 21 16
    if !nbit ctl 31 then none
    else if (tail + 1) % 64 = head then none
    else
      let va := bits (s.sysr 0x24 k) 56 12 * 4096 + 64 * tail
      match s.walk k va with
      | .error _ => none
      | .ok tr =>
        if (permit tr .write true false).isSome then none
        else
          let s := s.revive tr
          let pa := tr.paOf va
          let l := s.launch e.launch
          let s := if l.live then s.setLaunch e.launch { l with posted := true } else s
          let s := { s with
            mem := memPuts s.mem pa e.body, copies := NMap.drop (fun k => k == homeKey pa) s.copies,
            cistern := s.cistern.filter (fun c => c.line != pa / 64), poison := s.poison.filter (· != pa / 64),
            entries := s.entries.map (fun (x : FEntry) => if x.slice == k && x.seq == e.seq then { x with posted := true, at_ := va } else x),
            out := s.out ++ [Out.msix k] }
          some (s.setSys 0x25 k (ctl - tail + (tail + 1) % 64))

/-- Writes waiting entries of a slice, at most `fuel`; sets OVF while one waits for ring space. -/
def State.postSome : Nat → Nat → State → State
  | 0, _, s => s
  | fuel + 1, k, s =>
    match s.postOne k with
    | some s' => State.postSome fuel k s'
    | none =>
      let ctl := s.sysr 0x25 k
      let wait := s.entries.any fun e => e.slice == k && !e.posted
      if wait && nbit ctl 31 && (ctl % 64 + 1) % 64 == bits ctl 21 16 then s.setSysBit 0x25 k 29 else s

/-- Writes what can be written of a slice's waiting entries. -/
def State.postAll (s : State) (k : Nat) : State := State.postSome 64 (s.lead k) s

/-- An entry added and posted as far as the ring allows. -/
def State.report (s : State) (slice : Nat) (e : NewEntry) : State := (s.addEntry slice e).postAll slice

/-- A TRAP.DETAIL word with only a cause. -/
def causeOnly (c : Cause) : Nat := c.code

end Sys2Proof.Machine
end

