-- ==== Sys2Proof/Machine/Float.lean ====
section
/-!
DEFINITION. Number formats and rounding (R110 to R118): exact values, decoding, encoding and rounding. An exact value is a
rational given by numerator and denominator, so nothing is lost before the one rounding.
-/

namespace Sys2Proof.Machine

/-- A floating-point format of R110: fraction width, exponent width, bias, whether it has infinities, whether it has
NaNs, its canonical NaN (R112), the low bits below the fraction (13 in F19), the largest finite value as n × 2^q. -/
structure FFmt where
  fb : Nat
  eb : Nat
  bias : Nat
  inf : Bool
  nan : Bool
  cnan : Nat
  sh : Nat
  nmax : Nat
  qmax : Int
  deriving DecidableEq, Repr

/-- The formats F32, F19, BF16, FP16, E5M2, E4M3, E3M2 and E2M3 of R110. -/
def f32 : FFmt := ⟨23, 8, 127, true, true, 0x7FC00000, 0, 2 ^ 24 - 1, 104⟩
@[inherit_doc f32] def f19 : FFmt := ⟨10, 8, 127, true, true, 0x7FC00000, 13, 2 ^ 11 - 1, 117⟩
@[inherit_doc f32] def bf16 : FFmt := ⟨7, 8, 127, true, true, 0x7FC0, 0, 255, 120⟩
@[inherit_doc f32] def f16 : FFmt := ⟨10, 5, 15, true, true, 0x7E00, 0, 2047, 5⟩
@[inherit_doc f32] def e5m2 : FFmt := ⟨2, 5, 15, true, true, 0x7E, 0, 7, 13⟩
@[inherit_doc f32] def e4m3 : FFmt := ⟨3, 4, 7, false, true, 0x7F, 0, 14, 5⟩
@[inherit_doc f32] def e3m2 : FFmt := ⟨2, 3, 3, false, false, 0, 0, 7, 2⟩
@[inherit_doc f32] def e2m3 : FFmt := ⟨3, 2, 1, false, false, 0, 0, 15, -1⟩

/-- A floating-point value: a NaN, an infinity, or (−1)^neg × m × 2^e. -/
inductive FVal where
  | nan
  | inf (neg : Bool)
  | fin (neg : Bool) (m : Nat) (e : Int)
  deriving DecidableEq, Repr

/-- The value of an encoding (R110). -/
def decodeF (f : FFmt) (x : Nat) : FVal :=
  let y := x / 2 ^ f.sh
  let fr := y % 2 ^ f.fb
  let ex := y / 2 ^ f.fb % 2 ^ f.eb
  let neg := y / 2 ^ (f.fb + f.eb) % 2 == 1
  let top := 2 ^ f.eb - 1
  if f.inf && ex == top then (if fr = 0 then .inf neg else .nan)
  else if f.nan && !f.inf && ex == top && fr == 2 ^ f.fb - 1 then .nan
  else if ex = 0 then .fin neg fr (1 - (f.bias : Int) - f.fb)
  else .fin neg (fr + 2 ^ f.fb) ((ex : Int) - f.bias - f.fb)

/-- Is an encoding a subnormal number other than zero? -/
def isSub (f : FFmt) (x : Nat) : Bool :=
  let y := x / 2 ^ f.sh
  y / 2 ^ f.fb % 2 ^ f.eb == 0 && y % 2 ^ f.fb != 0

/-- The sign bit of a format, in place. -/
def signBit (f : FFmt) (neg : Bool) : Nat := if neg then 2 ^ (f.fb + f.eb + f.sh) else 0

/-- The encoding of zero of a sign. -/
def encZero (f : FFmt) (neg : Bool) : Nat := signBit f neg

/-- The encoding of an infinity (of a format that has one). -/
def encInf (f : FFmt) (neg : Bool) : Nat := signBit f neg + (2 ^ f.eb - 1) * 2 ^ (f.fb + f.sh)

/-- The encoding of the largest finite value of a sign. -/
def encMax (f : FFmt) (neg : Bool) : Nat :=
  signBit f neg + ((f.qmax + f.fb + f.bias).toNat * 2 ^ f.fb + (f.nmax - 2 ^ f.fb)) * 2 ^ f.sh

/-- The encoding of the representable value n × 2^q, n at most 2^(fb + 1), q at least the subnormal quantum. -/
def encPart (f : FFmt) (neg : Bool) (n : Nat) (q : Int) : Nat :=
  let (n, q) := if n = 2 ^ (f.fb + 1) then (n / 2, q + 1) else (n, q)
  let body := if n < 2 ^ f.fb then n else (q + f.fb + f.bias).toNat * 2 ^ f.fb + (n - 2 ^ f.fb)
  signBit f neg + body * 2 ^ f.sh

/-- floor(log2 (p / d)) for positive p and d. -/
def flog2 (p d : Nat) : Int :=
  let k : Int := (p.log2 : Int) - d.log2
  if 0 ≤ k then (if p < d * 2 ^ k.toNat then k - 1 else k) else (if p * 2 ^ (-k).toNat < d then k - 1 else k)

/-- a / b rounded to an integer in a rounding mode of R115 (0 RNE, 1 RTZ, 2 RDN, 3 RUP), for a value of the given sign. -/
def roundDiv (mode : Nat) (neg : Bool) (a b : Nat) : Nat :=
  let q := a / b
  let r := a % b
  match mode with
  | 0 => if 2 * r < b then q else if b < 2 * r then q + 1 else if q % 2 = 0 then q else q + 1
  | 1 => q
  | 2 => if neg && r != 0 then q + 1 else q
  | _ => if !neg && r != 0 then q + 1 else q

/-- p / d as a multiple of 2^q, as numerator and denominator. -/
def scaleBy (p d : Nat) (q : Int) : Nat × Nat := if 0 ≤ q then (p, d * 2 ^ q.toNat) else (p * 2 ^ (-q).toNat, d)

/-- The value p / d (positive) rounded to a format's fraction width and subnormals, with no upper limit to the exponent
(R115, R118 step 2): n and q of n × 2^q. -/
def roundPart (f : FFmt) (mode : Nat) (neg : Bool) (p d : Nat) : Nat × Int :=
  let ex := max (flog2 p d) (1 - (f.bias : Int))
  let q := ex - f.fb
  let (a, b) := scaleBy p d q
  (roundDiv mode neg a b, q)

/-- Does n × 2^q exceed the largest finite value? -/
def overMax (f : FFmt) (n : Nat) (q : Int) : Bool :=
  if f.qmax ≤ q then f.nmax < n * 2 ^ (q - f.qmax).toNat else f.nmax * 2 ^ (f.qmax - q).toNat < n

/-- RoundF32, RoundF16 and RoundBF16 (R11, R115): p / d rounded in a mode, with IEEE 754 overflow; a zero takes the sign
given. -/
def roundQ (f : FFmt) (mode : Nat) (neg : Bool) (p d : Nat) : Nat :=
  if p = 0 then encZero f neg
  else
    let (n, q) := roundPart f mode neg p d
    if overMax f n q then
      (if mode = 1 ∨ (mode = 2 ∧ !neg) ∨ (mode = 3 ∧ neg) then encMax f neg else encInf f neg)
    else encPart f neg n q

/-- An exact dyadic value m × 2^e. -/
structure Dy where
  m : Int
  e : Int
  deriving DecidableEq, Repr

/-- The exact value of a finite number. -/
def dyOf (neg : Bool) (m : Nat) (e : Int) : Dy := ⟨if neg then -(m : Int) else m, e⟩

/-- The exact sum. -/
def Dy.add (x y : Dy) : Dy :=
  if x.e ≤ y.e then ⟨x.m + y.m * 2 ^ (y.e - x.e).toNat, x.e⟩ else ⟨x.m * 2 ^ (x.e - y.e).toNat + y.m, y.e⟩

/-- The exact product. -/
def Dy.mul (x y : Dy) : Dy := ⟨x.m * y.m, x.e + y.e⟩

/-- The negation. -/
def Dy.neg (x : Dy) : Dy := ⟨-x.m, x.e⟩

/-- Comparison of exact values. -/
def Dy.lt (x y : Dy) : Bool := (x.add y.neg).m < 0

/-- An exact dyadic rounded; an exact zero takes the sign given. -/
def roundDy (f : FFmt) (mode : Nat) (x : Dy) (zneg : Bool) : Nat :=
  if x.m = 0 then encZero f zneg
  else
    let p := x.m.natAbs
    if 0 ≤ x.e then roundQ f mode (x.m < 0) (p * 2 ^ x.e.toNat) 1 else roundQ f mode (x.m < 0) p (2 ^ (-x.e).toNat)

/-- The value of a source under a flush control: a subnormal reads as zero of its sign (R116). -/
def srcF (f : FFmt) (ftz : Bool) (x : Nat) : FVal :=
  match decodeF f x with
  | .fin n m e => if ftz && isSub f x then .fin n 0 e else .fin n m e
  | v => v

/-- A result under a flush control: a subnormal is written as zero of its sign (R116). -/
def flushF (f : FFmt) (ftz : Bool) (x : Nat) : Nat :=
  if ftz && isSub f x then encZero f (x / 2 ^ (f.fb + f.eb + f.sh) % 2 == 1) else x

/-- The encoding of a value in a format that represents it. -/
def encV (f : FFmt) : FVal → Nat
  | .nan => f.cnan
  | .inf n => encInf f n
  | .fin n m e => roundDy f 0 (dyOf n m e) n

/-- The negated value. -/
def FVal.negate : FVal → FVal
  | .nan => .nan
  | .inf n => .inf (!n)
  | .fin n m e => .fin (!n) m e

/-- x + y rounded once (R115, R117): an exact zero sum of opposite signs is −0 only in RDN. -/
def addV (f : FFmt) (mode : Nat) : FVal → FVal → Nat
  | .nan, _ => f.cnan
  | _, .nan => f.cnan
  | .inf a, .inf b => if a = b then encInf f a else f.cnan
  | .inf a, _ => encInf f a
  | _, .inf b => encInf f b
  | .fin na ma ea, .fin nb mb eb =>
    let zneg := if ma = 0 ∧ mb = 0 ∧ na = nb then na else mode = 2
    roundDy f mode ((dyOf na ma ea).add (dyOf nb mb eb)) zneg

/-- The exact product as a value; an infinity times zero is a NaN. -/
def mulV : FVal → FVal → FVal
  | .nan, _ => .nan
  | _, .nan => .nan
  | .inf a, .inf b => .inf (a != b)
  | .inf a, .fin nb mb _ => if mb = 0 then .nan else .inf (a != nb)
  | .fin na ma _, .inf b => if ma = 0 then .nan else .inf (na != b)
  | .fin na ma ea, .fin nb mb eb => .fin (na != nb) (ma * mb) (ea + eb)

/-- FADD in a format with its flush control (R155). -/
def fAdd (f : FFmt) (mode : Nat) (ftz : Bool) (x y : Nat) : Nat :=
  flushF f ftz (addV f mode (srcF f ftz x) (srcF f ftz y))

/-- FSUB. -/
def fSub (f : FFmt) (mode : Nat) (ftz : Bool) (x y : Nat) : Nat :=
  flushF f ftz (addV f mode (srcF f ftz x) (srcF f ftz y).negate)

/-- A value rounded to a format; zeros keep their sign. -/
def roundV (f : FFmt) (mode : Nat) : FVal → Nat
  | .nan => f.cnan
  | .inf n => encInf f n
  | .fin n m e => roundDy f mode (dyOf n m e) n

/-- FMUL. -/
def fMul (f : FFmt) (mode : Nat) (ftz : Bool) (x y : Nat) : Nat :=
  flushF f ftz (roundV f mode (mulV (srcF f ftz x) (srcF f ftz y)))

/-- FFMA: x × y + z rounded once. -/
def fFma (f : FFmt) (mode : Nat) (ftz : Bool) (x y z : Nat) : Nat :=
  flushF f ftz (addV f mode (mulV (srcF f ftz x) (srcF f ftz y)) (srcF f ftz z))

/-- FDIV (R157), in RNE. -/
def fDiv (f : FFmt) (ftz : Bool) (x y : Nat) : Nat :=
  flushF f ftz (match srcF f ftz x, srcF f ftz y with
    | .nan, _ => f.cnan
    | _, .nan => f.cnan
    | .inf _, .inf _ => f.cnan
    | .inf a, .fin nb _ _ => encInf f (a != nb)
    | .fin na _ _, .inf b => encZero f (na != b)
    | .fin na ma ea, .fin nb mb eb =>
      if mb = 0 then (if ma = 0 then f.cnan else encInf f (na != nb))
      else
        let (p, d) := scaleBy ma mb (eb - ea)
        roundQ f 0 (na != nb) p d)

/-- Is x below y? Zeros are equal; not for NaNs. -/
def ltV : FVal → FVal → Bool
  | .nan, _ => false
  | _, .nan => false
  | .inf a, .inf b => a && !b
  | .inf a, _ => a
  | _, .inf b => !b
  | .fin na ma ea, .fin nb mb eb => (dyOf na ma ea).lt (dyOf nb mb eb)

/-- Are x and y equal numbers (−0 = +0)? -/
def eqV (x y : FVal) : Bool := x != .nan && y != .nan && !ltV x y && !ltV y x

/-- The sign of a value. -/
def FVal.isNeg : FVal → Bool
  | .nan => false
  | .inf n => n
  | .fin n _ _ => n

/-- FMIN and FMAX (R156): −0 below +0; a NaN and a number give the number; two NaNs the canonical NaN. -/
def fMinMax (f : FFmt) (mx ftz : Bool) (x y : Nat) : Nat :=
  let a := srcF f ftz x
  let b := srcF f ftz y
  flushF f ftz (match a, b with
    | .nan, .nan => f.cnan
    | .nan, b => encV f b
    | a, .nan => encV f a
    | a, b =>
      let aLow := ltV a b || (eqV a b && a.isNeg)
      if aLow != mx then encV f a else encV f b)

/-- The class mask of FCLASS (R156), the source unflushed. -/
def fClass (x : Nat) : Nat :=
  match decodeF f32 x with
  | .nan => if x / 2 ^ 22 % 2 = 0 then 2 ^ 8 else 2 ^ 9
  | .inf true => 1
  | .inf false => 2 ^ 7
  | .fin n m _ =>
    if m = 0 then (if n then 2 ^ 3 else 2 ^ 4)
    else if isSub f32 x then (if n then 2 ^ 2 else 2 ^ 5)
    else (if n then 2 else 2 ^ 6)

/-- Is an f32 encoding finite? -/
def isFinite32 (x : Nat) : Bool :=
  match decodeF f32 x with
  | .fin _ _ _ => true
  | _ => false

/-- Is an f32 encoding a NaN? -/
def isNan32 (x : Nat) : Bool := decodeF f32 x == .nan

/-- The exact value of a finite f32 encoding (zero for others). -/
def dy32 (x : Nat) : Dy :=
  match decodeF f32 x with
  | .fin n m e => dyOf n m e
  | _ => ⟨0, 0⟩

/-- A sum of exact products, rounded once in RNE, under the rule of R243: the canonical NaN for a NaN term, a zero times
an infinity or both infinities; an infinity for an infinite term; an exact zero is −0 only when every term is −0. -/
def sumTerms (f : FFmt) (ts : List FVal) : Nat :=
  if ts.any (· == .nan) then f.cnan
  else if ts.any (· == .inf true) && ts.any (· == .inf false) then f.cnan
  else if ts.any (· == .inf true) then encInf f true
  else if ts.any (· == .inf false) then encInf f false
  else
    let tot := ts.foldl (fun acc t => match t with
      | .fin n m e => acc.add (dyOf n m e)
      | _ => acc) (⟨0, 0⟩ : Dy)
    roundDy f 0 tot (ts.all fun t => match t with
      | .fin n m _ => m == 0 && n
      | _ => false)

/-- The result of a conversion under R118: its encoding, and whether it overflowed as policy 11 traps. -/
inductive Conv where
  | ok (x : Nat)
  | trap
  deriving DecidableEq, Repr

/-- Conversion of a value to a float format (R118), mode m, policy p, flush of step 4. -/
def convF (f : FFmt) (m p : Nat) (ftz : Bool) (v : FVal) : Conv :=
  let past (n : Bool) : Conv :=
    match p with
    | 0 => .ok (encMax f n)
    | 1 => .ok (if f.inf then encInf f n else if f.nan then f.cnan else encMax f n)
    | 2 => .ok (if f.nan then f.cnan else encMax f n)
    | _ => .trap
  match v with
  | .nan => if f.nan then .ok f.cnan else if p = 3 then .trap else .ok 0
  | .inf n => past n
  | .fin n ma e =>
    if ma = 0 then .ok (encZero f n)
    else
      let (a, d) := scaleBy ma 1 (-e)
      let (k, q) := roundPart f m n a d
      if overMax f k q then past n else .ok (flushF f ftz (encPart f n k q))

/-- Conversion of a value to an integer of `lo` to `hi` (R118, R158). -/
def convI (lo hi : Int) (m p : Nat) (v : FVal) : Option Int :=
  let past (n : Bool) : Option Int := if p = 3 then none else some (if n then lo else hi)
  match v with
  | .nan => if p = 3 then none else some 0
  | .inf n => past n
  | .fin n ma e =>
    let (a, d) := scaleBy ma 1 (-e)
    let k := roundDiv m n a d
    let x : Int := if n then -(k : Int) else k
    if x < lo ∨ hi < x then past n else some x

end Sys2Proof.Machine
end

