-- ==== Sys2Proof/Machine/Places.lean ====
section
/-!
DEFINITION. Where accesses are performed: the Cistern, home slices, L1 and die-cache copies and their write-back, and
remote requests on their way to another package (R86, R88, R93, R105 to R107, R249, R366).
-/

namespace Sys2Proof.Machine

/-! Remote requests (R106, R322, R323). -/

/-- This package's identifier (R311). -/
def State.pkg (s : State) : Nat := s.sysr 0x31 0 % 2 ^ 10

/-- Payload flits of n bytes of data: none up to 16 bytes (R316). -/
def payFlits (n : Nat) : Nat := if n ≤ 16 then 0 else (n + 63) / 64

/-- Does a request only read? -/
def readsOnly (k : ReqKind) : Bool := k == .read || k == .fill

/-- The line of a physical address; the line of a domain-global address. -/
def pline (pa : Nat) : Nat := pa / 64
@[inherit_doc pline] def dline (va : Nat) : Nat := 2 ^ 58 + va % 2 ^ 63 / 64

/-- The state with the fills of a line on their way to the places that `p` selects marked to be fetched anew (R96). -/
def State.refetch (s : State) (line : Nat) (p : Nat → Bool) : State :=
  { s with remote := s.remote.map fun (r : RemOp) => match r.act with
    | .fill place l => if l = line ∧ p place = true then { r with again := true } else r
    | _ => r }

/-- The fills that a request of a core's thread overtakes (R96): of the line that it writes; of the line that it reads, those whose
copy would serve the thread; an L1's fill overtakes its die's. -/
def overtakes (req : Req) (act : RemAct) (core place : Nat) : Bool :=
  match req.kind, act with
  | .fill, .fill q _ => q < 192 && place == 192 + coreDie core
  | .fill, _ => false
  | .read, _ => place == core || place == 192 + coreDie core
  | _, _ => true

/-- Sends a remote request: it enters the slice's queue towards the owner, or, for the package's own window, is delivered
here without crossing the fabric (R73). `from_` is the place whose write-back it is. -/
def State.sendReq (s : State) (slice uid t dst : Nat) (req : Req) (act : RemAct) (from_ : Option Nat := none) : State :=
  let tag := s.nextTag
  let m : Msg :=
    { osrc := s.pkg, odst := dst, typ := 0, ordered := true, relayed := false, rsv := false,
      len := if req.kind = .write then payFlits req.size else 0, seq := 0, tag := tag, req := some req, off := 0, data := [] }
  let s := s.refetch (dline (dst * 2 ^ 53 + req.off)) (overtakes req act (s.team uid).core)
  let s := { s with
    nextTag := tag + 1,
    remote := s.remote ++ [RemOp.mk tag uid (s.team uid).launch t (s.lead slice) dst req act false s.tick] }
  if dst = s.pkg then { s with inReqs := s.inReqs ++ [m] }
  else { s with sendQ := s.sendQ ++ [QMsg.mk (s.lead slice) m false false none from_] }

/-- A plain request with no scope and no SC clock. -/
def plainReq (kind : ReqKind) (off size x : Nat) : Req :=
  { kind := kind, off := off, size := size, typ := 0, x := x, cmp := 0, scope := 0, sc := false, clock := 0 }

/-! The Cistern (R249). -/

/-- Is a line held in the Cistern? -/
def State.cisHas (s : State) (line : Nat) : Bool := s.cistern.any fun c => c.line == line

/-- Adds the touched words of a Cistern line into memory, one RoundF32 addition each. -/
def cisMerge : List Host.Cell → Nat → List (Option Word) → List Host.Cell
  | m, _, [] => m
  | m, a, none :: ws => cisMerge m (a + 4) ws
  | m, a, some w :: ws =>
    let old := ofBytes (memBytes m a 4)
    cisMerge (memPuts m a (toBytes 4 (fAdd f32 0 false old w.toNat))) (a + 4) ws

/-- Evicts a Cistern line to its home; on a poisoned memory line its sums are discarded and a KIND 5 entry names the line
(R358). -/
def State.cisEvict (s : State) (line : Nat) : State :=
  match s.cistern.find? fun c => c.line == line with
  | none => s
  | some c =>
    let s := { s with cistern := s.cistern.filter fun c => c.line != line }
    if s.poison.contains line then
      s.report (if inHbm (64 * line) then stackOf (64 * line) % 8 else 0)
        { kind := 5, detail := causeOnly .memUe, addr := 64 * line }
    else { s with mem := cisMerge s.mem (64 * line) c.words }

/-! Copies of lines: place 0 to 191 an L1, 192 + die a die cache. -/

/-- The key of a line's copy at a place. -/
def ckey (place line : Nat) : Nat := place * 2 ^ 60 + line

/-- Is a line of a domain-global address? -/
def isDline (line : Nat) : Bool := 2 ^ 58 ≤ line

/-- The copy held at a place. -/
def State.copy (s : State) (place line : Nat) : Option LineCopy := NMap.find s.copies (ckey place line)

/-- Sets a copy. -/
def State.setCopy (s : State) (place line : Nat) (c : LineCopy) : State :=
  { s with copies := NMap.put s.copies (ckey place line) c }

/-- Drops a copy. -/
def State.dropCopy (s : State) (place line : Nat) : State :=
  { s with copies := NMap.drop (fun k => k == ckey place line) s.copies }

/-- Is a physical line of host or CXL memory, which a die cache may hold a copy of (R93)? -/
def farLine (line : Nat) : Bool := inHost (64 * line) || inCxl (64 * line)

/-- Bytes of `new` where `sel` is true, of `old` elsewhere. -/
def overlay : List Byte → List Byte → List Bool → List Byte
  | o :: os, n :: ns, b :: bs => (if b then n else o) :: overlay os ns bs
  | os, _, _ => os

/-- Writes a whole line's selected bytes into memory; a full line clears poison, a partial one keeps it (R358). -/
def State.memLine (s : State) (line : Nat) (data : List Byte) (sel : List Bool) : State :=
  let old := memBytes s.mem (64 * line) 64
  let s := { s with mem := memPuts s.mem (64 * line) (overlay old data sel) }
  if sel.length = 64 ∧ sel.all id then { s with poison := s.poison.filter (· != line) } else s

/-- The bytes of a physical line at its home slice, after evicting its Cistern line: a die-cache copy of host or CXL
memory if held, else memory. -/
def State.homeLine (s : State) (line : Nat) : List Byte :=
  match if farLine line then s.copy (192 + homeDie (64 * line)) line else none with
  | some c => c.data
  | none => memBytes s.mem (64 * line) 64

/-- Runs of written bytes of a line, as offset, writing slice and bytes. -/
def dirtyRuns : Nat → List Byte → List Bool → List Nat → List (Nat × Nat × List Byte)
  | k, x :: xs, true :: bs, w :: ws =>
    match dirtyRuns (k + 1) xs bs ws with
    | (j, v, run) :: rest => if j = k + 1 ∧ v = w then (k, w, x :: run) :: rest else (k, w, [x]) :: (j, v, run) :: rest
    | [] => [(k, w, [x])]
  | k, _ :: xs, false :: bs, _ :: ws => dirtyRuns (k + 1) xs bs ws
  | _, _, _, _ => []

/-- A copy with no written bytes, filled now. -/
def State.newCopy (s : State) (data : List Byte) : LineCopy :=
  { data := data, dirty := List.replicate 64 false, born := s.tick, vas := [], who := List.replicate 64 0 }

/-- A copy in which a slice's core has written bytes from an offset on, under a virtual address. -/
def LineCopy.wrote (c : LineCopy) (bs : List Byte) (off va slice : Nat) : LineCopy :=
  let now (k : Nat) : Bool := off ≤ k && k < off + bs.length
  { c with
    data := (List.range 64).map fun k => if now k then bs.getD (k - off) 0 else c.data.getD k 0,
    dirty := (List.range 64).map fun k => c.dirty.getD k false || now k,
    who := (List.range 64).map fun k => if now k then slice else c.who.getD k 0,
    vas := if c.vas.contains (va / 64) then c.vas else c.vas ++ [va / 64] }

/-- A copy whose written bytes have been carried on. -/
def LineCopy.clean (c : LineCopy) : LineCopy := { c with dirty := List.replicate 64 false, vas := [] }

/-- Sends the written bytes of a place's copy of a domain-global line to the owner (R366), for the thread that asks for it. No rule
names the slice whose queue and cap carry them: the model takes the slice whose core wrote the bytes (DESIGN CHOICE, log 65). -/
def State.sendDirty (s : State) (place line uid t : Nat) (c : LineCopy) : State :=
  let va := line % 2 ^ 58 * 64
  (dirtyRuns 0 c.data c.dirty c.who).foldl (fun s (k, w, run) =>
    s.sendReq w uid t (va / 2 ^ 53 % 2 ^ 10) (plainReq .write (va % 2 ^ 53 + k) run.length (ofBytes run)) .flags (some place)) s

/-- Writes a die cache's copy back: to the memory itself, and for a domain-global line to the owner by remote writes (R93,
R366). The copy stays, clean. -/
def State.writeBackDie (s : State) (place line uid t : Nat) : State :=
  match s.copy place line with
  | none => s
  | some c =>
    if !c.dirty.any id then s
    else
      let s := s.setCopy place line c.clean
      if isDline line then s.sendDirty place line uid t c else (s.cisEvict line).memLine line c.data c.dirty

/-- Evicts a die cache's copy: written back, then dropped. -/
def State.evictDie (s : State) (place line uid t : Nat) : State := (s.writeBackDie place line uid t).dropCopy place line

/-- The lines held at a place. -/
def State.linesAt (s : State) (place : Nat) : List Nat :=
  s.copies.filterMap fun e => if e.1 / 2 ^ 60 = place then some (e.1 % 2 ^ 60) else none

/-- Granules of a core's array that resident teams hold as registers and scratchpad (R43). -/
def State.heldGranules (s : State) (core : Nat) : Nat :=
  (s.teams.map fun e => if e.2.live && e.2.core == core then e.2.regg + e.2.scrg else 0).sum

/-- Lines that a place holds at most: an L1 what the granules that no team holds give (R14, R86), a die cache 160 MiB less
its carves (R16). -/
def State.copyCap (s : State) (place : Nat) : Nat :=
  if place < 192 then (24 - s.heldGranules place) * 1024
  else
    let c := s.sysr 0x10 (place - 192)
    (80 - bits c 13 8 - c % 64) * 32768

/-- The line that leaves a place that has no room for another: the choice is free (log 6); none where there is room. -/
def State.leaver (s : State) (place line : Nat) : Option Nat :=
  let ls := s.linesAt place
  if ls.length < s.copyCap place then none else ls[Config.freeChoice (s.tick * 2 ^ 64 + line) % ls.length]?

/-- Puts a copy of a line into a die cache, making room for it. -/
def State.installDie (s : State) (place line : Nat) (c : LineCopy) : State :=
  match if (s.copy place line).isSome then none else s.leaver place line with
  | some l => (s.evictDie place l 0 0).setCopy place line c
  | none => s.setCopy place line c

/-- Writes selected bytes of a line at its home slice, under virtual lines. A host or CXL line is kept in the home die's cache
(R93); one written whole is no longer poisoned (R358). -/
def State.homeWrite (s : State) (line : Nat) (data : List Byte) (sel : List Bool) (vas : List Nat) : State :=
  if farLine line then
    let p := 192 + homeDie (64 * line)
    let c := (s.copy p line).getD (s.newCopy (memBytes s.mem (64 * line) 64))
    let s := if sel.length = 64 ∧ sel.all id then { s with poison := s.poison.filter (· != line) } else s
    s.installDie p line
      { c with
        data := overlay c.data data sel, dirty := (c.dirty.zip sel).map fun (a, b) => a || b,
        vas := (c.vas ++ vas).eraseDups }
  else s.memLine line data sel

/-- Writes a copy's written bytes back to the next place: from an L1 to the home slice, from a die cache to the memory
itself, and for a domain-global line to the owner by remote writes (R93, R366), of which a copy of the die keeps the bytes too,
since it serves the writer after the L1's. The copy stays, clean. `uid` and `t` are the thread whose operation asks for
it, and whose TEAM.STATUS a refusal flags; where none does, as at an eviction, it is 0, which names no team, and no status is flagged
(DESIGN CHOICE, log 65). -/
def State.writeBack (s : State) (place line uid t : Nat) : State :=
  if 192 ≤ place then s.writeBackDie place line uid t
  else
    match s.copy place line with
    | none => s
    | some c =>
      if !c.dirty.any id then s
      else
        let s := s.setCopy place line c.clean
        if isDline line then
          let d := 192 + coreDie place
          let s := match s.copy d line with
            | some k => s.setCopy d line { k with data := overlay k.data c.data c.dirty }
            | none => s
          s.sendDirty place line uid t c
        else (s.cisEvict line).homeWrite line c.data c.dirty c.vas

/-- Evicts a copy: written back, then dropped. -/
def State.evict (s : State) (place line uid t : Nat) : State := (s.writeBack place line uid t).dropCopy place line

/-- Puts a copy of a line into an L1 or a die cache, making room for it. -/
def State.install (s : State) (place line : Nat) (c : LineCopy) : State :=
  match if (s.copy place line).isSome then none else s.leaver place line with
  | some l => (s.evict place l 0 0).setCopy place line c
  | none => s.setCopy place line c

/-- A core and its die give up a domain-global line before an operation on it goes to the owner, for a thread, so that its later reads do
not find the line older (R96, R97, R103). -/
def State.giveUp (s : State) (core va uid t : Nat) : State :=
  (s.evict core (dline va) uid t).evict (192 + coreDie core) (dline va) uid t

/-- Writes back every line of a place that `p` selects. -/
def State.writeBackAll (s : State) (place : Nat) (p : Nat → Bool) (uid t : Nat) : State :=
  (s.linesAt place).foldl (fun s l => if p l then s.writeBack place l uid t else s) s

/-- Evicts every line of a place that `p` selects. -/
def State.evictAll (s : State) (place : Nat) (p : Nat → Bool) (uid t : Nat) : State :=
  (s.linesAt place).foldl (fun s l => if p l then s.evict place l uid t else s) s

/-- The lines that leave an L1 when teams take more of its array. -/
def State.trimL1 (s : State) (core : Nat) : State :=
  let ls := s.linesAt core
  (ls.drop (s.copyCap core)).foldl (fun s l => s.evict core l 0 0) s

/-! Edges (R97, R100 to R102). -/

/-- Performs writes at the place of a scope (R102, log 19), of those lines that `p` selects: what a core's L1 holds goes to the home
slices from scope cluster on, host and CXL lines to the memory itself from node on; every domain-global line leaves the L1 and the
die's cache for the owner from package on (R366). -/
def State.publishIf (s : State) (core scope uid t : Nat) (p : Nat → LineCopy → Bool) : State :=
  let sel (place l : Nat) (s : State) : Bool := match s.copy place l with | some c => p l c | none => false
  if scope < 5 then s
  else
    let s := s.writeBackAll core (fun l => (7 ≤ scope && isDline l) || sel core l s) uid t
    let s := if 7 ≤ scope then s.writeBackAll (192 + coreDie core) isDline uid t else s
    if 8 ≤ scope then
      let s := s.writeBackAll 192 (fun l => !isDline l && sel 192 l s) uid t
      s.writeBackAll 193 (fun l => !isDline l && sel 193 l s) uid t
    else s

/-- Performs every earlier write of a core at the place of a scope. -/
def State.publish (s : State) (core scope uid t : Nat) : State := s.publishIf core scope uid t fun _ _ => true

/-- The mark, in place of a virtual line, of a write of an engine, which reaches the line by its physical address alone. -/
def anyVa : Nat := 2 ^ 60

/-- Was a copy written under an address that a launch binds to an object (R101), or by an engine? -/
def State.boundTo (s : State) (l obj : Nat) (c : LineCopy) : Bool :=
  c.vas.any fun v => v == anyVa || (s.launch l).binds.any fun b => b.2.2 == obj && b.1 ≤ 64 * v && 64 * v < b.1 + b.2.1

/-- Notes an ACQ of an object, or a FENCE.ALL, at the places narrower than its scope (R100, R102): copies whose filling began up to now
are too old for the reads of the regions bound to the object, or for every read. -/
def State.acquired (s : State) (core scope : Nat) (obj : Option Nat) : State :=
  let ps := if scope < 5 then [] else if scope < 7 then [core] else if scope < 8 then [core, 192 + coreDie core]
    else [core, 192, 193]
  { s with acqs := (s.acqs.filter fun a => !(ps.contains a.1 && a.2.1 == obj)) ++ ps.map fun p => (p, obj, s.tick + 1) }

/-- After a fence of a scope: no read returns a copy held at a narrower place that was filled before it (R102). Such copies
are written back and dropped (log 19). -/
def State.refresh (s : State) (core scope uid t : Nat) : State :=
  if scope < 5 then s
  else
    let s := (s.acquired core scope none).evictAll core (fun _ => true) uid t
    let s := if 7 ≤ scope then s.evictAll (192 + coreDie core) isDline uid t else s
    if 8 ≤ scope then (s.evictAll 192 (fun l => !isDline l) uid t).evictAll 193 (fun l => !isDline l) uid t else s

/-- The step before which a copy at a place was filled too early for a read of a team at an address: that of the team's start (R97),
of the last FENCE.ALL there (R102), or of the last ACQ there of the object that its launch binds the address to (R100, R101, log 19). -/
def State.needAt (s : State) (place u va : Nat) : Nat :=
  let tm := s.team u
  let last (obj : Option Nat) : Nat := ((s.acqs.find? fun a => a.1 == place && a.2.1 == obj).map (·.2.2)).getD 0
  let since := max tm.since (last none)
  match (s.launch tm.launch).binds.find? fun b => b.1 ≤ va && va < b.1 + b.2.1 with
  | none => since
  | some b => max since (last (some b.2.2))

/-- Drops the copies of a line that a read of a team at an address may not return (R97, R100). -/
def State.freshen (s : State) (core u va line : Nat) : State :=
  let old (s : State) (place : Nat) : Bool := match s.copy place line with
    | some c => c.born < s.needAt place u va
    | none => false
  let d := 192 + (if isDline line then coreDie core else homeDie (64 * line))
  let s := if old s core then s.evict core line 0 0 else s
  if old s d then s.evict d line 0 0 else s

/-! Plain access by a core. -/

/-- n bytes of a line's data from an offset. -/
def sliceOf (data : List Byte) (off n : Nat) : List Byte := (data.drop off).take n
@[inherit_doc sliceOf] def sliceOf2 (data : List Bool) (off n : Nat) : List Bool := (data.drop off).take n

/-- Bytes put into others at an offset. -/
def putAt (data bs : List Byte) (off : Nat) : List Byte := data.take off ++ bs ++ data.drop (off + bs.length)

/-- A line's 64 bytes with bytes put at an offset; the mask of those bytes. -/
def putLine (data bs : List Byte) (off : Nat) : List Byte :=
  (List.range 64).map fun k => if off ≤ k && k < off + bs.length then bs.getD (k - off) 0 else data.getD k 0
@[inherit_doc putLine] def maskAt (off n : Nat) : List Bool := (List.range 64).map fun k => off ≤ k && k < off + n

/-- The line as a core's plain load finds it: its L1 copy, else the home's, which the L1 then holds (R86, R93). None where
the line is poisoned (R358). -/
def State.l1Line (s : State) (core line : Nat) : State × Option (List Byte) :=
  match s.copy core line with
  | some c => (s, some c.data)
  | none =>
    let s := s.cisEvict line
    if s.poison.contains line then (s, none)
    else
      let d := s.homeLine line
      (s.install core line (s.newCopy d), some d)

/-- A plain load of n bytes within one line by a core for a team; a discarded page reads zero (R78); a poisoned line answers
only bytes that the core itself wrote. -/
def State.loadAt (s : State) (core u : Nat) (e : Tlb) (va n : Nat) : State × Option (List Byte) :=
  if s.discarded e then (s, some (List.replicate n 0))
  else
    let pa := e.paOf va
    let s := s.freshen core u va (pline pa)
    let own := match s.copy core (pline pa) with
      | some c => (sliceOf2 c.dirty (pa % 64) n).all id
      | none => false
    if s.poison.contains (pline pa) ∧ !own then (s.cisEvict (pline pa), none)
    else
      match s.l1Line core (pline pa) with
      | (s, some d) => (s, some (sliceOf d (pa % 64) n))
      | (s, none) => (s, none)

/-- A plain store of bytes within one line by a core: performed in its L1 (R202). A line not held there is allocated with
the home's bytes, the Cistern's sums for it added first (R249); the written bytes are marked. -/
def State.storeAt (s : State) (core : Nat) (e : Tlb) (va : Nat) (bs : List Byte) : State :=
  let s := if s.discarded e then s.revive e else s
  let pa := e.paOf va
  let line := pline pa
  match s.copy core line with
  | some c => s.setCopy core line (c.wrote bs (pa % 64) va (coreSlice core))
  | none =>
    let s := s.cisEvict line
    s.install core line ((s.newCopy (s.homeLine line)).wrote bs (pa % 64) va (coreSlice core))

/-- An engine's read of n bytes for a core, from a physical address: the line at its home with the bytes that the core
has written and not written back (the fork edge, R97, R103). None where the line is poisoned. -/
def State.engRead1 (s : State) (core pa : Nat) : State × Option Byte :=
  let line := pline pa
  let s := if s.cisHas line then s.cisEvict line else s
  match s.copy core line with
  | some c =>
    if c.dirty.getD (pa % 64) false then (s, some (c.data.getD (pa % 64) 0))
    else if s.poison.contains line then (s, none) else (s, some ((s.homeLine line).getD (pa % 64) 0))
  | none => if s.poison.contains line then (s, none) else (s, some ((s.homeLine line).getD (pa % 64) 0))

/-- An engine's write of bytes within one line (the Pump rule of R103): the issuing core's written bytes go back first,
its L1 copy is dropped, then the bytes are written at the home slice. -/
def State.engWrite (s : State) (core pa : Nat) (bs : List Byte) : State :=
  let line := pline pa
  let s := (s.evict core line 0 0).cisEvict line
  let off := pa % 64
  s.homeWrite line (putLine (s.homeLine line) bs off) (maskAt off bs.length) [anyVa]

/-! Access of Kettle to a launch's memory. -/

/-- The physical address of a local virtual address in a launch's address space, for a read or a write; the page is
revived by a write (R78). -/
def State.kettleAddr (s : State) (l : Nat) (k : Acc) (va : Nat) : Except Cause (State × Nat × Bool) :=
  let ln := s.launch l
  if isDomain va ∨ !canonical va then .error .access
  else
    match s.walk ln.slice va with
    | .error c => .error c
    | .ok e =>
      match permit e k ln.priv false with
      | some c => .error c
      | none => .ok (if k = .write then (s.revive e, e.paOf va, false) else (s, e.paOf va, s.discarded e))

/-- n bytes within a line at their home slice; none on a poisoned line. -/
def State.homeRead (s : State) (pa n : Nat) : State × Option (List Byte) :=
  let s := s.cisEvict (pline pa)
  if s.poisoned pa then (s, none) else (s, some (sliceOf (s.homeLine (pline pa)) (pa % 64) n))

/-- Bytes within a line written at their home slice. -/
def State.homePut (s : State) (pa : Nat) (bs : List Byte) : State :=
  let s := s.cisEvict (pline pa)
  s.homeWrite (pline pa) (putLine (s.homeLine (pline pa)) bs (pa % 64)) (maskAt (pa % 64) bs.length) [anyVa]

/-- Kettle reads n bytes within one line of a launch's memory. -/
def State.kRead (s : State) (l va n : Nat) : State × Except Cause (List Byte) :=
  match s.kettleAddr l .read va with
  | .error c => (s, .error c)
  | .ok (s, pa, disc) =>
    if disc then (s, .ok (List.replicate n 0))
    else match s.homeRead pa n with
      | (s, some bs) => (s, .ok bs)
      | (s, none) => (s, .error .memUe)

/-- Kettle writes bytes within one line of a launch's memory. -/
def State.kWrite (s : State) (l va : Nat) (bs : List Byte) : Except Cause State :=
  match s.kettleAddr l .write va with
  | .error c => .error c
  | .ok (s, pa, _) => .ok (s.homePut pa bs)

end Sys2Proof.Machine
end

