-- ==== Sys2Proof/Machine/Geometry.lean ====
section
/-!
DEFINITION. Tensor shape-and-stride records (R82), the canonical operand layout and scale plane (R235, R284), and spans
(R220).
-/

namespace Sys2Proof.Machine

/-- The element width in bits of an ESZ code (R82). -/
def elemBits (e : Nat) : Nat := [4, 6, 8, 16, 32, 64, 128, 256].getD e 8

/-- The bytes of n packed elements; sub-byte rows are whole bytes by R82. -/
def packedBytes (e n : Nat) : Nat := (n * elemBits e + 7) / 8

/-- Does a record meet R82? -/
def trecOk (bs : List Byte) (t : Trec) : Bool :=
  let unit := elemBits t.esz / 8
  t.esz < 8 && 1 ≤ t.rank && t.rank ≤ 4 && bytesAt bs 10 2 == 0 && bytesAt bs 28 4 == 0 && bytesAt bs 56 8 == 0
  && t.ext.all (1 ≤ ·) && (t.ext.drop t.rank).all (· == 1)
  && (match t.esz with
    | 0 => t.ext.getD 0 1 % 2 == 0
    | 1 => t.ext.getD 0 1 % 4 == 0
    | _ => t.base % unit == 0 && t.str.all fun x => x % (unit : Int) == 0)

/-- The record in 64 bytes, none where it breaks R82. -/
def parseTrec (bs : List Byte) : Option Trec :=
  let t : Trec :=
    { base := bytesAt bs 0 8, esz := bytesAt bs 8 1, rank := bytesAt bs 9 1,
      ext := (List.range 4).map fun k => bytesAt bs (12 + 4 * k) 4,
      str := (List.range 3).map fun k => sext (bytesAt bs (32 + 8 * k) 8) 64 }
  if trecOk bs t then some t else none

/-- Extent and stride of a dimension. -/
def Trec.e (t : Trec) (k : Nat) : Nat := t.ext.getD k 1
@[inherit_doc Trec.e] def Trec.s (t : Trec) (k : Nat) : Int := t.str.getD (k - 1) 0

/-- The number of elements. -/
def Trec.count (t : Trec) : Nat := t.e 0 * t.e 1 * t.e 2 * t.e 3

/-- The index of the n-th element in TREC order. -/
def Trec.ix (t : Trec) (n : Nat) : Nat × Nat × Nat × Nat :=
  (n % t.e 0, n / t.e 0 % t.e 1, n / (t.e 0 * t.e 1) % t.e 2, n / (t.e 0 * t.e 1 * t.e 2))

/-- The bit position of an element, counted from bit 0 of byte 0 (R82, R111). -/
def Trec.bitPos (t : Trec) (i : Nat × Nat × Nat × Nat) : Int :=
  8 * ((t.base : Int) + i.2.1 * t.s 1 + i.2.2.1 * t.s 2 + i.2.2.2 * t.s 3) + i.1 * elemBits t.esz

/-- The offset of byte c of row r of a canonical operand (R235). -/
def canonOff (r c : Nat) : Nat := 512 * (r / 8 * 6 + c / 64) + 64 * (r % 8) + c % 64

/-- The bit position of destination element i under a LAYOUT (R284). -/
def layoutPos (layout : Nat) (t : Trec) (i : Nat × Nat × Nat × Nat) : Int :=
  if layout = 1 then
    let b := i.1 * elemBits t.esz
    8 * ((t.base : Int) + canonOff i.2.1 (b / 8)) + b % 8
  else if layout = 2 then 8 * ((t.base : Int) + 24 * i.2.1 + i.1)
  else t.bitPos i

/-- The span of a record under a LAYOUT: its lowest byte and the byte after its highest (R220). -/
def trecSpan (layout : Nat) (t : Trec) : Int × Int :=
  let row := packedBytes t.esz (t.e 0)
  if layout = 1 then
    let top := (List.range (t.e 1)).foldl (fun m r => max m (canonOff r (row - 1))) 0
    (t.base, t.base + top + 1)
  else if layout = 2 then (t.base, t.base + 24 * (t.e 1 - 1 : Nat) + t.e 0)
  else
    let d (k : Nat) : Int := (t.e k - 1 : Nat) * t.s k
    let lo := min 0 (d 1) + min 0 (d 2) + min 0 (d 3)
    let hi := max 0 (d 1) + max 0 (d 2) + max 0 (d 3)
    (t.base + lo, t.base + hi + row)

/-- The bytes of an operand and of a scale plane (R234). -/
def operandBytes : Nat := 24576
@[inherit_doc operandBytes] def scaleBytes : Nat := 1536

/-- Does an operand format use a scale plane (R233)? -/
def scaled (fmt : Nat) : Bool := 12 ≤ fmt

/-- The element width of an output format code 0 to 11 as ACCVT writes it (R110, R238). -/
def outBits (fmt : Nat) : Nat := [32, 32, 16, 16, 8, 8, 6, 6, 8, 8, 4, 4].getD fmt 32

/-- One past the highest scratchpad byte of a matrix operation (R187). -/
def mopEnd (k : MOpK) : Nat :=
  match k with
  | .mma _ fmt a b sa sb =>
    let ea := if scaled (fmt % 16) then sa + scaleBytes else 0
    let eb := if scaled (fmt / 16 % 16) then sb + scaleBytes else 0
    max (max (a + operandBytes) (b + operandBytes)) (max ea eb)
  | .acld off _ => off + 16384
  | .acst off _ => off + 16384
  | .acz => 0
  | .accvt off fmt => off + 512 * outBits (fmt / 4096 % 16)

/-- One past the highest scratchpad byte of a copy's records. -/
def copyEnd (c : Copy) : Int :=
  let layout := match c.kind with
    | .plain _ l => l
    | .scatter l _ => l
    | .gather l _ => l
  max (if c.dscr then (trecSpan layout c.dst).2 else 0) (if c.skind = 1 then (trecSpan 0 c.src).2 else 0)

end Sys2Proof.Machine
end

