-- ==== Sys2Proof/Machine/Threads.lean ====
section
/-!
DEFINITION. Threads between issues: fragments and meetings (R33 to R35), barriers and carve-outs (R44, R184, R187), and
the end of a thread (R182).
-/

namespace Sys2Proof.Machine

/-! Fragments. -/

/-- The threads of gang g of a team of n threads. -/
def gangThreads (n g : Nat) : List Nat := (List.range 32).filterMap fun l => if 32 * g + l < n then some (32 * g + l) else none

/-- The threads of gang g of team u that have not exited. -/
def State.liveGang (s : State) (u g : Nat) : List Nat := (gangThreads (s.team u).n g).filter fun t => !(s.thr u t).exited

/-- The gangs of a team. -/
def Team.gangs (tm : Team) : Nat := (tm.n + 31) / 32

/-- The threads of team u that have not exited. -/
def State.liveThreads (s : State) (u : Nat) : List Nat := (List.range (s.team u).n).filter fun t => !(s.thr u t).exited

/-- Names every fragment of a gang by its lowest lane. -/
def State.renumber (s : State) (u g : Nat) : State :=
  let ts := s.liveGang u g
  ts.foldl (fun s' t =>
    let low := (ts.filter fun t' => (s.thr u t').frag == (s.thr u t).frag).headD t
    s'.setThr u t { s'.thr u t with frag := low % 32 }) s

/-- The threads that stand in one fragment with a released thread after a release: those released at its position, and theirs that
were not released but have not left their side (R33, R34). -/
def State.reformed (s : State) (u g : Nat) (ts : List Nat) (t : Nat) : List Nat :=
  let same := ts.filter fun t' => (s.thr u t').pos == (s.thr u t).pos
  (s.liveGang u g).filter fun t' => (s.thr u t').pos == (s.thr u t).pos && same.any fun r =>
    (s.thr u r).frag == (s.thr u t').frag && (s.thr u r).handler == (s.thr u t').handler

/-- Re-forms fragments among released threads of one gang: those at one position form one fragment, whose age is the greatest of
its parts (R34). -/
def State.regroup (s : State) (u g : Nat) (ts : List Nat) : State :=
  let all := (s.liveGang u g).filter fun t => ts.any fun r => (s.reformed u g ts r).contains t
  let s1 := all.foldl (fun s' t =>
    let same := match ts.find? fun r => (s.reformed u g ts r).contains t with
      | some r => s.reformed u g ts r
      | none => [t]
    let st := same.foldl (fun m t' => min m (s.thr u t').stamp) (s.thr u t).stamp
    s'.setThr u t { s'.thr u t with frag := 100 + same.headD t % 32, stamp := st }) s
  s1.renumber u g

/-- The fragment a thread belongs to after an issue or a fault: threads of one fragment split where their positions differ (R33);
`out` are the issued threads that leave the ones that did not issue. Fragments are named by their lowest lane. -/
def State.splitGang (s : State) (u g : Nat) (out : List Nat) : State :=
  let ts := s.liveGang u g
  let key (t : Nat) : Bool × Nat × Nat × Bool :=
    let th := s.thr u t
    (out.contains t, th.frag, th.pos, th.handler)
  ts.foldl (fun s' t => s'.setThr u t { s'.thr u t with frag := (ts.filter fun t' => key t' == key t).headD t % 32 }) s

/-! Meetings (R35). -/

/-- Tests the meeting at address m of a gang: when every sibling is held there, all are released as one fragment. -/
def State.retestMeet (s : State) (u g m : Nat) : State :=
  let sib := (s.liveGang u g).filter fun t => (s.thr u t).meet == m
  if m ≠ 0 ∧ sib ≠ [] ∧ sib.all (fun t => (s.thr u t).wait == .held) then
    (sib.foldl (fun s t => s.setThr u t { s.thr u t with wait := .none }) s).regroup u g sib
  else s

/-- Tests every meeting of a gang. -/
def State.retestGang (s : State) (u g : Nat) : State :=
  ((s.liveGang u g).map fun t => (s.thr u t).meet).eraseDups.foldl (fun s m => s.retestMeet u g m) s

/-- The macro that a thread runs at its position, in or outside handler mode (R194). -/
def Thread.running (th : Thread) : Option MacroRun :=
  match if th.handler then th.hrun else th.mrun with
  | some r => if r.at_ = th.pos then some r else none
  | none => none

/-- The threads of a list that no wait keeps. -/
def State.free (s : State) (u : Nat) (ts : List Nat) : List Nat :=
  ts.filter fun t => (s.thr u t).wait == .none && (s.thr u t).mwait == .none

/-- Threads whose wait has ended go to their next positions, but for those that another wait keeps; a thread inside a macro
stays at its MCALL. -/
def State.moveOn (s : State) (u : Nat) (ts : List Nat) : State :=
  (s.free u ts).foldl (fun s t => if (s.thr u t).running.isSome then s else s.arriveAt u t (s.thr u t).next) s

/-- The end of a wait that is no barrier's: threads go on, each in its own fragment, and meetings are tested (R34). -/
def State.letGo (s : State) (u : Nat) (ts : List Nat) : State :=
  ((s.free u ts).map (· / 32)).eraseDups.foldl (fun s g => s.retestGang u g) (s.moveOn u ts)

/-- The threads of the fragment of thread t. -/
def State.fragOf (s : State) (u t : Nat) : List Nat :=
  (s.liveGang u (t / 32)).filter fun t' => (s.thr u t').frag == (s.thr u t).frag

/-- The fragment of thread t goes on when each of its threads has ended its wait for its memory operations. -/
def State.testWait (s : State) (u t : Nat) : State :=
  let fs := s.fragOf u t
  if fs ≠ [] ∧ fs.all (fun t' => (s.thr u t').mwait == .done) then
    (fs.foldl (fun s t' => s.setThr u t' { s.thr u t' with mwait := .none }) s).letGo u fs
  else s

/-- A barrier release: threads go on, and those of a gang that stand at one position form one fragment (R34). -/
def State.release (s : State) (u : Nat) (ts : List Nat) : State :=
  let now := s.free u ts
  (now.map (· / 32)).eraseDups.foldl (fun s g => (s.regroup u g (now.filter (· / 32 == g))).retestGang u g) (s.moveOn u ts)

/-! Carve-outs (R43, R44). -/

/-- Granules of 64 KiB that a team's registers take (R43). -/
def reggOf (n nreg : Nat) : Nat := (32 * ((n + 31) / 32) * nreg * 4 + 65535) / 65536

/-- The teams on a core. -/
def State.teamsOn (s : State) (c : Nat) : List Team := (s.teams.map (·.2)).filter fun tm => tm.live && tm.core == c

/-- Do the granules of teams fit a core (R43)? -/
def granulesFit (ts : List Team) : Bool :=
  (ts.map fun t => t.regg + t.scrg).sum + max 2 (ts.map fun t => t.l1g).sum ≤ 24

/-- Is a carve-out change granted (R44): a shrink always is; a growth if the granules are free at the release. -/
def State.carveOk (s : State) (u scrg l1g : Nat) : Bool :=
  let tm := s.team u
  (scrg ≤ tm.scrg && l1g ≤ tm.l1g)
  || granulesFit ({ tm with scrg := scrg, l1g := l1g }
      :: ((s.teams.filter fun e => e.1 != u && e.2.live && e.2.core == tm.core).map (·.2)))

/-- One past the highest scratchpad byte that the engine operations of a team still reach (R187). -/
def State.spanEnd (s : State) (u : Nat) : Int :=
  let cs := ((s.team u).chans.map fun e => e.2.queue).flatten
  let m1 := cs.foldl (fun m c => max m (copyEnd c)) 0
  (s.mops.filter (·.uid == u)).foldl (fun m o => max m (mopEnd o.kind : Int)) m1

/-- The carve-out changed; bytes beyond the new scratchpad are lost, and lines leave an L1 that shrinks. -/
def State.applyCarve (s : State) (u scrg l1g : Nat) : State :=
  let tm := s.team u
  let size := scrg * 65536
  let s := { s with scratch := NMap.drop (fun k => k / 2 ^ 20 == u && size ≤ k % 2 ^ 20) s.scratch }
  (s.setTeam u { tm with scrg := scrg, l1g := l1g, scr := size }).trimL1 tm.core

/-! Barriers (R184 to R187). -/

/-- Barrier b of team u. -/
def State.bar (s : State) (u b : Nat) : Bar := NMap.get {} (s.team u).bars b

/-- Replaces barrier b of team u. -/
def State.setBar (s : State) (u b : Nat) (x : Bar) : State :=
  let tm := s.team u
  s.setTeam u { tm with bars := NMap.put tm.bars b x }

/-- What a wait that a fault interrupted becomes when barrier b completes a phase with a barrier word. -/
def Back.depart (b : Nat) (word : Word) (k : Back) : Back :=
  match k.wait with
  | .barrier b' d => if b' = b then { k with wait := .departed d word } else k
  | _ => k

/-- A thread that a fault keeps from the barrier it waits at departs when the fault is over. -/
def State.departLate (s : State) (u t b : Nat) (word : Word) : State :=
  let th := s.thr u t
  if th.back.isSome || th.hback.isSome then
    s.setThr u t { th with back := th.back.map (Back.depart b word), hback := th.hback.map (Back.depart b word) }
  else s

/-- Completes a phase of barrier b: the carve-out request is decided, the waiters receive the barrier word and depart, the
counter advances (R184, R187). -/
def State.completePhase (s : State) (u b : Nat) : State :=
  let br := s.bar u b
  let granted := match br.carve with
    | some (scrg, l1g) => !br.carveBad && s.carveOk u scrg l1g
    | none => true
  let s := match br.carve with
    | some (scrg, l1g) => if granted then s.applyCarve u scrg l1g else s
    | none => s
  let word := toW (br.phase + (if granted then 0 else 2 ^ 30) + (if br.error then 2 ^ 31 else 0))
  let s := s.setBar u b { phase := (br.phase + 1) % 65536, has := true, last := word }
  let waiters := (s.liveThreads u).filterMap fun t =>
    match (s.thr u t).wait with
    | .barrier b' d => if b' = b then some (t, d) else none
    | _ => none
  let s := (s.liveThreads u).foldl (fun s t => s.departLate u t b word) s
  let s := waiters.foldl (fun s (t, d) =>
    (s.putV u t d word).setThr u t { s.thr u t with wait := .none }) s
  s.release u (waiters.map (·.1))

/-- Tests barrier b: its phase completes when every thread that has not exited and every bound copy has arrived; a shrink of the
scratchpad waits for the engine operations that reach beyond the new size. -/
def State.retestBar (s : State) (u b : Nat) : State :=
  let br := s.bar u b
  let live := s.liveThreads u
  if br.arrived ≠ [] ∧ live.all (br.arrived.contains ·) ∧ br.copies = 0 then
    match br.carve with
    | some (scrg, l1g) =>
      if !br.carveBad && s.carveOk u scrg l1g && scrg * 65536 < (s.team u).scr && (scrg * 65536 : Int) < s.spanEnd u then s
      else s.completePhase u b
    | none => s.completePhase u b
  else s

/-- Tests every barrier of a team. -/
def State.retestBars (s : State) (u : Nat) : State := (List.range 16).foldl (fun s b => s.retestBar u b) s

/-- A thread arrives at barrier b. -/
def State.arriveBar (s : State) (u t b : Nat) : State :=
  let br := s.bar u b
  s.setBar u b { br with arrived := br.arrived ++ [t] }

/-- A thread waits at its group for a barrier or PHASE, to continue after the group. -/
def State.waitFor (s : State) (u t next : Nat) (w : Wait) : State :=
  s.setThr u t { s.thr u t with wait := w, next := next }

/-- A thread waits at its group for its memory operations. -/
def State.mwaitFor (s : State) (u t next : Nat) (w : Wait) : State :=
  s.setThr u t { s.thr u t with mwait := w, next := next }

/-- Has every fragment of a team stopped: no thread in handler mode but one that faulted there, none in the middle of a packet that
can still go on, none waiting for its memory operations (R65, R349)? -/
def State.issueStopped (s : State) (u : Nat) : Bool :=
  (s.liveThreads u).all fun t =>
    let th := s.thr u t
    th.wait == .faulted || (!th.handler && th.mwait == .none && (th.wait != .none || th.pos % 4 == 0))

/-- Has Kettle stopped the issue of a team, whose copies and traversals then stand where they are (R65)? A team that stays stopped on its
core has fault entries to be answered (R69). -/
def State.halted (s : State) (u : Nat) : Bool := !(s.team u).open_.isEmpty || ((s.team u).stop.isSome && s.issueStopped u)

/-! The end of a thread (R182). -/

/-- Threads end: their meetings and the team's barriers are tested again. -/
def State.exitThreads (s : State) (u : Nat) (ts : List Nat) : State :=
  let gone (th : Thread) : Thread :=
    { th with
      exited := true, wait := .none, mwait := .none, back := none, hback := none, mrun := none, hrun := none, trav := th.trav.filter (·.fault.isNone),
      trw := [] }
  let s := ts.foldl (fun s t => s.setThr u t (gone (s.thr u t))) s
  let s := (ts.map (· / 32)).eraseDups.foldl (fun s g => (s.renumber u g).retestGang u g) s
  s.retestBars u

/-! Results of traversals (R254, R331). -/

/-- The words that TRRES reads. -/
def TravRes.words (r : TravRes) (sel : Bool) : List Word :=
  if sel then [r.u, r.v, r.geom, 0] else [r.t, r.prim, r.instIx, r.status]

/-- A thread's traversal is over with a result: the TRRES reads that wait are filled. -/
def State.endTrav (s : State) (u t : Nat) (r : TravRes) : State :=
  let th := s.thr u t
  let s := s.setThr u t { th with trav := none, tres := r, trw := [] }
  th.trw.foldl (fun s (d, sel) => s.fillRegs u t (((List.range 4).map (d + ·)).zip (r.words sel))) s

/-- A traversal whose fault has been reported: one that ended at a malformed node gives the miss values, a suspended one
continues (R331). -/
def State.replayTrav (s : State) (u t : Nat) : State :=
  let th := s.thr u t
  match th.trav with
  | some v =>
    match v.fault with
    | some (.illegalField, _) => s.endTrav u t {}
    | some _ => s.setThr u t { th with trav := some { v with fault := none, told := false } }
    | none => s
  | none => s

/-- Drops the node-cache lines of a team (R335). -/
def State.dropNodes (s : State) (u : Nat) : State := { s with nodeCache := s.nodeCache.filter fun n => n.uid != u }

end Sys2Proof.Machine
end

