-- ==== Sys2Proof/Machine/Perform.lean ====
section
/-!
DEFINITION. Operations performed at a place after their issue: atomics (R207), AMAX (R172), SC operations (R104, R209),
ACQ and the increment of REL (R100), at the place of their scope (R93, R366); and late fills of registers (R135).
-/

namespace Sys2Proof.Machine

/-- The new value of an atomic (R207); types 0 n32, 1 i32, 2 n64, 3 i64, 4 f32. -/
def atomNew (op : AtomOp) (ty x cmp old : Nat) : Nat :=
  let w := if ty = 2 ∨ ty = 3 then 64 else 32
  let signed := ty = 1 ∨ ty = 3
  match op with
  | .add => if ty = 4 then fAdd f32 0 false old x else (old + x) % 2 ^ w
  | .min =>
    if ty = 4 then fMinMax f32 false false old x
    else if signed then (if sext x w < sext old w then x else old) else min old x
  | .max =>
    if ty = 4 then fMinMax f32 true false old x
    else if signed then (if sext old w < sext x w then x else old) else max old x
  | .and => old &&& x
  | .or => old ||| x
  | .xor => old ^^^ x
  | .xchg => x
  | .cas => if old = cmp then x else old

/-- What an operation writes; none for a read. -/
def OpK.new (k : OpK) (x cmp old : Nat) : Option Nat :=
  match k with
  | .atom op ty => some (atomNew op ty x cmp old)
  | .amax => some 0
  | .read => none
  | .write => some x
  | .rel => some ((old + 1) % 2 ^ 64)
  | .half => some x

/-- Does an operation write? Does it only store, so that it never reads its line? -/
def OpK.writes (k : OpK) : Bool := k != .read
@[inherit_doc OpK.writes] def OpK.stores (k : OpK) : Bool := k == .write || k == .half

/-- After a fault of some threads of a gang, found after issue: the fragments split, and a wait that only those threads kept
ends. -/
def State.afterFault (s : State) (u g : Nat) : State :=
  let s := s.splitGang u g []
  (s.liveGang u g).foldl (fun s t => s.testWait u t) s

/-- An uncorrectable error, or another fault found after issue, of a thread (R353, R358). -/
def State.lateFault (s : State) (u t : Nat) (c : Cause) (addr : Nat) (write : Bool) : State :=
  let th := s.thr u t
  let d := detailOf { cause := c, lane := t % 32, addr := addr, write := write } 0 0 th.handler true
  if !(s.team u).live then s
  else if th.exited then s.stopFor u ⟨d, BitVec.ofNat 64 addr, th.pos, t % 32⟩ (if 16 ≤ c.code then 4 else 3)
  else (s.route u [t] c th.resumePos th.pos d (BitVec.ofNat 64 addr)).afterFault u (t / 32)

/-- The SC timestamp of an operation at a place and line (R104): core clock and line timestamp become it. -/
def State.scTime (s : State) (core key : Nat) : State :=
  let t := max (NMap.get 0 s.clocks core) (NMap.get 0 s.stamps key) + 1
  { s with clocks := NMap.put s.clocks core t, stamps := NMap.put s.stamps key t }

/-- An operation at the home slice of a physical address, or at the memory itself for scope node and wider (R93). The old
value; none where it reads a poisoned line (R358). `va` is the address as written. -/
def State.performHome (s : State) (k : OpK) (pa va size x cmp scope : Nat) : State × Option Nat :=
  let line := pline pa
  let s := s.cisEvict line
  let mem := 8 ≤ scope ∧ farLine line
  let s := if mem then s.evict (192 + homeDie pa) line 0 0 else s
  if s.poison.contains line ∧ !k.stores then (s, none)
  else
    let data := s.homeLine line
    let old := bytesAt data (pa % 64) size
    match k.new x cmp old with
    | none => (s, some old)
    | some n =>
      let d := putLine data (toBytes size n) (pa % 64)
      let m := maskAt (pa % 64) size
      (if mem then s.memLine line d m else s.homeWrite line d m [va / 64], some old)

/-- The name under which a completion word at a domain-global address is known: within this package's own window its physical
address (R73, R324). -/
def State.nameOf (s : State) (va : Nat) : Nat :=
  if domPkg va = s.pkg then
    match s.walk (s.lead (bits (domOff va) 52 50)) (domOff va % 2 ^ 50) with
    | .ok e => e.paOf (domOff va % 2 ^ 50)
    | .error _ => va
  else va

/-- A thread of a core that reads a completion word at the scope named at issue or wider observes it (R103): no read of the
core then returns a copy that was filled before. -/
def State.observe (s : State) (core pa n scope : Nat) : State :=
  if s.cwords.any fun w => pa < w.1 + 8 && w.1 < pa + n && w.2 ≤ scope then s.refresh core 7 0 0 else s

/-- An operation on a local address at the place of its scope (R93): a discarded page reads zero and is revived by a
write (R78). -/
def State.performLocal (s : State) (core uid t : Nat) (k : OpK) (e : Tlb) (va size x cmp scope : Nat) : State × Option Nat :=
  let pa := e.paOf va
  let s := if k.writes ∧ s.discarded e then s.revive e else s
  let s := if k.stores then s else s.observe core pa size scope
  if scope < 5 then
    if k.stores then (s.storeAt core e va (toBytes size x), some 0)
    else
      match s.loadAt core uid e va size with
      | (s, none) => (s, none)
      | (s, some bs) =>
        let old := ofBytes bs
        match k.new x cmp old with
        | none => (s, some old)
        | some n => (s.storeAt core e va (toBytes size n), some old)
  else
    let s := s.evict core (pline pa) uid t
    if s.discarded e then (s, some 0) else s.performHome k pa va size x cmp scope

/-- The place and line key of an SC timestamp for a local address. -/
def scKey (core pa scope : Nat) : Nat :=
  if scope < 5 then ckey core (pline pa)
  else if 8 ≤ scope ∧ farLine (pline pa) then ckey 194 (pline pa)
  else ckey (192 + homeDie pa) (pline pa)

/-- Words of a value for result registers. -/
def regVals (rs : List Nat) (v : Nat) : List (Nat × Word) := rs.zip (toWords rs.length v)

/-- The place of a pending operation on a domain-global address at a scope narrower than package (R366). -/
def Pend.place (p : Pend) : Nat := if p.scope < 5 then p.core else 192 + coreDie p.core

/-- The nearest copy of a domain-global line that serves a core: its L1's, then its die's (R366). -/
def State.domCopy (s : State) (core va : Nat) : Option (Nat × LineCopy) :=
  match s.copy core (dline va) with
  | some c => some (core, c)
  | none =>
    match s.copy (192 + coreDie core) (dline va) with
    | some c => some (192 + coreDie core, c)
    | none => none

/-- A held copy of a domain-global line has served a core: a fill of the line on its way to the other place that serves the core is
older, and is fetched anew (R96). -/
def State.overtook (s : State) (core va : Nat) : State := s.refetch (dline va) fun q => q == core || q == 192 + coreDie core

/-- A store of a number's low n bytes by a thread to a domain-global address: in the nearest copy that serves it, else sent to the owner
(R106). -/
def State.storeDom (s : State) (u t core slice va n x : Nat) : State :=
  match s.domCopy core va with
  | some (p, c) => (s.setCopy p (dline va) (c.wrote (toBytes n x) (va % 64) va slice)).overtook core va
  | none => s.sendReq slice u t (domPkg va) (plainReq .write (domOff va) n (x % 2 ^ (8 * n))) .flags

/-- The copies that serve a thread before a pending operation of it on a domain-global line: a copy too old for it goes, and an
operation at the die cache takes the line from the thread's L1, so that its later reads find it (R96, R100). -/
def State.ready (s : State) (p : Pend) : State :=
  if p.tr.isSome ∨ p.kind = .half then s
  else if p.scope < 5 then s.freshen p.core p.uid p.va (dline p.va) else s.evict p.core (dline p.va) p.uid p.t

/-- Must a pending operation wait for its line, of which the place holds no copy (R366)? -/
def State.blocked (s : State) (p : Pend) : Bool := p.tr.isNone && p.kind != .half && (s.copy p.place (dline p.va)).isNone

/-- The place of a pending operation fetches its line from the owner, unless the line is on its way (R366). What nearer or
other copies that serve the thread hold written goes to the owner before it (R96). -/
def State.fetchLine (s : State) (p : Pend) : State :=
  let line := dline p.va
  if s.remote.any fun r => r.act == .fill p.place line then s
  else
    let s := s.giveUp p.core p.va p.uid p.t
    s.sendReq p.slice p.uid p.t (domPkg p.va) (plainReq .fill (domOff p.va / 64 * 64) 64 0) (.fill p.place line)

/-- An operation on a held copy of a domain-global line at its place (R366); one that reads a completion word observes it (R103). -/
def State.performCopy (s : State) (p : Pend) (c : LineCopy) : State :=
  let place := p.place
  let off := p.va % 64
  let old := bytesAt c.data off p.size
  let s := if p.sc then s.scTime p.core (ckey place (dline p.va)) else s
  let s := match p.kind.new p.x p.cmp old with
    | none => s
    | some n => s.setCopy place (dline p.va) (c.wrote (toBytes p.size n) off p.va p.slice)
  let s := (s.overtook p.core p.va).fillRegs p.uid p.t (regVals p.regs old)
  if p.kind.stores then s else s.observe p.core (s.nameOf p.va) p.size p.scope

/-- Performs a pending operation. On a domain-global address at a scope narrower than package it works on the copy of the
L1 or the die cache, which holds it (R366); the second half of a store goes the way of a store (R94). -/
def State.perform (s : State) (p : Pend) : State :=
  let s := if p.acq then s.acquired p.core p.scope (some p.va) else s
  match p.tr with
  | some e =>
    let s := if p.sc then s.scTime p.core (scKey p.core (e.paOf p.va) p.scope) else s
    match s.performLocal p.core p.uid p.t p.kind e p.va p.size p.x p.cmp p.scope with
    | (s, some old) => s.fillRegs p.uid p.t (regVals p.regs old)
    | (s, none) => s.lateFault p.uid p.t .memUe p.va p.kind.writes
  | none =>
    if p.kind = .half then s.storeDom p.uid p.t p.core p.slice p.va p.size p.x
    else
      match s.copy p.place (dline p.va) with
      | some c => s.performCopy p c
      | none => s

/-- Performs pending operations in order, up to the first whose line has still to be fetched; gives those that stay. -/
def State.performRun (s : State) : List Pend → State × List Pend
  | [] => (s, [])
  | p :: ps =>
    let s := s.ready p
    if s.blocked p then (s.fetchLine p, p :: ps) else (s.perform p).performRun ps

/-- Does a pending operation belong to a gang? Is it an SC operation or an ACQ? -/
def Pend.ofGang (u g : Nat) (p : Pend) : Bool := p.uid == u && p.t / 32 == g
@[inherit_doc Pend.ofGang] def Pend.ordered (p : Pend) : Bool := p.sc || p.acq

/-- Performs pending operations of one gang, which have been taken out of their lists; those that stay go back first. -/
def State.performBack (s : State) (ps : List Pend) : State :=
  let (s, left) := s.performRun ps
  { s with atoms := left.filter (fun p => !p.ordered) ++ s.atoms, scops := left.filter Pend.ordered ++ s.scops }

/-- Performs the atomics pending at list position k or before for the gang of the k-th, in their order (R207). -/
def State.performAtoms (s : State) (k : Nat) : State :=
  match s.atoms[k]? with
  | none => s
  | some p =>
    let mine := Pend.ofGang p.uid (p.t / 32)
    let now := (s.atoms.take (k + 1)).filter mine
    let rest := (s.atoms.take (k + 1)).filter (fun q => !mine q) ++ s.atoms.drop (k + 1)
    State.performBack { s with atoms := rest } now

/-- The same for pending SC operations and ACQs. -/
def State.performScops (s : State) (k : Nat) : State :=
  match s.scops[k]? with
  | none => s
  | some p =>
    let mine := Pend.ofGang p.uid (p.t / 32)
    let now := (s.scops.take (k + 1)).filter mine
    let rest := (s.scops.take (k + 1)).filter (fun q => !mine q) ++ s.scops.drop (k + 1)
    State.performBack { s with scops := rest } now

/-- Does a gang wait for a line that a pending operation of it works on (R366)? -/
def State.awaitsLine (s : State) (u g : Nat) : Bool :=
  (s.atoms ++ s.scops).any fun p => p.ofGang u g && (s.ready p).blocked p

/-! Additions to the Cistern (R249). -/

/-- Lines that a bank of a die holds: 1/32 of the carve, in lines of 64 bytes (R89). -/
def State.cisCap (s : State) (die : Nat) : Nat := s.sysr 0x10 die % 64 * 1024

/-- x added to word i of a line. -/
def cisAddWord (ws : List (Option Word)) (i : Nat) (x : Word) : List (Option Word) :=
  ws.set i (some (match ws.getD i none with
    | none => x
    | some w => toW (fAdd f32 0 false w.toNat x.toNat)))

/-- One addition at its bank, after which the adding core's L1 holds no older copy (R96): merged, or allocated after the oldest line of a full bank is evicted; with CISTERN = 0 it is
applied at once. -/
def State.cisArrive (s : State) (a : CisAdd) : State :=
  let line := pline a.pa
  let s := s.evict (s.team a.uid).core line 0 0
  let i := a.pa % 64 / 4
  let who := tkey a.uid a.t
  if s.cisHas line then
    { s with cistern := s.cistern.map fun (c : CisLine) =>
        if c.line = line then { c with words := cisAddWord c.words i a.x, by_ := who :: c.by_.erase who } else c }
  else
    let home := homeOf a.pa
    let cap := s.cisCap (home / 32)
    let full := cap ≤ s.cistern.countP fun c => c.home == home
    let s := match s.cistern.find? fun c => c.home == home with
      | some c => if full then s.cisEvict c.line else s
      | none => s
    let s := { s with cistern := s.cistern ++ [CisLine.mk home line (cisAddWord (List.replicate 16 none) i a.x) [who]] }
    if cap = 0 then s.cisEvict line else s

/-- The line that an access works on: of its physical address, or of its domain-global one. -/
def lineOf (tr : Option Tlb) (va : Nat) : Nat := match tr with | some e => pline (e.paOf va) | none => dline va

/-- May an access to one of some lines meet a line? A domain-global line may be another name of a local one. -/
def meets (ls : List Nat) (line : Nat) : Bool := ls.any fun l => l == line || isDline l != isDline line

/-- Performs the pending operations of a gang on the lines that `hit` selects before a later operation of it, and every SC operation
and ACQ, so that program order holds; the values that its plain loads of such lines will return are settled (R96, R99, log 17). The
additions to the Cistern go first: the order is the model's. -/
def State.drainHit (s : State) (u g : Nat) (hit : Nat → Bool) : State :=
  let add (q : CisAdd) : Bool := q.uid == u && q.t / 32 == g && hit (pline q.pa)
  let now := s.cisAdds.filter add
  let s := now.foldl State.cisArrive { s with cisAdds := s.cisAdds.filter (fun q => !add q) }
  let mine (p : Pend) : Bool := p.ofGang u g && (p.ordered || hit (lineOf p.tr p.va))
  let a := s.atoms.filter mine
  let b := s.scops.filter mine
  let load (f : Fill) : Bool := (f.uid == u && (if f.uni then f.t == g else f.t / 32 == g))
    && match f.src with | some l => hit (lineOf l.tr l.va) | none => false
  let s := { s with
    atoms := s.atoms.filter (fun q => !mine q), scops := s.scops.filter (fun q => !mine q),
    loads := s.loads.map fun (f : Fill) => if load f then { f with src := none } else f }
  s.performBack (a ++ b)

/-- Performs every pending operation of a gang before an edge of R97 leaves it, and settles all its loads. -/
def State.drainGang (s : State) (u g : Nat) : State := s.drainHit u g fun _ => true

/-- Drains the gang that issues: all it has pending, or what an access of checked lanes meets. -/
def State.drain (s : State) : State := s.drainGang s.iss.uid s.iss.gang
@[inherit_doc State.drain] def State.drainFor (s : State) (l : List (Nat × Nat × Option Tlb)) : State :=
  s.drainHit s.iss.uid s.iss.gang (meets (l.map fun x => lineOf x.2.2 x.2.1))

/-! Late fills. -/

/-- Fills what a list entry says: vector registers of a thread, or uniform registers of a gang, whose pending mark goes. -/
def State.fill (s : State) (f : Fill) : State :=
  if f.uni then
    f.vals.foldl (fun s (r, x) =>
      let s := s.putU f.uid f.t r x
      { s with upend := NMap.put s.upend (ukey f.uid f.t r) false }) s
  else s.fillRegs f.uid f.t f.vals

/-- The bytes that a plain load of a thread finds now (R93, R106); none where its line is poisoned, or where it would have to
ask the owner. -/
def State.readNow (s : State) (u core va : Nat) (tr : Option Tlb) (n : Nat) : State × Option (List Byte) :=
  match tr with
  | some e => s.loadAt core u e va n
  | none =>
    let s := s.freshen core u va (dline va)
    match s.domCopy core va with
    | some (_, c) => (s.overtook core va, some (sliceOf c.data (va % 64) n))
    | none => (s, none)

/-- LD's access size and register count by its minor (R201); 9 is ACQ's read. -/
def ldSize (minor : Nat) : Nat := [1, 1, 2, 2, 4, 8, 16, 4, 4, 8].getD minor 4
@[inherit_doc ldSize] def ldRegs (minor : Nat) : Nat := [1, 1, 1, 1, 1, 2, 4, 1, 1, 2].getD minor 1

/-- The value of each destination register (R201). -/
def ldVals (minor t v : Nat) : List (Nat × Word) :=
  if minor = 1 then [(t, ofInt (sext v 8))]
  else if minor = 3 then [(t, ofInt (sext v 16))]
  else (List.range (ldRegs minor)).map fun k => (t + k, toW (v / 2 ^ (32 * k)))

/-- The bytes of a load on its way as a look at memory finds them: of each naturally aligned 8-byte part those that it has or those that
stand there now, as the free choice of this step picks (R94, R99, log 17). -/
def State.sampled (s : State) (k u : Nat) (l : LateLoad) : State × List Byte :=
  let n := l.bytes.length
  let parts := (List.range ((n + 7) / 8)).map fun i => (8 * i, min 8 (n - 8 * i))
  parts.foldl (fun (acc : State × List Byte) (off, len) =>
    let was := sliceOf l.bytes off len
    if Config.freeChoice ((s.tick * 2 ^ 32 + k) * 4 + off / 8) % 2 = 0 then (acc.1, acc.2 ++ was)
    else
      match acc.1.readNow u l.core (l.va + off) l.tr len with
      | (s, some bs) => (s, acc.2 ++ bs)
      | (_, none) => (acc.1, acc.2 ++ was)) (s, [])

/-- The registers of an arriving load with the bytes that it returns (R94, R99). -/
def State.arriving (s : State) (k : Nat) (f : Fill) : State × List (Nat × Word) :=
  match f.src with
  | none => (s, f.vals)
  | some l =>
    let r := s.sampled k f.uid l
    (r.1, ldVals l.minor l.reg (ofBytes r.2))

/-- The k-th load on its way looks at memory before it arrives: the model's own move (log 17). -/
def State.sampleLoad (s : State) (k : Nat) : State :=
  match s.loads[k]? with
  | none => s
  | some f =>
    match f.src with
    | none => s
    | some l =>
      let r := s.sampled k f.uid l
      { r.1 with loads := s.loads.set k { f with
        vals := ldVals l.minor l.reg (ofBytes r.2), src := some { l with bytes := r.2 } } }

/-- EVENT LOAD_FILL (R135, R201): the k-th load's bytes arrive. -/
def execLoadFill (k : Nat) (s : State) : Res :=
  match s.loads[k]? with
  | none => .next s
  | some f =>
    let (s, vals) := State.arriving { s with loads := s.loads.eraseIdx k } k f
    .next (s.fill { f with vals := vals, src := none })

/-- EVENT SCRATCHPAD_LOAD_FILL (R204). -/
def execScratchpadLoadFill (k : Nat) (s : State) : Res :=
  match s.scrLoads[k]? with
  | none => .next s
  | some f => .next (State.fill { s with scrLoads := s.scrLoads.eraseIdx k } f)

/-- EVENT LATE_RESULT_FILL (R147, R157, R170): a special-function or ACT result is written. -/
def execLateResultFill (k : Nat) (s : State) : Res :=
  match s.lates[k]? with
  | none => .next s
  | some f => .next (State.fill { s with lates := s.lates.eraseIdx k } f)

/-- EVENT ATOMIC_PERFORM (R207, R172). -/
def execAtomicPerform (k : Nat) (s : State) : Res := .next (s.performAtoms k)

/-- EVENT SC_OPERATION_PERFORM (R104, R209, R210). -/
def execScOperationPerform (k : Nat) (s : State) : Res := .next (s.performScops k)

/-- EVENT L1_EVICTION (R86, R93, R366): a place drops a line, writing back what was written in it. -/
def execL1Eviction (place line : Nat) (s : State) : Res := .next (s.evict place line 0 0)

end Sys2Proof.Machine
end

