-- ==== Sys2Proof/Machine/LoadStore.lean ====
section
/-!
DEFINITION. The access check of R200, loads and stores (R201, R202), uniform loads and stores (R203), and the check of an
LD after its issue (R353, R354).
-/

namespace Sys2Proof.Machine

/-! The access check (R200). -/

/-- The check of one access of thread t: cause and number of the first failing check, or the translation of a local
address. A domain-global address passes only check 1. -/
def State.checkAt (s : State) (u t : Nat) (k : Acc) (size va : Nat) : Except (Cause × Nat) (Option Tlb) :=
  if va % size ≠ 0 then .error (.align, 1)
  else if isDomain va then .ok none
  else if !canonical va then .error (.access, 2)
  else
    match s.xlat (s.team u).core (s.team u).slice (s.privOf u t) false k va with
    | .ok e => .ok (some e)
    | .error c => .error (c, if c = .memUe then 0 else 3)

/-- The checks of lanes in ascending order: a trap for the lowest failing lane, or each lane's translation. -/
def State.checkLanes (s : State) (u g : Nat) (k : Acc) (size : Nat) :
    List (Nat × Nat) → Except Trap (List (Nat × Nat × Option Tlb))
  | [] => .ok []
  | (lane, va) :: rest =>
    match s.checkAt u (32 * g + lane) k size va with
    | .error (c, n) => .error { cause := c, lane := lane, check := n, addr := va, write := k == .write }
    | .ok e =>
      match s.checkLanes u g k size rest with
      | .ok l => .ok ((lane, va, e) :: l)
      | .error t => .error t

/-- The addresses of the active lanes (R199): a uniform pair or each lane's vector pair. -/
def State.laneAddrs (s : State) (a : BitVec 6) (u : Bool) : List (Nat × Nat) :=
  s.iss.lanes.map fun l => (l, if u then s.rup a.toNat else s.rp l a.toNat)

/-- Holds the translations that an issue used (R79). -/
def State.noteAll (s : State) (core : Nat) (l : List (Nat × Nat × Option Tlb)) : State :=
  l.foldl (fun s x => match x.2.2 with | some e => s.note core e | none => s) s

/-! Loads. -/

/-- A load after a FENCE.ALL of its thread observes the completion word that it reads (R103). -/
def State.observeLoad (s : State) (u t va : Nat) (tr : Option Tlb) (n : Nat) : State :=
  let a := match tr with | some e => e.paOf va | none => s.nameOf va
  if (s.thr u t).fenced = 0 then s else s.observe (s.team u).core a n ((s.thr u t).fenced - 1)

/-- One lane's load leaves: its value is on its way to the registers (R99), or the owner is asked; none on a poisoned line. -/
def State.loadLane (s : State) (u t va : Nat) (tr : Option Tlb) (minor reg : Nat) : Option State :=
  let core := (s.team u).core
  let n := ldSize minor
  match (s.observeLoad u t va tr n).readNow u core va tr n with
  | (s, some bs) =>
    some { s with loads := s.loads ++
      [Fill.mk u t (ldVals minor reg (ofBytes bs)) false (some ⟨core, va, tr, bs, minor, reg⟩)] }
  | (s, none) =>
    if tr.isSome then none
    else some (s.sendReq (s.team u).slice u t (domPkg va) (plainReq .read (domOff va) n 0)
        (.regs ((List.range (ldRegs minor)).map (reg + ·)) minor))

/-- Loads of several lanes in ascending order; a poisoned line gives MEM_UE and no lane performs (R358). -/
def State.loadLanes (s : State) (u g minor reg : Nat) : List (Nat × Nat × Option Tlb) → Except Trap State
  | [] => .ok s
  | (lane, va, tr) :: rest =>
    match s.loadLane u (32 * g + lane) va tr minor reg with
    | some s => s.loadLanes u g minor reg rest
    | none => .error { cause := .memUe, lane := lane, addr := va }

/-- An LD checked and performed at once: the translations are complete at issue. -/
def ldNow (minor reg : Nat) (addrs : List (Nat × Nat)) (s : State) : Res :=
  let u := s.iss.uid
  let g := s.iss.gang
  match s.checkLanes u g .read (ldSize minor) addrs with
  | .error t => raise t s
  | .ok l =>
    match ((s.drainFor l).noteAll s.cur.core l).loadLanes u g minor reg l with
    | .error t => raise t s
    | .ok s => .next (s.markEmpty reg (ldRegs minor))

/-- Is a local LD's translation not complete at issue (R353)? A lane whose address fails the first two checks needs none. -/
def State.ldInCheck (s : State) (size : Nat) (addrs : List (Nat × Nat)) : Bool :=
  addrs.any fun x => x.2 % size == 0 && !isDomain x.2 && canonical x.2 && (s.heldFor s.cur.core s.cur.slice x.2).isNone

/-- The logged LDs of a gang (R353): one in check at most, and those whose fault is deferred. -/
def State.logs (s : State) (u g : Nat) : List OpLog := NMap.get [] s.oplogs (gkey u g)

/-- Replaces the logged LDs of a gang. -/
def State.setLogs (s : State) (u g : Nat) (l : List OpLog) : State := { s with oplogs := NMap.put s.oplogs (gkey u g) l }

/-- LD (R201, R353): performed at issue when its translations are held, else in check, its addresses in the gang's operand
log; another LD of the gang waits until it leaves check. -/
def ldOp (minor : Nat) (t a : BitVec 6) (u : Bool) (s : State) : Res :=
  let addrs := s.laneAddrs a u
  let uid := s.iss.uid
  let g := s.iss.gang
  if (s.logs uid g).any fun lg => !lg.deferred then stall s
  else if s.ldInCheck (ldSize minor) addrs then
    let lg : OpLog :=
      { frag := s.iss.frag, word := s.iss.word, packet := s.iss.pos / 4 * 4, minor := minor, t := t.toNat,
        addrs := addrs, deferred := false, handler := (s.thL s.low).handler, step := s.iss.mstep.getD 0 }
    let s := s.drain
    .next ((s.setLogs uid g (s.logs uid g ++ [lg])).markEmpty t.toNat (ldRegs minor))
  else ldNow minor t.toNat addrs s

def execLdN8 (t a : BitVec 6) (u : Bool) (s : State) : Res := ldOp 0 t a u s
def execLdI8 (t a : BitVec 6) (u : Bool) (s : State) : Res := ldOp 1 t a u s
def execLdN16 (t a : BitVec 6) (u : Bool) (s : State) : Res := ldOp 2 t a u s
def execLdI16 (t a : BitVec 6) (u : Bool) (s : State) : Res := ldOp 3 t a u s
def execLdN32 (t a : BitVec 6) (u : Bool) (s : State) : Res := ldOp 4 t a u s
def execLdN64 (t a : BitVec 6) (u : Bool) (s : State) : Res := ldOp 5 t a u s
def execLdN32x4 (t a : BitVec 6) (u : Bool) (s : State) : Res := ldOp 6 t a u s

/-! The check after issue (R353, R354). -/

/-- A deferred fault of a logged LD takes the route of its cause: each thread of the LD resumes at its own next group. -/
def State.deferFault (s : State) (u g : Nat) (lg : OpLog) (tr : Trap) : State :=
  let s := s.setLogs u g ((s.logs u g).erase lg ++ [{ lg with deferred := true }])
  let ts := (lg.addrs.map fun x => 32 * g + x.1).filter fun t => !(s.thr u t).exited
  let t0 := ts.headD (32 * g)
  let d := detailOf tr lg.word lg.step (s.thr u t0).handler true
  let ad := BitVec.ofNat 64 tr.addr
  let s :=
    if s.teamRoute u t0 tr.cause then ts.foldl (fun s t => s.enterHandler u t (s.thr u t).resumePos d ad) s
    else
      let s := ts.foldl (fun s t => s.faultThread u t (s.thr u t).pos) s
      s.stopFor u ⟨d, ad, (s.thr u t0).pos, t0 % 32⟩ (if 16 ≤ tr.cause.code then 4 else 3)
  s.afterFault u g

/-- The logged LD of a gang checked and performed from its logged addresses; a failing check defers its fault. -/
def State.checkLd (s : State) (u g : Nat) (lg : OpLog) : State :=
  match s.checkLanes u g .read (ldSize lg.minor) lg.addrs with
  | .error tr => s.deferFault u g lg tr
  | .ok l =>
    match (s.noteAll (s.team u).core l).loadLanes u g lg.minor lg.t l with
    | .error tr => s.deferFault u g lg tr
    | .ok s => s.setLogs u g ((s.logs u g).erase lg)

/-- EVENT LD_CHECK_DONE (R353): the walk of the LD in check of a gang ends. -/
def execLdCheckDone (u g : Nat) (s : State) : Res :=
  match (s.logs u g).find? fun lg => !lg.deferred with
  | some lg => .next (s.checkLd u g lg)
  | none => .next s

/-- The replay of the deferred LDs of threads that leave the stop that their faults caused, each LD once (R354): those logged
in the mode, handler or not, in which the threads now go on. -/
def State.replayLds (s : State) (u : Nat) (ts : List Nat) : State :=
  (ts.map (· / 32)).eraseDups.foldl (fun s g =>
    let due (lg : OpLog) : Bool := lg.deferred && ts.any fun t =>
      t / 32 == g && lg.handler == (s.thr u t).handler && lg.addrs.any fun x => x.1 == t % 32
    ((s.logs u g).filter due).foldl (fun s lg => s.checkLd u g lg) s) s

/-! Stores. -/

/-- The second half of a 16-byte store, which is performed by itself (R94). -/
def halfOp (u t core slice va x : Nat) (tr : Option Tlb) : Pend :=
  { uid := u, t := t, core := core, slice := slice, kind := .half, va := va, size := 8, x := x, cmp := 0, scope := 0, sc := false,
    acq := false, regs := [], tr := tr }

/-- A store of a number's low n bytes by a thread: in its L1, in a copy that serves it, or sent to the owner (R202, R106). Of 16 bytes
the second half is performed by itself, but for a request, which the owner performs in parts (R94). -/
def State.storeLane (s : State) (u t va : Nat) (tr : Option Tlb) (n x : Nat) : State :=
  let core := (s.team u).core
  let slice := (s.team u).slice
  let put (s : State) (n : Nat) : State := match tr with
    | some e => s.storeAt core e va (toBytes n x)
    | none => s.storeDom u t core slice va n x
  if n ≤ 8 ∨ (tr.isNone ∧ (s.domCopy core va).isNone) then put s n
  else
    let s := put s 8
    { s with atoms := s.atoms ++ [halfOp u t core slice (va + 8) (x / 2 ^ 64) tr] }

/-- The data of a store: registers r, r + 1, … of a lane as one number. -/
def State.rvN (s : State) (lane r n : Nat) : Nat := ofWords ((List.range n).map fun k => s.rv lane (r + k))

/-- ST of n bytes (R202). -/
def stOp (n : Nat) (t a : BitVec 6) (u : Bool) (s : State) : Res :=
  let uid := s.iss.uid
  match s.checkLanes uid s.iss.gang .write n (s.laneAddrs a u) with
  | .error tr => raise tr s
  | .ok l =>
    let s := (s.drainFor l).noteAll s.cur.core l
    .next (l.foldl (fun s x => s.storeLane uid (s.tOf x.1) x.2.1 x.2.2 n (s.rvN x.1 t.toNat ((n + 3) / 4))) s)

def execStN8 (t a : BitVec 6) (u : Bool) (s : State) : Res := stOp 1 t a u s
def execStN16 (t a : BitVec 6) (u : Bool) (s : State) : Res := stOp 2 t a u s
def execStN32 (t a : BitVec 6) (u : Bool) (s : State) : Res := stOp 4 t a u s
def execStN64 (t a : BitVec 6) (u : Bool) (s : State) : Res := stOp 8 t a u s
def execStN32x4 (t a : BitVec 6) (u : Bool) (s : State) : Res := stOp 16 t a u s

/-! Uniform loads and stores (R203): one access by the lowest active lane's thread. -/

/-- The one address of ULD and UST. -/
def State.uniAddr (s : State) (a : BitVec 6) (u : Bool) : List (Nat × Nat) :=
  [(s.low, if u then s.rup a.toNat else s.rp s.low a.toNat)]

/-- Marks uniform registers of the issuing gang as pending (R135). -/
def State.markU (s : State) (rs : List Nat) : State :=
  rs.foldl (fun s r => { s with upend := NMap.put s.upend (ukey s.iss.uid s.iss.gang r) true }) s

/-- ULD of n words. -/
def uldOp (n : Nat) (t : UReg) (a : BitVec 6) (u : Bool) (s : State) : Res :=
  let uid := s.iss.uid
  let g := s.iss.gang
  let rs := (List.range n).map (t.toNat + ·)
  match s.checkLanes uid g .read (4 * n) (s.uniAddr a u) with
  | .error tr => raise tr s
  | .ok [] => .next s
  | .ok ((lane, va, tr) :: _) =>
    let s0 := s
    match (((s.drainFor [(lane, va, tr)]).noteAll s.cur.core [(lane, va, tr)]).observeLoad uid (s.tOf lane) va tr (4 * n)).readNow uid s.cur.core va tr (4 * n) with
    | (s, some bs) =>
      .next ({ s with loads := s.loads ++ [Fill.mk uid g (regVals rs (ofBytes bs)) true
        (some ⟨s.cur.core, va, tr, bs, if n = 1 then 4 else 5, t.toNat⟩)] }.markU rs)
    | (s, none) =>
      if tr.isSome then raise { cause := .memUe, lane := lane, addr := va } s0
      else .next ((s.sendReq s.cur.slice uid (s.tOf lane) (domPkg va) (plainReq .read (domOff va) (4 * n) 0)
          (.uregs g rs)).markU rs)

def execUldN32 (t : UReg) (a : BitVec 6) (u : Bool) (s : State) : Res := uldOp 1 t a u s
def execUldN64 (t : UReg) (a : BitVec 6) (u : Bool) (s : State) : Res := uldOp 2 t a u s

/-- UST of n words. -/
def ustOp (n : Nat) (t : UReg) (a : BitVec 6) (u : Bool) (s : State) : Res :=
  let uid := s.iss.uid
  match s.checkLanes uid s.iss.gang .write (4 * n) (s.uniAddr a u) with
  | .error tr => raise tr s
  | .ok l =>
    let x := ofWords ((List.range n).map fun k => s.ru (t.toNat + k))
    let s := (s.drainFor l).noteAll s.cur.core l
    .next (l.foldl (fun s e => s.storeLane uid (s.tOf e.1) e.2.1 e.2.2 (4 * n) x) s)

def execUstN32 (t : UReg) (a : BitVec 6) (u : Bool) (s : State) : Res := ustOp 1 t a u s
def execUstN64 (t : UReg) (a : BitVec 6) (u : Bool) (s : State) : Res := ustOp 2 t a u s

end Sys2Proof.Machine
end

