-- ==== Sys2Proof/Machine/Scratch.lean ====
section
/-!
DEFINITION. The scratchpad (R84, R85, R95): LDS and STS (R204), GATHER and SCATTER (R205), and the skew registers.
-/

namespace Sys2Proof.Machine

/-- n bytes of a team's scratchpad. -/
def State.scr (s : State) (u off n : Nat) : List Byte := (List.range n).map fun k => NMap.get 0 s.scratch (skey u (off + k))

/-- Bytes put into a team's scratchpad. -/
def State.putScr (s : State) (u off : Nat) (bs : List Byte) : State :=
  { s with scratch := (bs.zipIdx off).foldl (fun m (b, k) => NMap.put m (skey u k) b) s.scratch }

/-- The tests of R204: alignment, then range, lane by lane. -/
def scrCheck (size n : Nat) : List (Nat × Nat) → Option Trap
  | [] => none
  | (lane, off) :: rest =>
    if off % n ≠ 0 then some { cause := .align, lane := lane, check := 1, addr := off }
    else if size < off + n then some { cause := .access, lane := lane, check := 2, addr := off }
    else scrCheck size n rest

/-- A failing scratchpad test as a trap; `w` marks a write. -/
def scrRaise (t : Trap) (w : Bool) (s : State) : Res := raise { t with write := w } s

/-- The offsets of the active lanes. -/
def State.laneOffs (s : State) (a : BitVec 6) (u : Bool) : List (Nat × Nat) :=
  s.iss.lanes.map fun l => (l, (if u then s.ru a.toNat else s.rv l a.toNat).toNat)

/-- The bank of the word at an offset (R84, R85): SCR.SKEW0's tile first, then SCR.SKEW1's. -/
def bankOf (skew0 skew1 off : Nat) : Nat :=
  let start (k : Nat) := bits k 19 7 * 128
  let pitch (k : Nat) := (bits k 30 27 + 1) * 128
  let inside (k : Nat) : Bool := nbit k 31 && start k ≤ off && off < start k + pitch k * ((bits k 26 20 + 1) * 32)
  let skewed (k : Nat) : Nat := ((off - start k) % pitch k / 4 + (off - start k) / pitch k) % 32
  if inside skew0 then skewed skew0 else if inside skew1 then skewed skew1 else off / 4 % 32

/-- One pass: in each bank the lowest waiting lane, and every other lane that accesses the same word (R84). -/
def passOf (bank : Nat → Nat) (waiting : List (Nat × Nat)) : List (Nat × Nat) :=
  waiting.filter fun x =>
    match waiting.find? fun y => bank y.2 == bank x.2 with
    | some y => y.2 / 4 == x.2 / 4
    | none => false

/-- Words stored pass by pass, at most `fuel` passes (R84, R204); within a pass in ascending lane order. -/
def storePasses (bank : Nat → Nat) (word : Nat → List Byte) (u : Nat) : Nat → List (Nat × Nat) → State → State
  | 0, _, s => s
  | fuel + 1, waiting, s =>
    let now := passOf bank waiting
    let s := now.foldl (fun s (lane, off) => s.putScr u off (word lane)) s
    storePasses bank word u fuel (waiting.filter fun x => !now.contains x) s

/-- Stores of n bytes: word k of every lane, in passes. Duplicate stores to one word leave the higher lane's value. -/
def State.storeScr (s : State) (offs : List (Nat × Nat)) (t n : Nat) : State :=
  let u := s.iss.uid
  let bank := bankOf s.cur.skew0.toNat s.cur.skew1.toNat
  (List.range (n / 4)).foldl (fun s k =>
    storePasses bank (fun l => toBytes 4 (s.rv l (t + k)).toNat) u 32 (offs.map fun x => (x.1, x.2 + 4 * k)) s) s

/-- Loads of n bytes: the values as they stand, on their way to the registers. -/
def State.loadScr (s : State) (offs : List (Nat × Nat)) (t n : Nat) : State :=
  let u := s.iss.uid
  offs.foldl (fun s (l, off) =>
    { s with scrLoads := s.scrLoads ++
        [{ uid := u, t := s.tOf l, vals := regVals ((List.range (n / 4)).map (t + ·)) (ofBytes (s.scr u off n)), uni := false }] }) s

/-- LDS of n bytes (R204). -/
def ldsOp (n : Nat) (t a : BitVec 6) (u : Bool) (s : State) : Res :=
  match scrCheck s.cur.scr n (s.laneOffs a u) with
  | some tr => scrRaise tr false s
  | none => .next ((s.loadScr (s.laneOffs a u) t.toNat n).markEmpty t.toNat (n / 4))

/-- STS of n bytes (R204). -/
def stsOp (n : Nat) (t a : BitVec 6) (u : Bool) (s : State) : Res :=
  match scrCheck s.cur.scr n (s.laneOffs a u) with
  | some tr => scrRaise tr true s
  | none => .next (s.storeScr (s.laneOffs a u) t.toNat n)

def execLdsN32 (t a : BitVec 6) (u : Bool) (s : State) : Res := ldsOp 4 t a u s
def execLdsN64 (t a : BitVec 6) (u : Bool) (s : State) : Res := ldsOp 8 t a u s
def execLdsN32x4 (t a : BitVec 6) (u : Bool) (s : State) : Res := ldsOp 16 t a u s
def execStsN32 (t a : BitVec 6) (u : Bool) (s : State) : Res := stsOp 4 t a u s
def execStsN64 (t a : BitVec 6) (u : Bool) (s : State) : Res := stsOp 8 t a u s
def execStsN32x4 (t a : BitVec 6) (u : Bool) (s : State) : Res := stsOp 16 t a u s

/-- The element size of GATHER and SCATTER (R205). -/
def gsz (sz : BitVec 2) : Nat := 4 * 2 ^ sz.toNat

/-- The lanes that name an element, with their offsets; the others are skipped (R205). -/
def State.gatherOffs (s : State) (a : VReg) (esz : Nat) : List (Nat × Nat) :=
  s.iss.lanes.filterMap fun l =>
    let i := (s.rv l a.toNat).toNat
    if i = 0xFFFFFFFF then none else some (l, i * esz)

/-- GATHER (R205): a skipped lane's destination is written zero. -/
def execGather (t a : VReg) (sz : BitVec 2) (s : State) : Res :=
  let n := gsz sz
  let offs := s.gatherOffs a n
  match scrCheck s.cur.scr n offs with
  | some tr => scrRaise tr false s
  | none =>
    let skipped := s.iss.lanes.filter fun l => !(offs.any (·.1 == l))
    let s1 := offs.foldl (fun s x => (List.range (n / 4)).foldl (fun s k =>
      s.setEmpty s.iss.uid (s.tOf x.1) (t.toNat + k) true) s) (s.loadScr offs t.toNat n)
    .next (skipped.foldl (fun s l => (List.range (n / 4)).foldl (fun s k => s.setV l (t.toNat + k) 0) s) s1)

/-- SCATTER (R205): when lanes name one element the highest wins. -/
def execScatter (t a : VReg) (sz : BitVec 2) (s : State) : Res :=
  let n := gsz sz
  let offs := s.gatherOffs a n
  match scrCheck s.cur.scr n offs with
  | some tr => scrRaise tr true s
  | none => .next (s.storeScr offs t.toNat n)

/-- Does a matrix-engine operation access the scratchpad? -/
def MOpK.usesScr : MOpK → Bool
  | .acz => false
  | _ => true

/-- Has a team a scratchpad access in flight (R85): a load, an operation of the matrix engine, or a copy that has begun? -/
def State.scrBusy (s : State) (u : Nat) : Bool :=
  s.scrLoads.any (·.uid == u) || s.mops.any (fun o => o.uid == u && o.kind.usesScr)
  || (s.team u).chans.any fun e => e.2.queue.any fun (c : Copy) => c.started && (c.skind == 1 || c.dscr)

/-- A write of SCR.SKEW0 or SCR.SKEW1 (R85): every offset keeps its value. -/
def State.writeSkew (s : State) (u : Nat) (second : Bool) (v : Word) : State :=
  let v := v &&& 0xFFFFFF80
  let tm := s.team u
  s.setTeam u (if second then { tm with skew1 := v } else { tm with skew0 := v })

/-- EVENT SCR_SKEW_WRITE (R85): the write stalls until the team has no scratchpad access in flight. -/
def execScrSkewWrite (u : Nat) (second : Bool) (v : BitVec 32) (s : State) : Res :=
  .next (if s.scrBusy u || !(s.team u).live then s else s.writeSkew u second v)

end Sys2Proof.Machine
end

