-- ==== Sys2Proof/Machine/Atomic.lean ====
section
/-!
DEFINITION. Atomics and reductions (R206 to R208), AMAX (R172), SC operations (R209), ACQ and REL (R210), BIND (R211) and
FENCE.ALL (R212), with the buffers of deterministic launches (R64).
-/

namespace Sys2Proof.Machine

/-- What the issue of a scoped operation says of itself, beside its lane and address. -/
structure OpDesc where
  kind : OpK
  req : ReqKind
  size : Nat
  scope : Nat
  sc : Bool := false
  acq : Bool := false
  regs : List Nat := []

/-- The result form of a remote operation by its result registers (see `ldVals`). -/
def resMinor (d : OpDesc) : Nat := if d.acq then 9 else if d.regs.length = 2 then 5 else 4

/-- Is an operation of a deterministic launch performed at issue (R172, R208)? -/
def OpK.atIssue : OpK → Bool
  | .atom _ _ => true
  | .amax => true
  | _ => false

/-- The type code of R138 that a kind carries. -/
def OpK.ty (k : OpK) : Nat := match k with | .atom _ ty => ty | _ => 0

/-- One lane's operation leaves the core: pending at its place, or, on a domain-global address at scope package or wider,
sent to the owner (R93, R106). Copies that serve the thread give up the line first, so that its later reads do not find it
older than the operation (R96). An ACQ there is noted as it is sent and again as it is answered (R100). -/
def State.issueOp (s : State) (d : OpDesc) (lane va : Nat) (tr : Option Tlb) (x cmp : Nat) : State :=
  let u := s.iss.uid
  let t := s.tOf lane
  let core := s.cur.core
  if tr.isNone ∧ 7 ≤ d.scope then
    let s := (if d.acq then s.acquired core d.scope (some va) else s).giveUp core va u t
    let rq : Req :=
      { kind := d.req, off := domOff va, size := d.size, typ := d.kind.ty, x := x, cmp := cmp, scope := d.scope, sc := d.sc,
        clock := if d.sc then NMap.get 0 s.clocks core else 0 }
    s.sendReq s.cur.slice u t (domPkg va) rq (if d.regs = [] then .flags else .regs d.regs (resMinor d))
  else
    let p : Pend :=
      { uid := u, t := t, core := core, slice := s.cur.slice, kind := d.kind, va := va, size := d.size, x := x, cmp := cmp,
        scope := d.scope, sc := d.sc, acq := d.acq, regs := d.regs, tr := tr }
    if d.sc || d.acq then { s with scops := s.scops ++ [p] } else { s with atoms := s.atoms ++ [p] }

/-- Marks the result registers of the active lanes empty. -/
def State.markRegs (s : State) (rs : List Nat) : State := rs.foldl (fun s r => s.markEmpty r 1) s

/-- Does an SC operation wait for an earlier one of its thread that the owner has not answered, whose timestamp it must
exceed (R104, log 18)? -/
def State.scWait (s : State) (d : OpDesc) : Bool :=
  d.sc && s.remote.any fun r => r.req.sc && r.uid == s.iss.uid && s.iss.lanes.any fun l => r.t == s.tOf l

/-- Issues an operation in every active lane after the checks of R200. In a deterministic launch the operations that bypass
the buffers, AMAX and the SC atomics, are performed at issue (R172, R208). -/
def scopedOp (d : OpDesc) (k : Acc) (addrs : List (Nat × Nat)) (x cmp : Nat → Nat) (s : State) : Res :=
  match s.checkLanes s.iss.uid s.iss.gang k d.size addrs with
  | .error tr => raise tr s
  | .ok l =>
    if s.scWait d then stall s
    else
      let s := (s.drainFor l).noteAll s.cur.core l
      let s := (l.foldl (fun s e => s.issueOp d e.1 e.2.1 e.2.2 (x e.1) (cmp e.1)) s).markRegs d.regs
      .next (if s.cur.det ∧ d.kind.atIssue then s.drain else s)

/-! Atomic buffers of deterministic launches (R64, R208). -/

/-- Operations that one core's buffer holds (R14). -/
def bufCap : Nat := 4096

/-- Operations spilled to the area of a launch. -/
def State.spilledOf (s : State) (l : Nat) : Nat := s.bufops.countP fun b => b.launch == l && b.spilled

/-- The 64 bytes that a spilled operation takes in its launch's area: the spec gives them no form, so they are free values
(log 24). -/
def spillBytes (tick k : Nat) : List Byte := toBytes 64 (Config.freeWord ((tick * 2 ^ 32 + k) * 4 + 1))

/-- Writes the 64 bytes of the next operation spilled to a launch's area (R64); a page that does not translate stays as it is. -/
def State.spillPut (s : State) (l : Nat) : State :=
  let k := s.spilledOf l
  match s.kWrite l ((s.launch l).spill + 64 * k) (spillBytes s.tick k) with
  | .ok s => s
  | .error _ => s

/-- The list with the first operation that `p` selects marked as spilled. -/
def markSpilled (p : BufOp → Bool) : List BufOp → List BufOp
  | [] => []
  | y :: ys => if p y then { y with spilled := true } :: ys else y :: markSpilled p ys

/-- Spills the first buffered operation that `p` selects. -/
def State.spillFirst (s : State) (p : BufOp → Bool) : State :=
  match s.bufops.find? p with
  | none => s
  | some b => { s.spillPut b.launch with bufops := markSpilled p s.bufops }

/-- Spills the oldest buffered entry of a core while its buffer is full; none where the launch's area is full. -/
def State.spillOne (s : State) (core : Nat) : Option State :=
  let here (b : BufOp) : Bool := b.core == core && !b.spilled
  if s.bufops.countP here < bufCap then some s
  else
    match s.bufops.find? here with
    | none => some s
    | some b => if (s.launch b.launch).spilln * 32768 ≤ s.spilledOf b.launch then none else some (s.spillFirst here)

/-- One lane's operation buffered with its sort key. -/
def State.bufferOp (s : State) (lane va scope : Nat) (kind : BufK) (regs : List Nat) : Option State :=
  match s.spillOne s.cur.core with
  | none => none
  | some s =>
    let tm := s.cur
    let t := s.tOf lane
    let q := NMap.get 0 tm.seqs t
    let b : BufOp :=
      { uid := s.iss.uid, launch := tm.launch, core := tm.core, priv := s.privL lane, lti := tm.lti, gang := s.iss.gang, lane := lane, seq := q,
        kind := kind, va := va, scope := scope, regs := regs, spilled := false, sent := false }
    some ({ s with bufops := s.bufops ++ [b] }.setTeam s.iss.uid { tm with seqs := NMap.put tm.seqs t (q + 1) })

/-- Buffers an operation in several lanes; DET_SPILL names the first lane that finds no room. -/
def State.bufferLanes (s : State) (scope : Nat) (kind : Nat → BufK) (regs : List Nat) :
    List (Nat × Nat) → Except Trap State
  | [] => .ok s
  | (lane, va) :: rest =>
    match s.bufferOp lane va scope (kind lane) regs with
    | some s => s.bufferLanes scope kind regs rest
    | none => .error { cause := .detSpill, lane := lane }

/-- An atomic or reduction of major 0x54: in a deterministic launch without SC it is buffered (R208). -/
def atomOp (op : AtomOp) (res : Bool) (t a : VReg) (scope : BitVec 4) (sc : Bool) (ty : BitVec 3) (s : State) : Res :=
  let w := if ty.toNat = 2 ∨ ty.toNat = 3 then 2 else 1
  let cas := op == .cas
  let x (l : Nat) := s.rvN l (t.toNat + if cas then w else 0) w
  let cmp (l : Nat) := if cas then s.rvN l t.toNat w else 0
  let regs := if res then (List.range w).map (t.toNat + ·) else []
  let addrs := s.laneAddrs a false
  if s.cur.det ∧ !sc then
    match s.checkLanes s.iss.uid s.iss.gang .write (4 * w) addrs with
    | .error tr => raise tr s
    | .ok l =>
      match (s.noteAll s.cur.core l).bufferLanes scope.toNat (fun l => .atom op ty.toNat (x l) (cmp l)) regs addrs with
      | .error tr => raise tr s
      | .ok s => .next (s.markRegs regs)
  else
    scopedOp { kind := .atom op ty.toNat, req := .atomic op, size := 4 * w, scope := scope.toNat, sc := sc, regs := regs }
      .write addrs x cmp s

def execAtomAdd (t a : VReg) (scope : BitVec 4) (sc : Bool) (ty : BitVec 3) (s : State) : Res := atomOp .add true t a scope sc ty s
def execAtomMin (t a : VReg) (scope : BitVec 4) (sc : Bool) (ty : BitVec 3) (s : State) : Res := atomOp .min true t a scope sc ty s
def execAtomMax (t a : VReg) (scope : BitVec 4) (sc : Bool) (ty : BitVec 3) (s : State) : Res := atomOp .max true t a scope sc ty s
def execAtomAnd (t a : VReg) (scope : BitVec 4) (sc : Bool) (ty : BitVec 3) (s : State) : Res := atomOp .and true t a scope sc ty s
def execAtomOr (t a : VReg) (scope : BitVec 4) (sc : Bool) (ty : BitVec 3) (s : State) : Res := atomOp .or true t a scope sc ty s
def execAtomXor (t a : VReg) (scope : BitVec 4) (sc : Bool) (ty : BitVec 3) (s : State) : Res := atomOp .xor true t a scope sc ty s
def execAtomXchg (t a : VReg) (scope : BitVec 4) (sc : Bool) (ty : BitVec 3) (s : State) : Res := atomOp .xchg true t a scope sc ty s
def execAtomCas (t a : VReg) (scope : BitVec 4) (sc : Bool) (ty : BitVec 3) (s : State) : Res := atomOp .cas true t a scope sc ty s
def execRedAdd (t a : VReg) (scope : BitVec 4) (sc : Bool) (ty : BitVec 3) (s : State) : Res := atomOp .add false t a scope sc ty s
def execRedMin (t a : VReg) (scope : BitVec 4) (sc : Bool) (ty : BitVec 3) (s : State) : Res := atomOp .min false t a scope sc ty s
def execRedMax (t a : VReg) (scope : BitVec 4) (sc : Bool) (ty : BitVec 3) (s : State) : Res := atomOp .max false t a scope sc ty s

/-- AMAX (R172): reads the word, writes zero, returns the old value. -/
def execAmax (d a : BitVec 6) (u size : Bool) (scope : BitVec 4) (s : State) : Res :=
  let w := if size then 2 else 1
  scopedOp { kind := .amax, req := .amax, size := 4 * w, scope := scope.toNat, regs := (List.range w).map (d.toNat + ·) }
    .write (s.laneAddrs a u) (fun _ => 0) (fun _ => 0) s

/-- SCLD (R209). -/
def execScld (t a : VReg) (scope : BitVec 4) (sz : BitVec 2) (s : State) : Res :=
  let w := 2 ^ sz.toNat
  scopedOp { kind := .read, req := .read, size := 4 * w, scope := scope.toNat, sc := true,
             regs := (List.range w).map (t.toNat + ·) }
    .read (s.laneAddrs a false) (fun _ => 0) (fun _ => 0) s

/-- SCST (R209). -/
def execScst (t a : VReg) (scope : BitVec 4) (sz : BitVec 2) (s : State) : Res :=
  let w := 2 ^ sz.toNat
  scopedOp { kind := .write, req := .write, size := 4 * w, scope := scope.toNat, sc := true } .write (s.laneAddrs a false)
    (fun l => s.rvN l t.toNat w) (fun _ => 0) s

/-- ACQ (R100, R210). -/
def execAcq (t a : VReg) (scope : BitVec 4) (s : State) : Res :=
  let s := if 7 ≤ scope.toNat then s.dropNodes s.iss.uid else s
  scopedOp { kind := .read, req := .read, size := 8, scope := scope.toNat, acq := true, regs := [t.toNat, t.toNat + 1] }
    .read (s.laneAddrs a false) (fun _ => 0) (fun _ => 0) s

/-! Waits: REL, FENCE.ALL, BIND. -/

/-- Are remote writes older than a tag without a response? Not only the thread's own (R107): what other threads wrote may
have come before by an edge of R97. Only those of the team's own slice or launch: a slice
waits on no core of another (R22, log 55). -/
def State.unanswered (s : State) (u scope upto : Nat) : Bool :=
  let tm := s.team u
  5 ≤ scope && s.remote.any fun r => r.tag < upto && !readsOnly r.req.kind
    && (r.slice == s.lead tm.slice || r.launch == tm.launch)

/-- Has a thread remote operations without a response (R107), operations pending at a place, or Cistern additions still to reach their
units (R102, R249)? -/
def State.outstanding (s : State) (u t scope upto : Nat) : Bool :=
  s.unanswered u scope upto || (5 ≤ scope && s.remote.any fun r => r.tag < upto && r.uid == u && r.t == t)
  || (s.atoms ++ s.scops).any (fun p => p.uid == u && p.t == t) || s.cisAdds.any (fun c => c.uid == u && c.t == t)

/-- A thread's wait for its memory operations ends; when every thread of its fragment has ended its own, the fragment goes
on. -/
def State.finishWait (s : State) (u t : Nat) : State :=
  (s.setThr u t { s.thr u t with mwait := .done }).testWait u t

/-- The object that a launch binds an address to (R101). -/
def State.objOf (s : State) (l va : Nat) : Option Nat :=
  ((s.launch l).binds.find? fun b => b.1 ≤ va && va < b.1 + b.2.1).map (·.2.2)

/-- Has a thread caddy operations on their way, to any region or to regions whose declaration line is bound to an object
(R301)? -/
def State.caddyWait (s : State) (u t : Nat) (obj : Option Nat) : Bool :=
  s.caddyOps.any fun c => c.uid == u && c.t == t && match obj with
    | none => true
    | some o => s.objOf (s.team u).launch c.handle == some o

/-- REL (R100, R210): the writes to regions bound to the object go to the place of the scope, and each thread waits. -/
def execRel (a : VReg) (scope : BitVec 4) (s : State) : Res :=
  match s.checkLanes s.iss.uid s.iss.gang .write 8 (s.laneAddrs a false) with
  | .error tr => raise tr s
  | .ok l =>
    let s := s.drain.noteAll s.cur.core l
    .next (l.foldl (fun s e =>
      let s := s.publishIf s.cur.core scope.toNat s.iss.uid (s.tOf e.1) fun _ c => s.boundTo s.cur.launch e.2.1 c
      s.mwaitFor s.iss.uid (s.tOf e.1) s.iss.follow (.rel e.2.1 scope.toNat e.2.2 s.nextTag)) s)

/-- The increment of a REL as an operation at its place. -/
def relPend (u t core slice va scope : Nat) (tr : Option Tlb) : Pend :=
  { uid := u, t := t, core := core, slice := slice, kind := .rel, va := va, size := 8, x := 0, cmp := 0, scope := scope, sc := false,
    acq := false, regs := [], tr := tr }

/-- EVENT REL_PERFORMED (R100, R107): lanes of a fragment perform in ascending order; the object is incremented at the
place of the scope. What operations performed since the issue have written goes to that place first. -/
def execRelPerformed (u t : Nat) (s : State) : Res :=
  match (s.thr u t).mwait with
  | .rel va scope tr upto =>
    let lower := (s.fragOf u t).any fun t' =>
      t' < t && match (s.thr u t').mwait with | .rel _ _ _ _ => true | _ => false
    if lower || s.outstanding u t scope upto || s.caddyWait u t (some va) then .next s
    else
      let tm := s.team u
      let w := s.publishIf tm.core scope u t fun _ c => s.boundTo tm.launch va c
      if w.nextTag ≠ s.nextTag then .next (w.setThr u t { w.thr u t with mwait := .rel va scope tr w.nextTag })
      else
      let s := w
      if tr.isNone ∧ 7 ≤ scope then
        let s := s.giveUp tm.core va u t
        .next ((s.sendReq tm.slice u t (domPkg va)
            { kind := .rel, off := domOff va, size := 8, typ := 2, x := 0, cmp := 0, scope := scope, sc := false, clock := 0 }
            .flags).finishWait u t)
      else
        let p := relPend u t tm.core tm.slice va scope tr
        let s := s.ready p
        .next (if s.blocked p then s.fetchLine p else (s.perform p).finishWait u t)
  | _ => .next s

/-- FENCE.ALL (R102, R212). -/
def execFenceAll (scope : BitVec 4) (s : State) : Res :=
  let s := if 7 ≤ scope.toNat then s.drain.dropNodes s.iss.uid else s.drain
  .next (s.lanes fun s l =>
    let s := s.publish s.cur.core scope.toNat s.iss.uid (s.tOf l)
    s.mwaitFor s.iss.uid (s.tOf l) s.iss.follow (.fence scope.toNat s.nextTag))

/-- EVENT FENCE_ALL_DONE (R102, R107). Copies that hold bytes written since the issue are written back, and the fence waits for the answers. -/
def execFenceAllDone (u t : Nat) (s : State) : Res :=
  match (s.thr u t).mwait with
  | .fence scope upto =>
    if s.outstanding u t scope upto || s.caddyWait u t none then .next s
    else
      let w := s.refresh (s.team u).core scope u t
      let th := w.thr u t
      .next (if w.nextTag ≠ s.nextTag then w.setThr u t { th with mwait := .fence scope w.nextTag }
        else (w.setThr u t { th with fenced := max th.fenced (scope + 1) }).finishWait u t)
  | _ => .next s

/-- The checks of BIND in a launch (R101, R211): cause, number and address. -/
def State.bindCheck (s : State) (l base len obj : Nat) : Option (Cause × Nat × Nat) :=
  let bs := (s.launch l).binds
  if base % 64 ≠ 0 then some (.align, 1, base)
  else if len % 64 ≠ 0 then some (.align, 1, base)
  else if obj % 8 ≠ 0 then some (.align, 1, obj)
  else if len < 64 ∨ 2 ^ 40 < len ∨ 256 ≤ bs.length ∨ bs.any (fun b => b.1 < base + len && base < b.1 + b.2.1) then
    some (.access, 2, base)
  else none

/-- BIND (R211): the lowest active lane supplies the operands, the binding is made, and the fragment waits. -/
def execBind (t a : VReg) (s : State) : Res :=
  let base := s.rp s.low t.toNat
  let len := s.rp s.low (t.toNat + 2)
  let obj := s.rp s.low a.toNat
  match s.bindCheck s.cur.launch base len obj with
  | some (c, n, ad) => raise { cause := c, lane := s.low, check := n, addr := ad } s
  | none =>
    let ln := s.launch s.cur.launch
    let s := s.setLaunch s.cur.launch { ln with binds := ln.binds ++ [(base, len, obj)] }
    .next (s.lanes fun s l => s.mwaitFor s.iss.uid (s.tOf l) s.iss.follow .bind)

/-- EVENT BIND_PERFORMED (R101, R211): the binding is performed at package scope and the thread's wait ends. -/
def execBindPerformed (u t : Nat) (s : State) : Res :=
  .next (if (s.thr u t).mwait == .bind then s.finishWait u t else s)

end Sys2Proof.Machine
end

