-- ==== Sys2Proof/Machine/Flags.lean ====
section
/-!
DEFINITION. Condition codes (R136, R150, R151): how each instruction computes the four bits, and how a condition reads
them. A set holds C in bit 3, Z in bit 2, S in bit 1, V in bit 0.
-/

namespace Sys2Proof.Machine

/-- A condition-code set from its four bits (R136). -/
def mkCc (c z s v : Bool) : BitVec 4 := BitVec.ofBool c ++ BitVec.ofBool z ++ BitVec.ofBool s ++ BitVec.ofBool v

/-- The carry bit of a set. -/
def ccC (x : BitVec 4) : Bool := x.getLsbD 3
/-- The zero bit of a set. -/
def ccZ (x : BitVec 4) : Bool := x.getLsbD 2
/-- The sign bit of a set. -/
def ccS (x : BitVec 4) : Bool := x.getLsbD 1
/-- The overflow bit of a set. -/
def ccV (x : BitVec 4) : Bool := x.getLsbD 0

/-- The conditions of R136. -/
def cond (code : BitVec 4) (x : BitVec 4) : Bool :=
  match code.toNat with
  | 0 => ccZ x
  | 1 => !ccZ x
  | 2 => ccS x
  | 3 => !ccS x
  | 4 => ccC x
  | 5 => !ccC x
  | 6 => ccV x
  | 7 => !ccV x
  | 8 => ccS x == ccV x
  | 9 => ccS x != ccV x
  | 10 => !ccZ x && ccS x == ccV x
  | 11 => ccZ x || ccS x != ccV x
  | 12 => ccC x && !ccZ x
  | 13 => !ccC x || ccZ x
  | 14 => true
  | _ => false

/-- Does an integer lie outside i32? -/
def outI32 (x : Int) : Bool := x < -2147483648 || 2147483647 < x

/-- Z and S always come from the 32-bit result (R150). -/
def ccRes (r : Word) (c v : Bool) : BitVec 4 := mkCc c (r == 0) r.msb v

/-- IADD and IADDX (R150). -/
def ccAdd (a b : Word) (cin : Nat) : BitVec 4 :=
  let r := a.toNat + b.toNat + cin
  ccRes (toW r) (2 ^ 32 ≤ r) (outI32 (a.toInt + b.toInt + cin))

/-- ISUB, ISUBX and ICMP (R150): `bin` is 1 − cin, 0 for ISUB and ICMP. -/
def ccSub (a b : Word) (bin : Nat) : BitVec 4 :=
  ccRes (ofInt ((a.toNat : Int) - b.toNat - bin)) (b.toNat + bin ≤ a.toNat) (outI32 (a.toInt - b.toInt - bin))

/-- IMUL (R150). -/
def ccMul (a b : Word) : BitVec 4 :=
  ccRes (a * b) (2 ^ 32 ≤ a.toNat * b.toNat) (outI32 (a.toInt * b.toInt))

/-- IADDS.I32 (R150). -/
def ccAdds (a b : Word) : BitVec 4 :=
  let x := a.toInt + b.toInt
  ccRes (ofInt (sat x (-2147483648) 2147483647)) false (outI32 x)

/-- IMULH, IMIN and IMAX (R150). -/
def ccLogic (r : Word) : BitVec 4 := ccRes r false false

end Sys2Proof.Machine
end

