-- ==== Sys2Proof/Machine/IntArith.lean ====
section
/-!
DEFINITION. Integer arithmetic, compares, 64-bit pairs, logic, shifts and immediates (R149 to R154), and MOV and SEL.
-/

namespace Sys2Proof.Machine

/-- One result register computed from two source registers in each active lane. -/
def bin (f : Word → Word → Word) (d a b : VReg) (s : State) : Res :=
  .next (s.lanes fun s l => s.setV l d.toNat (f (s.rv l a.toNat) (s.rv l b.toNat)))

/-- One result register computed from one source register in each active lane. -/
def un (f : Word → Word) (d a : VReg) (s : State) : Res :=
  .next (s.lanes fun s l => s.setV l d.toNat (f (s.rv l a.toNat)))

/-- A result register and the condition-code set c, computed from two sources in each active lane. -/
def binCc (c : BitVec 2) (f : Word → Word → Word) (g : Word → Word → BitVec 4) (d a b : VReg) (s : State) : Res :=
  .next (s.lanes fun s l =>
    (s.setV l d.toNat (f (s.rv l a.toNat) (s.rv l b.toNat))).setCc l c.toNat (g (s.rv l a.toNat) (s.rv l b.toNat)))

/-- The same with the carry of set `ci` read (R140). -/
def binX (ci : Nat) (f : Word → Word → Nat → Word) (d a b : VReg) (s : State) : Res :=
  .next (s.lanes fun s l =>
    s.setV l d.toNat (f (s.rv l a.toNat) (s.rv l b.toNat) (ccC (s.rcc l ci)).toNat))

@[inherit_doc binX] def binXCc (c : BitVec 2) (f : Word → Word → Nat → Word) (g : Word → Word → Nat → BitVec 4)
    (d a b : VReg) (s : State) : Res :=
  .next (s.lanes fun s l =>
    let cin := (ccC (s.rcc l c.toNat)).toNat
    (s.setV l d.toNat (f (s.rv l a.toNat) (s.rv l b.toNat) cin)).setCc l c.toNat
      (g (s.rv l a.toNat) (s.rv l b.toNat) cin))

/-! The results r mod 2^32 of R149. -/

/-- a + b + cin. -/
def addX (a b : Word) (cin : Nat) : Word := toW (a.toNat + b.toNat + cin)
/-- a − b − (1 − cin). -/
def subX (a b : Word) (cin : Nat) : Word := ofInt ((a.toNat : Int) - b.toNat - (1 - (cin : Int)))
/-- The signed product. -/
def mulLo (a b : Word) : Word := ofInt (a.toInt * b.toInt)
/-- The high half of the signed product. -/
def mulhI (a b : Word) : Word := ofInt (a.toInt * b.toInt / 2 ^ 32)
/-- The high half of the unsigned product. -/
def mulhN (a b : Word) : Word := toW (a.toNat * b.toNat / 2 ^ 32)
/-- The smaller, read as i32. -/
def minI (a b : Word) : Word := if b.toInt < a.toInt then b else a
/-- The smaller, read as n32. -/
def minN (a b : Word) : Word := if b.toNat < a.toNat then b else a
/-- The larger, read as i32. -/
def maxI (a b : Word) : Word := if a.toInt < b.toInt then b else a
/-- The larger, read as n32. -/
def maxN (a b : Word) : Word := if a.toNat < b.toNat then b else a
/-- The saturating signed sum. -/
def addsI (a b : Word) : Word := ofInt (sat (a.toInt + b.toInt) (-2147483648) 2147483647)

def execIadd (d a b : VReg) (s : State) : Res := bin (· + ·) d a b s
def execIsub (d a b : VReg) (s : State) : Res := bin (· - ·) d a b s
/-- IADDX without `.cc` reads its carry from c0 (R140). -/
def execIaddx (d a b : VReg) (s : State) : Res := binX 0 addX d a b s
/-- ISUBX without `.cc` reads its carry from c0 (R140). -/
def execIsubx (d a b : VReg) (s : State) : Res := binX 0 subX d a b s
def execImul (d a b : VReg) (s : State) : Res := bin mulLo d a b s
def execImulhI32 (d a b : VReg) (s : State) : Res := bin mulhI d a b s
def execImulhN32 (d a b : VReg) (s : State) : Res := bin mulhN d a b s
def execIminI32 (d a b : VReg) (s : State) : Res := bin minI d a b s
def execIminN32 (d a b : VReg) (s : State) : Res := bin minN d a b s
def execImaxI32 (d a b : VReg) (s : State) : Res := bin maxI d a b s
def execImaxN32 (d a b : VReg) (s : State) : Res := bin maxN d a b s
def execIaddsI32 (d a b : VReg) (s : State) : Res := bin addsI d a b s

def execIaddCc (c : BitVec 2) (d a b : VReg) (s : State) : Res := binCc c (· + ·) (ccAdd · · 0) d a b s
def execIsubCc (c : BitVec 2) (d a b : VReg) (s : State) : Res := binCc c (· - ·) (ccSub · · 0) d a b s
def execIaddxCc (c : BitVec 2) (d a b : VReg) (s : State) : Res := binXCc c addX ccAdd d a b s
def execIsubxCc (c : BitVec 2) (d a b : VReg) (s : State) : Res :=
  binXCc c subX (fun a b cin => ccSub a b (1 - cin)) d a b s
def execImulCc (c : BitVec 2) (d a b : VReg) (s : State) : Res := binCc c mulLo ccMul d a b s
def execImulhI32Cc (c : BitVec 2) (d a b : VReg) (s : State) : Res :=
  binCc c mulhI (fun a b => ccLogic (mulhI a b)) d a b s
def execImulhN32Cc (c : BitVec 2) (d a b : VReg) (s : State) : Res :=
  binCc c mulhN (fun a b => ccLogic (mulhN a b)) d a b s
def execIminI32Cc (c : BitVec 2) (d a b : VReg) (s : State) : Res :=
  binCc c minI (fun a b => ccLogic (minI a b)) d a b s
def execIminN32Cc (c : BitVec 2) (d a b : VReg) (s : State) : Res :=
  binCc c minN (fun a b => ccLogic (minN a b)) d a b s
def execImaxI32Cc (c : BitVec 2) (d a b : VReg) (s : State) : Res :=
  binCc c maxI (fun a b => ccLogic (maxI a b)) d a b s
def execImaxN32Cc (c : BitVec 2) (d a b : VReg) (s : State) : Res :=
  binCc c maxN (fun a b => ccLogic (maxN a b)) d a b s
def execIaddsI32Cc (c : BitVec 2) (d a b : VReg) (s : State) : Res := binCc c addsI ccAdds d a b s

/-- ICMP writes only the set, as ISUB would (R151). -/
def execIcmp (c : BitVec 2) (a b : VReg) (s : State) : Res :=
  .next (s.lanes fun s l => s.setCc l c.toNat (ccSub (s.rv l a.toNat) (s.rv l b.toNat) 0))

/-- 64-bit pairs (R152). -/
def execIadd64 (d a b : VReg) (s : State) : Res :=
  .next (s.lanes fun s l => s.setP l d.toNat ((s.rp l a.toNat + s.rp l b.toNat) % 2 ^ 64))
@[inherit_doc execIadd64] def execIsub64 (d a b : VReg) (s : State) : Res :=
  .next (s.lanes fun s l => s.setP l d.toNat ((s.rp l a.toNat + 2 ^ 64 - s.rp l b.toNat) % 2 ^ 64))
/-- ADDR: a 64-bit base and a signed 32-bit offset (R152). -/
def execAddr (d a b : VReg) (s : State) : Res :=
  .next (s.lanes fun s l => s.setP l d.toNat (wrap ((s.rp l a.toNat : Int) + (s.rv l b.toNat).toInt) 64))

/-! Logic and shifts (R153). -/

/-- SHL: the count is six bits; 32 and more give 0. -/
def shlW (a b : Word) : Word := a <<< (b.toNat % 64)
/-- SHR.N32. -/
def shrN (a b : Word) : Word := a >>> (b.toNat % 64)
/-- SHR.I32: a count of 32 and more is taken as 31. -/
def shrI (a b : Word) : Word := a.sshiftRight (min (b.toNat % 64) 31)
/-- The number of set bits. -/
def popcount (a : Word) : Word := toW ((List.range 32).countP fun k => a.getLsbD k)
/-- The number of leading zero bits. -/
def leadZeros (a : Word) : Word := toW (32 - (if a = 0 then 0 else a.toNat.log2 + 1))
/-- BFX: w bits from bit p, bits above 31 reading as 0. -/
def bfxW (a b : Word) : Word :=
  let p := b.toNat % 32
  let w := b.toNat / 256 % 32 + 1
  toW (a.toNat / 2 ^ p % 2 ^ w)
/-- BFI: bits p to p + w − 1 within [31:0] of d take the low bits of a. -/
def bfiW (d a b : Word) : Word :=
  let p := b.toNat % 32
  let w := b.toNat / 256 % 32 + 1
  let m : Word := toW ((2 ^ w - 1) * 2 ^ p)
  (d &&& ~~~m) ||| (toW (a.toNat * 2 ^ p) &&& m)

def execAnd (d a b : VReg) (s : State) : Res := bin (· &&& ·) d a b s
def execOr (d a b : VReg) (s : State) : Res := bin (· ||| ·) d a b s
def execXor (d a b : VReg) (s : State) : Res := bin (· ^^^ ·) d a b s
def execShl (d a b : VReg) (s : State) : Res := bin shlW d a b s
def execShrN32 (d a b : VReg) (s : State) : Res := bin shrN d a b s
def execShrI32 (d a b : VReg) (s : State) : Res := bin shrI d a b s
def execPopc (d a : VReg) (s : State) : Res := un popcount d a s
def execClz (d a : VReg) (s : State) : Res := un leadZeros d a s
def execBfx (d a b : VReg) (s : State) : Res := bin bfxW d a b s
/-- BFI reads its destination too (R153). -/
def execBfi (d a b : VReg) (s : State) : Res :=
  .next (s.lanes fun s l =>
    s.setV l d.toNat (bfiW (s.rv l d.toNat) (s.rv l a.toNat) (s.rv l b.toNat)))

/-! Immediates (R154). -/

/-- SExt(IMM, 12) modulo 2^32. -/
def imm32 (i : BitVec 12) : Word := i.signExtend 32

def execIaddi (d a : VReg) (i : BitVec 12) (s : State) : Res := un (· + imm32 i) d a s
def execAndi (d a : VReg) (i : BitVec 12) (s : State) : Res := un (· &&& imm32 i) d a s
def execOri (d a : VReg) (i : BitVec 12) (s : State) : Res := un (· ||| imm32 i) d a s
def execXori (d a : VReg) (i : BitVec 12) (s : State) : Res := un (· ^^^ imm32 i) d a s
def execShli (d a : VReg) (i : BitVec 5) (s : State) : Res := un (· <<< i.toNat) d a s
def execShri (d a : VReg) (i : BitVec 5) (s : State) : Res := un (· >>> i.toNat) d a s
def execMovi (d : VReg) (i : BitVec 12) (s : State) : Res := .next (s.lanes fun s l => s.setV l d.toNat (imm32 i))

/-- MOV copies bit for bit (R156). -/
def execMov (d a : VReg) (s : State) : Res := un (fun x => x) d a s

/-- SEL: v[A] where the condition holds in the set, v[B] elsewhere (R159). -/
def execSel (d a b : VReg) (c : BitVec 4) (n : BitVec 2) (s : State) : Res :=
  .next (s.lanes fun s l =>
    s.setV l d.toNat (if cond c (s.rcc l n.toNat) then s.rv l a.toNat else s.rv l b.toNat))

end Sys2Proof.Machine
end

