-- ==== Sys2Proof/Machine/Transcend.lean ====
section
/-!
DEFINITION. The special functions of R157, each the exact value rounded once to binary32 in RNE. Roots and quotients are
rounded from exact integer arithmetic. The transcendental functions are evaluated in fixed point to a bound, and to more
and more bits until both ends of the bound round alike.
-/

namespace Sys2Proof.Machine

/-- The floor of a square root, by Newton's method on a shrinking guess. -/
def isqrtGo : Nat → Nat → Nat → Nat
  | 0, _, g => g
  | k + 1, n, g =>
    let h := (g + n / g) / 2
    if h < g then isqrtGo k n h else g

/-- floor(√n). -/
def isqrt (n : Nat) : Nat := if n = 0 then 0 else isqrtGo 1200 n (2 ^ (n.log2 / 2 + 1))

/-- √(p / d) rounded in RNE to binary32: 60 more bits than the result keeps, with the remainder as a sticky bit. -/
def sqrtQ (p d : Nat) : Nat :=
  if p = 0 then 0
  else
    let k := 400
    let n := p * 2 ^ (2 * k) / d
    let r := isqrt n
    let exact := r * r == n && p * 2 ^ (2 * k) % d == 0
    roundQ f32 0 false (2 * r + (if exact then 0 else 1)) (2 ^ (k + 1))

/-! Fixed point with p fraction bits: integers scaled by 2^p. -/

/-- Sum of y^(2k+1) / (2k+1), k below n, with sign (−1)^k when `alt`: atanh, or atan. -/
def oddSeries (alt : Bool) (p : Nat) : Nat → Nat → Int → Int → Int → Int
  | 0, _, _, _, acc => acc
  | n + 1, k, yk, y2, acc =>
    let t := yk / (2 * k + 1 : Nat)
    oddSeries alt p n (k + 1) (yk * y2 / 2 ^ p) y2 (if alt && k % 2 == 1 then acc - t else acc + t)

/-- atanh(1/n) and atan(1/n) in fixed point. -/
def atInv (alt : Bool) (p n : Nat) : Int :=
  let y : Int := 2 ^ p / (n : Int)
  oddSeries alt p (p / 2 + 4) 0 y (2 ^ p / (n * n : Int)) 0

/-- ln 2. -/
def ln2 (p : Nat) : Int := 2 * atInv false p 3

/-- π, by Machin's formula. -/
def piFix (p : Nat) : Int := 16 * atInv true p 5 - 4 * atInv true p 239

/-- Sum of x^k / k!, terms from k on. -/
def expSeries (p : Nat) : Nat → Nat → Int → Int → Int → Int
  | 0, _, _, _, acc => acc
  | n + 1, k, t, x, acc => expSeries p n (k + 1) (t * x / 2 ^ p / (k + 1 : Nat)) x (acc + t)

/-- e^x for x in [0, 1). -/
def expFix (p : Nat) (x : Int) : Int := expSeries p (p / 2 + 8) 0 (2 ^ p) x 0

/-- Sum of (−1)^k x^(2k + o) / (2k + o)!: sine for o = 1, cosine for o = 0. -/
def trigSeries (p o : Nat) : Nat → Nat → Int → Int → Int → Int
  | 0, _, _, _, acc => acc
  | n + 1, k, t, x2, acc =>
    trigSeries p o n (k + 1) (-(t * x2 / 2 ^ p / ((2 * k + o + 1) * (2 * k + o + 2) : Nat))) x2 (acc + t)

/-- sin and cos for |x| below 1. -/
def sinFix (p : Nat) (x : Int) : Int := trigSeries p 1 (p / 2 + 8) 0 x (x * x / 2 ^ p) 0
@[inherit_doc sinFix] def cosFix (p : Nat) (x : Int) : Int := trigSeries p 0 (p / 2 + 8) 0 (2 ^ p) (x * x / 2 ^ p) 0

/-- An exact value in fixed point, rounded down. -/
def dyFix (p : Nat) (x : Dy) : Int :=
  let e := x.e + p
  if 0 ≤ e then x.m * 2 ^ e.toNat else x.m / 2 ^ (-e).toNat

/-- ln(m) for m = 1 + y in [1, 2), given in fixed point. -/
def lnFix (p : Nat) (m : Int) : Int :=
  let y := (m - 2 ^ p) * 2 ^ p / (m + 2 ^ p)
  2 * oddSeries false p (p / 2 + 4) 0 y (y * y / 2 ^ p) 0

/-- A fixed-point integer times 2^k, rounded to binary32 in RNE. -/
def roundFix (p : Nat) (x k : Int) : Nat := roundDy f32 0 ⟨x, k - p⟩ (x < 0)

/-- The value rounded at the first precision at which both ends of the bound x ± 2^24 units round alike; `f p` gives the
fixed-point value with p bits and its power of two. -/
def firstAgree (f : Nat → Int × Int) : List Nat → Nat
  | [] => f32.cnan
  | p :: ps =>
    let (x, k) := f p
    let a := roundFix p (x - 2 ^ 24) k
    if a = roundFix p (x + 2 ^ 24) k ∨ ps.isEmpty then a else firstAgree f ps

/-- The precisions tried. -/
def precisions : List Nat := [96, 160, 288, 544]

/-- 2^x for an exact x that is no integer. -/
def exp2Dy (x : Dy) : Nat :=
  let n : Int := dyFix 0 x
  firstAgree (fun p =>
    let fr := dyFix p x - n * 2 ^ p
    (expFix p (fr * ln2 p / 2 ^ p), n)) precisions

/-- EXP2 of a value (R157). -/
def exp2V : FVal → Nat
  | .nan => f32.cnan
  | .inf true => 0
  | .inf false => encInf f32 false
  | .fin n m e =>
    let x := dyOf n m e
    if m = 0 then 0x3F800000
    else if (x.lt ⟨-152, 0⟩ : Bool) then 0
    else if (!(x.lt ⟨128, 0⟩) : Bool) then encInf f32 false
    else if (x.lt ⟨1, -27⟩ && (Dy.mk (-1) (-27)).lt x : Bool) then 0x3F800000
    else
      let n : Int := dyFix 0 x
      if (Dy.add x ⟨-n, 0⟩).m = 0 then roundDy f32 0 ⟨1, n⟩ false else exp2Dy x

/-- LOG2 of a value. -/
def log2V : FVal → Nat
  | .nan => f32.cnan
  | .inf true => f32.cnan
  | .inf false => encInf f32 false
  | .fin n m e =>
    if m = 0 then encInf f32 true
    else if n then f32.cnan
    else
      let k := m.log2
      let ex : Int := e + k
      if m = 2 ^ k then roundDy f32 0 ⟨ex, 0⟩ false
      else firstAgree (fun p => (ex * 2 ^ p + lnFix p (dyFix p ⟨m, -(k : Int)⟩) * 2 ^ p / ln2 p, 0)) precisions

/-- SIN (`c` false) or COS of an exact non-zero value, with exact reduction by multiples of π/2. -/
def trigDy (c : Bool) (x : Dy) : Nat :=
  firstAgree (fun p =>
    let q := p + 160
    let hp := piFix q / 2
    let xf := dyFix q x
    let k := (2 * xf + hp) / (2 * hp)
    let r := (xf - k * hp) / 2 ^ 160
    let j := (if c then k + 1 else k) % 4
    let v := if j % 2 = 0 then sinFix p r else cosFix p r
    (if j < 2 then v else -v, 0)) precisions

/-- SIN of a value. -/
def sinV : FVal → Nat
  | .fin n m e =>
    let x := dyOf n m e
    if m = 0 then encZero f32 n
    else if (x.lt ⟨1, -13⟩ && (Dy.mk (-1) (-13)).lt x : Bool) then roundDy f32 0 x n
    else trigDy false x
  | _ => f32.cnan

/-- COS of a value. -/
def cosV : FVal → Nat
  | .fin n m e =>
    let x := dyOf n m e
    if (x.lt ⟨1, -13⟩ && (Dy.mk (-1) (-13)).lt x : Bool) then 0x3F800000 else trigDy true x
  | _ => f32.cnan

/-- TANH of a value: (E − 1) / (E + 1) with E = e^(2|x|). -/
def tanhV : FVal → Nat
  | .nan => f32.cnan
  | .inf n => signBit f32 n + 0x3F800000
  | .fin n m e =>
    let x := dyOf n m e
    let a : Dy := ⟨m, e⟩
    if m = 0 then encZero f32 n
    else if (a.lt ⟨1, -13⟩ : Bool) then roundDy f32 0 x n
    else if (!(a.lt ⟨10, 0⟩) : Bool) then signBit f32 n + 0x3F800000
    else signBit f32 n + firstAgree (fun p =>
      let y := 2 * dyFix p a
      let l := ln2 p
      let k := y / l
      let ee := expFix p (y - k * l) * 2 ^ k.toNat
      ((ee - 2 ^ p) * 2 ^ p / (ee + 2 ^ p), 0)) precisions

/-- RCP of a value. -/
def rcpV : FVal → Nat
  | .nan => f32.cnan
  | .inf n => encZero f32 n
  | .fin n m e =>
    if m = 0 then encInf f32 n
    else
      let (p, d) := scaleBy 1 m e
      roundQ f32 0 n p d

/-- SQRT of a value. -/
def sqrtV : FVal → Nat
  | .nan => f32.cnan
  | .inf n => if n then f32.cnan else encInf f32 false
  | .fin n m e =>
    if m = 0 then encZero f32 n
    else if n then f32.cnan
    else
      let (p, d) := scaleBy m 1 (-e)
      sqrtQ p d

/-- RSQRT of a value. -/
def rsqrtV : FVal → Nat
  | .nan => f32.cnan
  | .inf n => if n then f32.cnan else 0
  | .fin n m e =>
    if m = 0 then encInf f32 n
    else if n then f32.cnan
    else
      let (p, d) := scaleBy 1 m e
      sqrtQ p d

end Sys2Proof.Machine
end

