-- ==== Sys2Proof/Machine/FloatArith.lean ====
section
/-!
DEFINITION. Vector floating-point instructions (R151, R155 to R157).
-/

namespace Sys2Proof.Machine

/-- TEAM.FPCTL.FTZ32 and FTZ16 as they stood at the issue (R116). -/
def State.ftz32 (s : State) : Bool := s.iss.fpctl0.getLsbD 0
@[inherit_doc State.ftz32] def State.ftz16 (s : State) : Bool := s.iss.fpctl0.getLsbD 1

/-- The two 16-bit halves of a result, from an operation on halves (R155). -/
def halves2 (f : Nat → Nat → Nat) (a b : Word) : Word :=
  toW (f (a.toNat % 2 ^ 16) (b.toNat % 2 ^ 16) + 2 ^ 16 * f (a.toNat / 2 ^ 16) (b.toNat / 2 ^ 16))

@[inherit_doc halves2] def halves3 (f : Nat → Nat → Nat → Nat) (a b d : Word) : Word :=
  toW (f (a.toNat % 2 ^ 16) (b.toNat % 2 ^ 16) (d.toNat % 2 ^ 16)
    + 2 ^ 16 * f (a.toNat / 2 ^ 16) (b.toNat / 2 ^ 16) (d.toNat / 2 ^ 16))

/-- An operation on f32 words. -/
def onF32 (f : Nat → Nat → Nat) (a b : Word) : Word := toW (f a.toNat b.toNat)

/-- A result from three sources, the third the destination's old value. -/
def tri (f : Word → Word → Word → Word) (d a b : VReg) (s : State) : Res :=
  .next (s.lanes fun s l => s.setV l d.toNat (f (s.rv l a.toNat) (s.rv l b.toNat) (s.rv l d.toNat)))

def execFaddF32 (r : BitVec 2) (d a b : VReg) (s : State) : Res := bin (onF32 (fAdd f32 r.toNat s.ftz32)) d a b s
def execFsubF32 (r : BitVec 2) (d a b : VReg) (s : State) : Res := bin (onF32 (fSub f32 r.toNat s.ftz32)) d a b s
def execFmulF32 (r : BitVec 2) (d a b : VReg) (s : State) : Res := bin (onF32 (fMul f32 r.toNat s.ftz32)) d a b s
def execFfmaF32 (r : BitVec 2) (d a b : VReg) (s : State) : Res :=
  tri (fun a b d => toW (fFma f32 r.toNat s.ftz32 a.toNat b.toNat d.toNat)) d a b s
def execFaddF16x2 (r : BitVec 2) (d a b : VReg) (s : State) : Res := bin (halves2 (fAdd f16 r.toNat s.ftz16)) d a b s
def execFmulF16x2 (r : BitVec 2) (d a b : VReg) (s : State) : Res := bin (halves2 (fMul f16 r.toNat s.ftz16)) d a b s
def execFfmaF16x2 (r : BitVec 2) (d a b : VReg) (s : State) : Res := tri (halves3 (fFma f16 r.toNat s.ftz16)) d a b s
def execFaddBf16x2 (r : BitVec 2) (d a b : VReg) (s : State) : Res := bin (halves2 (fAdd bf16 r.toNat s.ftz16)) d a b s
def execFmulBf16x2 (r : BitVec 2) (d a b : VReg) (s : State) : Res := bin (halves2 (fMul bf16 r.toNat s.ftz16)) d a b s
def execFfmaBf16x2 (r : BitVec 2) (d a b : VReg) (s : State) : Res := tri (halves3 (fFma bf16 r.toNat s.ftz16)) d a b s

def execFminF32 (d a b : VReg) (s : State) : Res := bin (onF32 (fMinMax f32 false s.ftz32)) d a b s
def execFmaxF32 (d a b : VReg) (s : State) : Res := bin (onF32 (fMinMax f32 true s.ftz32)) d a b s
def execFminF16x2 (d a b : VReg) (s : State) : Res := bin (halves2 (fMinMax f16 false s.ftz16)) d a b s
def execFmaxF16x2 (d a b : VReg) (s : State) : Res := bin (halves2 (fMinMax f16 true s.ftz16)) d a b s

/-- FABS: bit 31 cleared; a NaN gives the canonical NaN (R156). -/
def fabsW (a : Word) : Word := if isNan32 a.toNat then toW f32.cnan else a &&& 0x7FFFFFFF
/-- FNEG: bit 31 inverted; a NaN gives the canonical NaN. -/
def fnegW (a : Word) : Word := if isNan32 a.toNat then toW f32.cnan else a ^^^ 0x80000000

def execFabsF32 (d a : VReg) (s : State) : Res := un fabsW d a s
def execFnegF32 (d a : VReg) (s : State) : Res := un fnegW d a s
def execFclassF32 (d a : VReg) (s : State) : Res := un (fun x => toW (fClass x.toNat)) d a s

/-- The set that FCMP.F32 writes (R151). -/
def ccFcmp (ftz : Bool) (a b : Word) : BitVec 4 :=
  let x := srcF f32 ftz a.toNat
  let y := srcF f32 ftz b.toNat
  if x = .nan ∨ y = .nan then mkCc false false false true
  else if ltV x y then mkCc false false true false
  else if ltV y x then mkCc true false false false
  else mkCc true true false false

def execFcmpF32 (c : BitVec 2) (a b : VReg) (s : State) : Res :=
  .next (s.lanes fun s' l => s'.setCc l c.toNat (ccFcmp s.ftz32 (s'.rv l a.toNat) (s'.rv l b.toNat)))

/-! Special functions (R157): the destination is marked empty at issue and filled by LATE_RESULT_FILL. -/

/-- A late result of each active lane, computed at the issue: marked empty now, written when the event comes (R147). -/
def late (f : Nat → Word) (d : VReg) (s : State) : Res :=
  let s := s.markEmpty d.toNat 1
  .next { s with lates := s.lates ++ s.iss.lanes.map fun l => ⟨s.iss.uid, s.tOf l, [(d.toNat, f l)], false, none⟩ }

/-- A special function of one source, with the flush of R116 on source and result. -/
def special (f : FVal → Nat) (d a : VReg) (s : State) : Res :=
  late (fun l => toW (flushF f32 s.ftz32 (f (srcF f32 s.ftz32 (s.rv l a.toNat).toNat)))) d s

def execRcpF32 (d a : VReg) (s : State) : Res := special rcpV d a s
def execRsqrtF32 (d a : VReg) (s : State) : Res := special rsqrtV d a s
def execSqrtF32 (d a : VReg) (s : State) : Res := special sqrtV d a s
def execExp2F32 (d a : VReg) (s : State) : Res := special exp2V d a s
def execLog2F32 (d a : VReg) (s : State) : Res := special log2V d a s
def execSinF32 (d a : VReg) (s : State) : Res := special sinV d a s
def execCosF32 (d a : VReg) (s : State) : Res := special cosV d a s
def execTanhF32 (d a : VReg) (s : State) : Res := special tanhV d a s
def execFdivF32 (d a b : VReg) (s : State) : Res :=
  late (fun l => toW (fDiv f32 s.ftz32 (s.rv l a.toNat).toNat (s.rv l b.toNat).toNat)) d s

end Sys2Proof.Machine
end

