-- ==== Sys2Proof/Machine/Convert.lean ====
section
/-!
DEFINITION. CVT (R158), block packing and unpacking (R111, R113, R114, R160, R161).
-/

namespace Sys2Proof.Machine

/-- The float formats by the codes 0 to 7 that R110 and R158 share. -/
def fmtOf (c : Nat) : FFmt :=
  match c with
  | 0 => f32
  | 1 => f19
  | 2 => bf16
  | 3 => f16
  | 4 => e5m2
  | 5 => e4m3
  | 6 => e3m2
  | _ => e2m3

/-- The width in bits of a float format, F19 as stored. -/
def fmtBits (c : Nat) : Nat :=
  match c with
  | 0 => 32
  | 1 => 32
  | 2 => 16
  | 3 => 16
  | 4 => 8
  | 5 => 8
  | _ => 6

/-- The integer types of R158: width, whether signed. -/
def intOf (c : Nat) : Nat × Bool :=
  match c with
  | 8 => (8, true)
  | 9 => (8, false)
  | 10 => (16, true)
  | 11 => (16, false)
  | 12 => (32, true)
  | 13 => (32, false)
  | 14 => (64, true)
  | _ => (64, false)

/-- The limits of an integer type. -/
def intLo (w : Nat) (sg : Bool) : Int := if sg then -(2 ^ (w - 1) : Nat) else 0
@[inherit_doc intLo] def intHi (w : Nat) (sg : Bool) : Int := if sg then (2 ^ (w - 1) : Nat) - 1 else (2 ^ w : Nat) - 1

/-- Does format g hold every value of format f, so that conversion is to a wider format and exact (R118)? -/
def holdsF (f g : FFmt) : Bool := f.fb ≤ g.fb && f.eb ≤ g.eb

/-- One CVT (R118, R158): the source value to the target's bits, or none where CVT_OVERFLOW is raised. An integer result
is given as its two's-complement value. -/
def cvt1 (ftz : Bool) (ovf rnd dst src : Nat) (x : Nat) : Option Int :=
  let fromV (v : FVal) : Option Int :=
    if dst < 8 then
      match convF (fmtOf dst) rnd ovf ftz v with
      | .ok y => some y
      | .trap => none
    else
      let (w, sg) := intOf dst
      convI (intLo w sg) (intHi w sg) rnd ovf v
  if src < 8 then
    let f := fmtOf src
    let y := x % 2 ^ fmtBits src
    if src = dst then
      match decodeF f y with
      | .nan => some f.cnan
      | _ => some (flushF f ftz (y / 2 ^ f.sh * 2 ^ f.sh) : Nat)
    else
      match srcF f ftz y with
      | .inf n => if dst < 8 && holdsF f (fmtOf dst) then some (encInf (fmtOf dst) n) else fromV (.inf n)
      | v => fromV v
  else
    let (w, sg) := intOf src
    let v : Int := if sg then sext x w else (x % 2 ^ w : Nat)
    fromV (.fin (v < 0) v.natAbs 0)

/-- CVT (R158). A target of 64 bits writes a pair; narrow integers are sign- or zero-extended. An overflow under policy
11 raises CVT_OVERFLOW for the lowest such lane, and nothing is written. -/
def execCvt (d a : VReg) (ftz : Bool) (ovf rnd : BitVec 2) (dst src : BitVec 4) (s : State) : Res :=
  let val (l : Nat) : Nat := if 14 ≤ src.toNat then s.rp l a.toNat else (s.rv l a.toNat).toNat
  let out (l : Nat) : Option Int := cvt1 ftz ovf.toNat rnd.toNat dst.toNat src.toNat (val l)
  match s.iss.lanes.find? fun l => (out l).isNone with
  | some l => raise { cause := .cvtOverflow, lane := l } s
  | none =>
    .next (s.lanes fun s l =>
      let r := (out l).getD 0
      if 14 ≤ dst.toNat then s.setP l d.toNat (wrap r 64) else s.setV l d.toNat (ofInt r))

/-! Block formats: `fmt` 12 Q8, 13 Q6A, 14 Q6B, 15 Q4. -/

/-- The element format of Q8, Q6A and Q6B. -/
def blkElem (fmt : Nat) : FFmt := if fmt = 12 then e4m3 else if fmt = 13 then e2m3 else e3m2

/-- Element width in bits, and words of a block of 32 elements (R160). -/
def blkBits (fmt : Nat) : Nat := if fmt = 12 then 8 else if fmt = 15 then 4 else 6

/-- The magnitudes of codes 0 to 7 of a Q4 type, in eighths (R114), with the step beyond the top (R160). -/
def q4Mags (ty : Nat) : List Nat :=
  match ty with
  | 0 => [0, 8, 16, 24, 32, 40, 48, 56]
  | 1 => [0, 4, 8, 12, 16, 24, 32, 48]
  | 2 => [0, 1, 2, 4, 8, 16, 32, 64]
  | _ => [0, 8, 16, 24, 32, 48, 64, 96]

/-- The value of a Q4 code in eighths, as sign and magnitude (R114). -/
def q4Val (ty c : Nat) : Bool × Nat :=
  if ty = 0 then (if c < 8 then (false, 8 * c) else (true, 8 * (16 - c)))
  else (8 ≤ c, (q4Mags ty).getD (c % 8) 0)

/-- The values of an element of a block, with its scale byte (R113, R114). -/
def blkVal (fmt sb c : Nat) : FVal :=
  if fmt = 15 then
    let (n, m) := q4Val (sb / 64) c
    .fin n m ((sb % 64 : Int) - 32 - 3)
  else if sb = 255 then .nan
  else
    match decodeF (blkElem fmt) c with
    | .fin n m e => .fin n m (e + (sb : Int) - 127)
    | v => v

/-- The codes of a Q4 sign, ascending in magnitude, with their magnitudes in eighths; the last is the step beyond. -/
def q4Ladder (ty : Nat) (neg : Bool) : List (Nat × Nat) :=
  if ty = 0 then
    if neg then (0, 0) :: ((List.range 8).map fun k => (15 - k, 8 * (k + 1))) ++ [(16, 72)]
    else ((List.range 8).map fun k => (k, 8 * k)) ++ [(16, 64)]
  else
    ((q4Mags ty).zipIdx.map fun (m, k) => (if neg then k + 8 else k, m))
      ++ [(16, if ty = 1 then 64 else 128)]

/-- The neighbours of magnitude p/d (in eighths) on a ladder: the last at or below it and the next above. -/
def ladderAt (p d : Nat) : List (Nat × Nat) → (Nat × Nat) × (Nat × Nat)
  | a :: b :: rest => if b.2 * d ≤ p ∧ !rest.isEmpty then ladderAt p d (b :: rest) else (a, b)
  | [a] => (a, a)
  | [] => ((0, 0), (0, 0))

/-- A Q4 code for the exact value (−1)^neg × p/d eighths, under R118 and R160; none where policy 11 traps. -/
def q4Enc (ty rnd ovf : Nat) (neg : Bool) (p d : Nat) : Option Nat :=
  let lad := q4Ladder ty neg
  let (a, b) := ladderAt p d lad
  let top := (lad.dropLast.getLast?).getD (0, 0)
  let c : Nat :=
    if p ≤ a.2 * d then a.1
    else if b.2 * d ≤ p then b.1
    else
      match rnd with
      | 0 =>
        let l := 2 * p
        let m := (a.2 + b.2) * d
        if l < m then a.1 else if m < l then b.1
        else if b.1 = 16 then 16 else if a.1 % 2 = 0 then a.1 else b.1
      | 1 => a.1
      | 2 => if neg then b.1 else a.1
      | _ => if neg then a.1 else b.1
  if c = 16 ∨ lad.getLast?.all (fun e => e.2 * d < p) then (if ovf = 3 then none else some top.1) else some c

/-- The scale byte of PACK (R160) from the largest finite magnitude p/d (0 when all are zero). -/
def packScale (fmt ty : Nat) (amax : Option (Nat × Nat)) : Nat :=
  let emax : Int := if fmt = 12 then 8 else if fmt = 13 then 2 else if fmt = 14 then 4 else if ty < 2 then 2 else 3
  match amax with
  | none => if fmt = 15 then ty * 64 + 32 else 127
  | some (p, d) =>
    let f := flog2 p d
    if fmt = 15 then ty * 64 + (sat (f - emax + 32) 0 63).toNat else (sat (f - emax + 127) 0 254).toNat

/-- The magnitude of a finite non-zero f32 as p/d. -/
def mag32 (x : Nat) : Option (Nat × Nat) :=
  match decodeF f32 x with
  | .fin _ m e => if m = 0 then none else some (scaleBy m 1 (-e))
  | _ => none

/-- The larger of two magnitudes. -/
def magMax (a b : Option (Nat × Nat)) : Option (Nat × Nat) :=
  match a, b with
  | none, b => b
  | a, none => a
  | some x, some y => if x.1 * y.2 < y.1 * x.2 then some y else some x

/-- One element of PACK: its code, or none where policy 11 traps. -/
def packElem (fmt ty rnd ovf sb : Nat) (x : Nat) : Option Nat :=
  match decodeF f32 x with
  | .nan => if fmt = 12 then some 0x7F else if ovf = 3 then none else some 0
  | .inf n =>
    if fmt = 15 then (if ovf = 3 then none else some (((q4Ladder ty n).dropLast.getLast?).getD (0, 0)).1)
    else
      match convF (blkElem fmt) rnd ovf false (.inf n) with
      | .ok y => some y
      | .trap => none
  | .fin n m e =>
    if fmt = 15 then
      if m = 0 then some (if n ∧ ty ≠ 0 then 8 else 0)
      else
        let (p, d) := scaleBy m 1 (-(e - ((sb % 64 : Int) - 32) + 3))
        q4Enc ty rnd ovf n p d
    else
      match convF (blkElem fmt) rnd ovf false (.fin n m (e - ((sb : Int) - 127))) with
      | .ok y => some y
      | .trap => none

/-- PACK (R160), gang-collective: lane L holds element L; inactive lanes contribute +0. Word k of the block goes to
lane k, the scale byte to lane w, zero to the other active lanes. -/
def execPack (d a : VReg) (ovf rnd qtype : BitVec 2) (fmt : BitVec 4) (s : State) : Res :=
  let f := fmt.toNat
  let xs := (List.range 32).map fun l => if s.iss.lanes.contains l then (s.rv l a.toNat).toNat else 0
  let amax := xs.foldl (fun acc x => magMax acc (mag32 x)) none
  let sb := packScale f qtype.toNat amax
  let cs := xs.map (packElem f qtype.toNat rnd.toNat ovf.toNat sb)
  match s.iss.lanes.find? fun l => (cs.getD l none).isNone with
  | some l => raise { cause := .cvtOverflow, lane := l } s
  | none =>
    let n := blkBits f
    let block := cs.zipIdx.foldl (fun acc (c, k) => acc + c.getD 0 * 2 ^ (n * k)) 0
    let sb := if (f = 13 ∨ f = 14) ∧ xs.any isNan32 then 255 else sb
    .next (s.lanes fun s l =>
      s.setV l d.toNat (if l < n then toW (block / 2 ^ (32 * l)) else if l = n then toW sb else 0))

/-- UNPACK (R161), gang-collective. -/
def execUnpack (d a : VReg) (fmt : BitVec 4) (s : State) : Res :=
  let f := fmt.toNat
  let n := blkBits f
  let word (k : Nat) : Nat := if s.iss.lanes.contains k then (s.rv k a.toNat).toNat else 0
  let block := (List.range n).foldl (fun acc k => acc + word k * 2 ^ (32 * k)) 0
  let sb := word n % 256
  .next (s.lanes fun s' l =>
    s'.setV l d.toNat (toW (flushF f32 s.ftz32 (roundV f32 0 (blkVal f sb (block / 2 ^ (n * l) % 2 ^ n))))))

end Sys2Proof.Machine
end

