-- ==== Sys2Proof/Machine/TeamEnd.lean ====
section
/-!
DEFINITION. The end of a team (R42): its statistics (R124, R125), its reservations (R56), its registers and storage; and
what a launch counts of it (R52).
-/

namespace Sys2Proof.Machine

/-! Statistics. -/

/-- One counter kind: 0 SATURATE, 1 FLUSH, 2 NAN, 3 INFINITE (R124). -/
def State.countStat (s : State) (u tensor kind n : Nat) : State :=
  let tm := s.team u
  let k := tensor * 4 + kind
  if n = 0 then s
  else s.setTeam u { tm with stats := NMap.put tm.stats k ((NMap.get 0 tm.stats k + n) % 2 ^ 64) }

/-- One 64-bit addition at package scope; the cause where it fails. -/
def State.addStat (s : State) (u va n : Nat) : Except Cause State :=
  let tm := s.team u
  if isDomain va ∨ !canonical va then .error .access
  else
    match s.xlat tm.core tm.slice tm.priv false .write va with
    | .error c => .error c
    | .ok e =>
      match s.performLocal tm.core u 0 (.atom .add 2) e va 8 n 0 7 with
      | (s, some _) => .ok s
      | (_, none) => .error .memUe

/-- The additions in rising order, up to the first that fails: the state, and the failure with its address. -/
def State.addStatsGo (s : State) (u base : Nat) : List (Nat × Nat) → State × Option (Cause × Nat)
  | [] => (s, none)
  | (k, n) :: rest =>
    if n = 0 then s.addStatsGo u base rest
    else
      let va := base + 8 * k
      match s.addStat u va n with
      | .ok s => s.addStatsGo u base rest
      | .error c => (s, some (c, va))

/-- A team adds its counters to the statistics area and restarts them from zero; a failure posts one KIND 4 entry, of a write
(R125). For a word on a poisoned line, whose cause R125 does not name, the entry carries MEM_UE (DESIGN CHOICE, log 56). -/
def State.addStats (s : State) (u : Nat) : State :=
  let tm := s.team u
  let base := (s.launch tm.launch).stats
  let some' := tm.stats.any fun e => e.2 != 0
  let clear (s : State) := s.setTeam u { s.team u with stats := [] }
  if base = 0 ∨ !some' then clear s
  else if base % 4096 ≠ 0 then
    clear (s.report tm.slice { kind := 4, launch := tm.launch, detail := causeOnly .align + 2 ^ 29, addr := base })
  else
    match s.addStatsGo u base tm.stats with
    | (s, none) => clear s
    | (s, some (c, va)) => clear (s.report tm.slice { kind := 4, launch := tm.launch, detail := causeOnly c + 2 ^ 29, addr := va })

/-! The end of a team. -/

/-- Has a team engine operations that have not reached their completion objects (R42, R103)? A traversal suspended at a
fault is none (R331). -/
def State.engineBusy (s : State) (u : Nat) : Bool :=
  (s.team u).chans.any (fun e => !e.2.queue.isEmpty)
  || s.parts.any (·.uid == u) || s.fins.any (·.1 == u) || s.mops.any (·.uid == u) || s.imgs.any (·.uid == u)
  || s.samples.any (·.uid == u) || s.routes.any (·.uid == u)
  || s.sorts.any (·.uid == u) || s.rasts.any (·.uid == u) || s.rastFls.any (·.uid == u)
  || s.heads.any (fun h => h.2.pend.any (·.uid == u)) || s.colls.any (fun c => c.uid == u && c.fate == 0)
  || (List.range (s.team u).n).any fun t => match (s.thr u t).trav with | some v => v.fault.isNone | none => false

/-- Removes a team's registers, threads and storage, and the results on their way to them. -/
def State.dropTeam (s : State) (u : Nat) : State :=
  let off {α : Type} (d : Nat) (m : NMap α) : NMap α := NMap.drop (fun k => k / d == u) m
  { s with
    v := off 65536 s.v, empty := off 65536 s.empty, cc := off 4096 s.cc, u := off 1024 s.u, upend := off 1024 s.upend,
    threads := off 1024 s.threads, oplogs := off 32 s.oplogs, scratch := off (2 ^ 20) s.scratch, tiles := off 16 s.tiles,
    loads := s.loads.filter (·.uid != u), scrLoads := s.scrLoads.filter (·.uid != u),
    lates := s.lates.filter (·.uid != u), nodeCache := s.nodeCache.filter (·.uid != u), teams := NMap.drop (· == u) s.teams }

/-- Slots of a node's queue reserved or released (R56). -/
def State.addResv (s : State) (l node : Nat) (f : Nat → Nat) : State :=
  let ln := s.launch l
  s.setLaunch l { ln with nodes := (ln.nodes.zipIdx).map fun (x : GNode × Nat) =>
    if x.2 = node then { x.1 with resv := f x.1.resv } else x.1 }

/-- Releases the reservations that a team has not used (R56). -/
def State.releaseResv (s : State) (u : Nat) : State :=
  let tm := s.team u
  let ln := s.launch tm.launch
  (ln.edges.zipIdx).foldl (fun s (e, k) =>
    if e.src = tm.node then s.addResv tm.launch e.dst fun r => r - (e.maxEmit - NMap.get 0 tm.emitted k) else s) s

/-- A team ends (R42): its pending atomics are performed, its statistics added, its writes published, its reservations
released; the launch counts the run (R52). Whether a drain took longer than its bound (R65) is a free value. -/
def State.endTeam (s : State) (u : Nat) : State :=
  let s := (List.range (s.team u).gangs).foldl (fun s g => s.drainGang u g) s
  let s := s.addStats u
  let tm := s.team u
  let s := (s.publish tm.core 11 u 0).releaseResv u
  let ln := s.launch tm.launch
  let s := (s.setLaunch tm.launch { ln with runs := (ln.runs + 1) % 2 ^ 48 }).dropTeam u
  if tm.drain ∧ Config.freeWord ((s.tick * 2 ^ 32 + u) * 4 + 3) % 2 = 1 then s.setSysBit 0x22 (s.lead tm.slice) 28 else s

/-- Ends a team that meets R42; one with faults still to post or to answer does not end (R350). -/
def State.testEnd (s : State) (u : Nat) : State :=
  let tm := s.team u
  if tm.live && (s.liveThreads u).isEmpty && !s.engineBusy u && tm.open_.isEmpty
      && (match tm.stop with | some st => st.faults.isEmpty | none => true) then s.endTeam u else s

/-- What a completed engine operation may let happen: a barrier release that waited for it (R187), the team's end. -/
def State.engineDone (s : State) (u : Nat) : State := if (s.team u).live then (s.retestBars u).testEnd u else s

end Sys2Proof.Machine
end

