-- ==== Sys2Proof/Machine/Control.lean ====
section
/-!
DEFINITION. Control: packet arithmetic (R127), branches, calls and jumps (R175 to R179), MEET, SPRD and SPWR (R180, R181),
EXIT, NOP, YIELD, ELECT (R182, R183), barriers, CARVE and PHASE (R184 to R188), TRAP, SVC and ERET (R195, R196), and the
trap of an unassigned opcode (R131).
-/

namespace Sys2Proof.Machine

/-! Packets. -/

/-- Is an address that of a packet: bits [5:0] are 4, 16, 28, 40 or 52 (R127)? -/
def packetAddr (a : Nat) : Bool := let o := a % 64; o == 4 || o == 16 || o == 28 || o == 40 || o == 52

/-- The index of a packet, and the packet of an index (R127). -/
def pIdx (pc : Nat) : Nat := pc / 64 * 5 + (pc % 64 - 4) / 12
@[inherit_doc pIdx] def packetAt (n : Nat) : Nat := n / 5 * 64 + 4 + 12 * (n % 5)

/-- The number of packet indices (R175). -/
def pIdxEnd : Nat := 2 ^ 57 / 64 * 5

/-- The packet after a packet; the last is followed by the first. -/
def nextPacket (pc : Nat) : Nat := packetAt ((pIdx pc + 1) % pIdxEnd)

/-- The packet of a position, and its word index. -/
def posPacket (pos : Nat) : Nat := pos / 4 * 4
@[inherit_doc posPacket] def posWord (pos : Nat) : Nat := pos % 4

/-- A code address as a 64-bit local address (R73): bits [62:57] repeat bit 56. -/
def fullAddr (a : Nat) : Nat := if nbit a 56 then a + 63 * 2 ^ 57 else a

/-- The address of the packet that issues. -/
def State.pc (s : State) : Nat := posPacket s.iss.pos

/-- The packet at a signed packet offset; none where its index lies outside the range of R175. -/
def State.offTarget (s : State) (off : BitVec 24) : Option Nat :=
  let i : Int := pIdx s.pc + off.toInt
  if i < 0 ∨ (pIdxEnd : Int) ≤ i then none else some (packetAt i.toNat)

/-- Transfers lanes to a packet offset, or raises ALIGN at the lowest lane that takes the transfer (R175). -/
def transfer (off : BitVec 24) (taken : List Nat) (s : State) : Res :=
  match taken with
  | [] => .next s
  | l :: _ =>
    match s.offTarget off with
    | none => raise { cause := .align, lane := l } s
    | some p => .next (taken.foldl (fun s l => s.goto l p) s)

/-- The link of a call: the packet after the one that issues. -/
def State.link (s : State) : Nat := fullAddr (nextPacket s.pc)

/-! Branches, calls and jumps. -/

/-- BRA (R176). -/
def execBra (off : BitVec 24) (s : State) : Res := transfer off s.iss.lanes s

/-- CALL (R176): links in v0:v1. -/
def execCall (off : BitVec 24) (s : State) : Res :=
  match s.offTarget off with
  | none => raise { cause := .align, lane := s.low } s
  | some p => .next (s.lanes fun s l => (s.setP l 0 s.link).goto l p)

/-- BRC (R177). -/
def execBrc (a : VReg) (c : BitVec 4) (set : BitVec 2) (rz : Bool) (off : BitVec 24) (s : State) : Res :=
  transfer off (s.iss.lanes.filter fun l =>
    if rz then (if c = 0 then s.rv l a.toNat == 0 else s.rv l a.toNat != 0) else cond c (s.rcc l set.toNat)) s

/-- The check of an indirect target (R178). -/
def targetCheck (lane va : Nat) : Option Trap :=
  if nbit va 63 ∨ !canonical va then some { cause := .access, lane := lane, addr := va }
  else if !packetAddr va then some { cause := .align, lane := lane, addr := va }
  else none

/-- JMP and RET (R178): each lane goes to its target. -/
def jumpTo (a : VReg) (s : State) : Res :=
  match s.iss.lanes.findSome? fun l => targetCheck l (s.rp l a.toNat) with
  | some t => raise t s
  | none => .next (s.lanes fun s l => s.goto l (s.rp l a.toNat % 2 ^ 57))

def execJmp (a : VReg) (s : State) : Res := jumpTo a s
def execRet (a : VReg) (s : State) : Res := jumpTo a s

/-- CALLR (R178). -/
def execCallr (d a : VReg) (s : State) : Res :=
  match s.iss.lanes.findSome? fun l => targetCheck l (s.rp l a.toNat) with
  | some t => raise t s
  | none => .next (s.lanes fun s l => (s.setP l d.toNat s.link).goto l (s.rp l a.toNat % 2 ^ 57))

/-! Meeting and special registers. -/

/-- Sets the meeting address of an active lane. -/
def State.setMeet (s : State) (l m : Nat) : State := s.setThL l { s.thL l with meet := m }

/-- MEET (R180): then every meeting of the gang is tested. -/
def execMeet (clr : Bool) (off : BitVec 24) (s : State) : Res :=
  if clr then .next ((s.lanes fun s l => s.setMeet l 0).retestGang s.iss.uid s.iss.gang)
  else
    match s.offTarget off with
    | none => raise { cause := .align, lane := s.low } s
    | some p => .next ((s.lanes fun s l => s.setMeet l p).retestGang s.iss.uid s.iss.gang)

/-- The special registers by selector (R31, R137). -/
def State.special (s : State) (l sel : Nat) : Word :=
  let tm := s.cur
  let t := s.tOf l
  toW (match sel with
    | 0 => t % tm.sx
    | 1 => t / tm.sx % tm.sy
    | 2 => t / (tm.sx * tm.sy)
    | 3 => t
    | 4 => tm.tx
    | 5 => tm.ty
    | 6 => tm.tz
    | 7 => tm.tlin
    | 8 => tm.stage
    | 9 => s.iss.gang
    | 10 => l / 4
    | 11 => l
    | 12 => s.pc
    | _ => (s.thL l).meet)

/-- SPRD (R181). -/
def execSprd (d : VReg) (sel : BitVec 6) (s : State) : Res :=
  .next (s.lanes fun s l => s.setV l d.toNat (s.special l sel.toNat))

/-- SPWR %meet (R181). -/
def execSpwr (b : VReg) (s : State) : Res :=
  let x (l : Nat) := (s.rv l b.toNat).toNat
  match s.iss.lanes.find? fun l => x l != 0 && !packetAddr (x l) with
  | some l => raise { cause := .align, lane := l, addr := s.pc / 2 ^ 32 * 2 ^ 32 + x l } s
  | none =>
    .next ((s.lanes fun s l => s.setMeet l (if x l = 0 then 0 else s.pc / 2 ^ 32 * 2 ^ 32 + x l)).retestGang
      s.iss.uid s.iss.gang)

/-! EXIT, NOP, YIELD, ELECT. -/

/-- EXIT (R182). -/
def execExit (s : State) : Res := .next ((s.exitThreads s.iss.uid (s.iss.lanes.map s.tOf)).testEnd s.iss.uid)

/-- NOP (R183). -/
def execNop (s : State) : Res := .next s

/-- YIELD (R183): the fragment is not ready until the event YIELD_EXPIRY. -/
def execYield (s : State) : Res := .next (s.lanes fun s l => s.setThL l { s.thL l with sleep := true })

/-- EVENT YIELD_EXPIRY (R183). -/
def execYieldExpiry (u g f : Nat) (s : State) : Res :=
  .next ((s.fragOf u (32 * g + f)).foldl (fun s t => s.setThr u t { s.thr u t with sleep := false }) s)

/-- ELECT (R183). -/
def execElect (d : VReg) (s : State) : Res := .next (s.lanes fun s l => s.setV l d.toNat (if l = s.low then 1 else 0))

/-! Barriers. -/

/-- The first active lane that has arrived at the current phase already (R186). -/
def State.reArrival (s : State) (n : Nat) : Option Nat :=
  s.iss.lanes.find? fun l => (s.bar s.iss.uid n).arrived.contains (s.tOf l)

/-- Some active lanes wait at barrier n for their barrier word; the instruction settles their positions. -/
def State.barrierWait (s : State) (ls : List Nat) (d n : Nat) : State :=
  let s := ls.foldl (fun s l => s.waitFor s.iss.uid (s.tOf l) s.iss.follow (.barrier n d)) s
  { s with iss := { s.iss with moved := s.iss.moved ++ ls } }

/-- The active lanes arrive at barrier n. -/
def State.arriveLanes (s : State) (n : Nat) : State := s.lanes fun s l => s.arriveBar s.iss.uid (s.tOf l) n

/-- BAR (R185). What the gang did before is performed first: the barrier's edge carries it (R97). -/
def execBar (d : VReg) (n : BitVec 4) (s : State) : Res :=
  match s.reArrival n.toNat with
  | some l => raise { cause := .access, lane := l } s
  | none =>
    let s := s.drain
    .next (((s.arriveLanes n.toNat).barrierWait s.iss.lanes d.toNat n.toNat).retestBar s.iss.uid n.toNat)

/-- BAR.ARRIVE (R185). -/
def execBarArrive (n : BitVec 4) (s : State) : Res :=
  match s.reArrival n.toNat with
  | some l => raise { cause := .access, lane := l } s
  | none =>
    let s := s.drain
    .next ((s.arriveLanes n.toNat).retestBar s.iss.uid n.toNat)

/-- BAR.WAIT (R185): a thread that has not arrived at the current phase writes the last barrier word and goes on. -/
def execBarWait (d : VReg) (n : BitVec 4) (s : State) : Res :=
  let br := s.bar s.iss.uid n.toNat
  let ws := s.iss.lanes.filter fun l => br.arrived.contains (s.tOf l)
  let gs := s.iss.lanes.filter fun l => !br.arrived.contains (s.tOf l)
  let s := gs.foldl (fun s l => s.setV l d.toNat (if br.has then br.last else 0)) s
  .next (s.barrierWait ws d.toNat n.toNat)

/-- CARVE (R187): acts as BAR, and requests a carve-out for the phase. -/
def execCarve (d : VReg) (l1g : BitVec 4) (scrg : BitVec 5) (n : BitVec 4) (s : State) : Res :=
  match s.reArrival n.toNat with
  | some l => raise { cause := .access, lane := l } s
  | none =>
    let s := s.drain
    let br := s.bar s.iss.uid n.toNat
    let req := (scrg.toNat, l1g.toNat)
    let br := match br.carve with
      | none => { br with carve := some req }
      | some r => if r = req then br else { br with carveBad := true }
    let s := s.setBar s.iss.uid n.toNat br
    .next (((s.arriveLanes n.toNat).barrierWait s.iss.lanes d.toNat n.toNat).retestBar s.iss.uid n.toNat)

/-- PHASE (R188): ACCESS in a launch without DET and at stage 15; else each thread waits until phase p + 1 begins. What its gang did
before is performed (R97). -/
def execPhase (s : State) : Res :=
  if !s.cur.det ∨ s.cur.stage = 15 then raise { cause := .access, lane := s.low } s
  else
    let s := s.drain
    let s := s.setTeam s.iss.uid { s.cur with phased := true }
    let s := s.lanes fun s l => s.waitFor s.iss.uid (s.tOf l) s.iss.follow .phase
    .next { s with iss := { s.iss with moved := s.iss.moved ++ s.iss.lanes } }

/-! Traps and returns. -/

/-- TRAP raises BREAK with its code (R195). -/
def execTrap (code : BitVec 16) (s : State) : Res := raise { cause := .brk, lane := s.low, code := code.toNat } s

/-- SVC raises SVC with its code (R195). -/
def execSvc (code : BitVec 16) (s : State) : Res := raise { cause := .svc, lane := s.low, code := code.toNat } s

/-- ERET (R196, R349): ACCESS for an unprivileged thread; a TRAP.EPC that breaks R127 raises ALIGN; otherwise the threads
leave handler mode and a deferred LD is performed before they continue (R354). A privileged thread outside handler mode
goes to its TRAP.EPC (log 21). -/
def execEret (s : State) : Res :=
  match s.iss.lanes.find? fun l => !s.privL l with
  | some l => raise { cause := .access, lane := l } s
  | none =>
    match s.iss.lanes.find? fun l => !packetAddr (posPacket (s.thL l).epc.toNat) || posWord (s.thL l).epc.toNat == 3 with
    | some l => raise { cause := .align, lane := l, addr := (s.thL l).epc.toNat % 2 ^ 57 } s
    | none =>
      .next ((s.lanes State.leaveHandler).replayLds s.iss.uid (s.iss.lanes.map s.tOf))

/-- UNASSIGNED_OPCODE (R131, R134, R138): a word that the opcode map leaves unassigned raises ILLEGAL_OP, one whose fields break
their conditions ILLEGAL_FIELD. -/
def execUnassignedOpcode (w opw : BitVec 32) (s : State) : Res :=
  match decode w opw with
  | .error .unassigned => raise { cause := .illegalOp, lane := s.low, check := 3 } s
  | _ => raise { cause := .illegalField, lane := s.low, check := 3 } s

end Sys2Proof.Machine
end

