-- ==== Sys2Proof/Machine/Records.lean ====
section
/-!
DEFINITION. Records (R38): EMIT and SPAWN (R189, R190), JOIN and FINISH (R191), and their arrival at the queues' home
slices (R39, R55, R56).
-/

namespace Sys2Proof.Machine

/-! Record headers (R38). -/

/-- A record header. `frame` and `code` are addresses. -/
def mkHdr (kind stage join frame : Nat) (idem : Bool) (code : Nat) : BitVec 128 :=
  BitVec.ofNat 128 (kind % 4 * 2 ^ 125 + stage % 16 * 2 ^ 121 + join % 4096 * 2 ^ 109 + bits frame 56 4 * 2 ^ 56
    + (if idem then 2 ^ 55 else 0) + bits code 56 2)

/-- Fields of a header. -/
def hdrKind (h : BitVec 128) : Nat := bits h.toNat 126 125
@[inherit_doc hdrKind] def hdrStage (h : BitVec 128) : Nat := bits h.toNat 124 121
@[inherit_doc hdrKind] def hdrJoin (h : BitVec 128) : Nat := bits h.toNat 120 109
@[inherit_doc hdrKind] def hdrFrame (h : BitVec 128) : Nat := bits h.toNat 108 56 * 16
@[inherit_doc hdrKind] def hdrIdem (h : BitVec 128) : Bool := nbit h.toNat 55
@[inherit_doc hdrKind] def hdrCode (h : BitVec 128) : Nat := bits h.toNat 54 0 * 4

/-- The 32 bytes of a record. -/
def Rec.bytes (r : Rec) : List Byte := toBytes 16 r.hdr.toNat ++ toBytes 16 r.pay.toNat

/-- The record in 32 bytes. -/
def recOf (bs : List Byte) : Rec := ⟨BitVec.ofNat 128 (bytesAt bs 0 16), BitVec.ofNat 128 (bytesAt bs 16 16)⟩

/-! EMIT and SPAWN. -/

/-- Does an edge of the team's launch exist and leave the team's node (R190)? -/
def State.edgeOk (s : State) (edge : Nat) : Bool :=
  let ln := s.launch s.cur.launch
  ln.hasGraph && edge < ln.edges.length && (match ln.edges[edge]? with | some e => e.src == s.cur.node | none => false)

/-- The check of a record's frame, by its lane (R190): EMIT's must be aligned, and neither may be domain-global (R74). -/
def frameCheck (aligned : Bool) (lane : Nat) : Option Nat → Option Trap
  | none => none
  | some f =>
    if aligned && f % 16 != 0 then some { cause := .align, lane := lane, addr := f }
    else if isDomain f then some { cause := .access, lane := lane, addr := f }
    else none

/-- The checks of R190 for one lane, in its order; the frame of SPAWN comes after its code pair (DESIGN CHOICE, log 57). -/
def State.emitCheck (s : State) (edge : Nat) (lane : Nat) (frame code : Option Nat) : Option Trap :=
  let past : Bool := match (s.launch s.cur.launch).edges[edge]? with
    | some e => e.maxEmit < NMap.get 0 s.cur.emitted edge + s.iss.lanes.length
    | none => true
  if !s.edgeOk edge ∨ past then some { cause := .access, lane := lane }
  else
    match code with
    | none => frameCheck true lane frame
    | some c => (targetCheck lane c).or (frameCheck false lane frame)

/-- Builds one record in every active lane and sends it to its queue (R189). The team's writes go with it (R97). -/
def emitOp (kind : Nat) (d a : VReg) (join edge : Nat) (frame : Nat → Nat) (code : Nat → Nat)
    (check : Nat → Option Trap) (s : State) : Res :=
  match s.iss.lanes.findSome? check with
  | some t => raise t s
  | none =>
    let u := s.iss.uid
    let ln := s.launch s.cur.launch
    let e := ln.edges.getD edge ⟨0, 0, 0⟩
    let nd := ln.nodes.getD e.dst {}
    let s := s.drain.publish s.cur.core 7 u (s.tOf s.low)
    let s := s.lanes fun s l =>
      let tm := s.cur
      let hdr := mkHdr kind nd.stage join (frame l) nd.idem (code l)
      let r : RecArr :=
        { uid := u, launch := tm.launch, node := e.dst, rcd := ⟨hdr, BitVec.ofNat 128 (s.rvN l a.toNat 4)⟩, plti := tm.lti,
          seq := tm.emSeq, t := s.tOf l, d := some d.toNat }
      { s with recArrs := s.recArrs ++ [r] }.setTeam u
        { tm with
          emSeq := tm.emSeq + 1, acted := true,
          emitted := NMap.put tm.emitted edge (NMap.get 0 tm.emitted edge + 1) }
    .next (s.markEmpty d.toNat 2)

/-- EMIT (R189). -/
def execEmit (d a b : VReg) (fr : Bool) (join : BitVec 12) (edge : BitVec 10) (s : State) : Res :=
  let nd := match (s.launch s.cur.launch).edges[edge.toNat]? with
    | some e => (s.launch s.cur.launch).nodes.getD e.dst {}
    | none => {}
  emitOp 2 d a join.toNat edge.toNat (fun l => if fr then s.rp l b.toNat else 0) (fun _ => nd.code)
    (fun l => s.emitCheck edge.toNat l (if fr then some (s.rp l b.toNat) else none) none) s

/-- SPAWN (R189). -/
def execSpawn (d a b : VReg) (fr : Bool) (join : BitVec 12) (edge : BitVec 10) (s : State) : Res :=
  emitOp 3 d a join.toNat edge.toNat (fun _ => if fr then s.rup 4 else 0) (fun l => s.rp l b.toNat)
    (fun l => s.emitCheck edge.toNat l (if fr then some (s.rup 4) else none) (some (s.rp l b.toNat))) s

/-! Arrival. -/

/-- The address of a queue slot. -/
def slotAddr (nd : GNode) (k : Nat) : Nat := nd.qbase + 32 * k

/-- The lowest slot of a queue that holds no record (log 22). -/
def freeSlot (nd : GNode) : Option Nat := (List.range (nd.queue.length + 1)).find? fun k => !(nd.queue.any (·.slot == k))

/-- Replaces a node of a launch. -/
def State.setNode (s : State) (l node : Nat) (nd : GNode) : State :=
  let ln := s.launch l
  s.setLaunch l { ln with nodes := ln.nodes.set node nd }

/-- A record reaches its queue: it takes one reserved slot, its bytes are written there, and the emitter receives the slot
address (R55, R56, R189). A queue page that does not translate turns the record away with a KIND 3 entry. -/
def State.arriveRec (s : State) (r : RecArr) : State :=
  let nd := (s.launch r.launch).nodes.getD r.node {}
  match freeSlot nd with
  | none => s
  | some k =>
    let va := slotAddr nd k
    let nd := { nd with resv := nd.resv - 1 }
    let s := match r.d with
      | some d => s.fillRegs r.uid r.t [(d, lo32 va), (d + 1, hi32 va)]
      | none => s
    match s.kWrite r.launch va r.rcd.bytes with
    | .error c =>
      (s.setNode r.launch r.node nd).report (s.launch r.launch).slice
        { kind := 3, launch := r.launch, detail := causeOnly c, addr := va }
    | .ok s => s.setNode r.launch r.node { nd with queue := nd.queue ++ [⟨k, r.plti, r.seq⟩] }

/-- EVENT RECORD_ARRIVAL (R55, R189): the records of a gang arrive in their order, up to the k-th. -/
def execRecordArrival (k : Nat) (s : State) : Res :=
  match s.recArrs[k]? with
  | none => .next s
  | some p =>
    let mine (q : RecArr) : Bool := q.uid == p.uid && q.t / 32 == p.t / 32
    let now := (s.recArrs.take (k + 1)).filter mine
    let rest := (s.recArrs.take (k + 1)).filter (fun q => !mine q) ++ s.recArrs.drop (k + 1)
    .next (now.foldl (fun s r => if (s.launch r.launch).live then s.arriveRec r else s) { s with recArrs := rest })

/-! JOIN and FINISH. -/

/-- The checks of R191 for one lane's slot address. -/
def State.slotCheck (s : State) (lane va : Nat) : Option Trap :=
  let ns := ((s.launch s.cur.launch).nodes.zipIdx).drop 1
  if va % 32 ≠ 0 then some { cause := .align, lane := lane, addr := va, write := true }
  else if (s.launch s.cur.launch).hasGraph && ns.any (fun x => x.1.qbase ≤ va && va < x.1.qbase + 32 * x.1.qcap) then none
  else some { cause := .access, lane := lane, addr := va, write := true }

/-- The active lanes' decrements leave for their slots' home slices. -/
def State.joinLanes (s : State) (a : VReg) (d : Option Nat) : State :=
  let s := s.drain.publish s.cur.core 7 s.iss.uid (s.tOf s.low)
  let s := s.lanes fun s l =>
    { s with joinArrs := s.joinArrs ++ [JoinArr.mk s.iss.uid s.cur.launch (s.rp l a.toNat) (s.tOf l) d] }
  s.setTeam s.iss.uid { s.cur with acted := true }

/-- JOIN (R191). -/
def execJoin (d a : VReg) (s : State) : Res :=
  match s.iss.lanes.findSome? fun l => s.slotCheck l (s.rp l a.toNat) with
  | some t => raise t s
  | none => .next ((s.joinLanes a (some d.toNat)).markEmpty d.toNat 1)

/-- FINISH (R191): decrements, then exits the threads. -/
def execFinish (a : VReg) (s : State) : Res :=
  match s.iss.lanes.findSome? fun l => s.slotCheck l (s.rp l a.toNat) with
  | some t => raise t s
  | none => .next (((s.joinLanes a none).exitThreads s.iss.uid (s.iss.lanes.map s.tOf)).testEnd s.iss.uid)

/-- One decrement at the slot's home slice: a counter of 0 stays, and JOIN then reads all ones (R191). A slot whose page no longer
translates, or whose line is poisoned, keeps its counter: a KIND 3 or KIND 5 entry says so, and JOIN reads all ones (DESIGN
CHOICE, log 76). -/
def State.decJoin (s : State) (j : JoinArr) : State :=
  let give (s : State) (x : Word) : State := match j.d with | some d => s.fillReg j.uid j.t d x | none => s
  match s.kRead j.launch (j.addr + 8) 8 with
  | (s, .error c) =>
    give (s.report (s.launch j.launch).slice
      { kind := if c = .memUe then 5 else 3, launch := j.launch, detail := causeOnly c, addr := j.addr }) 0xFFFFFFFF
  | (s, .ok bs) =>
    let h := ofBytes bs
    let c := bits h 56 45
    if c = 0 then give s 0xFFFFFFFF
    else
      match s.kWrite j.launch (j.addr + 8) (toBytes 8 (h - 2 ^ 45)) with
      | .ok s => give s (toW (c - 1))
      | .error _ => give s 0xFFFFFFFF

/-- EVENT JOIN_DECREMENT (R39, R191): the decrements of a gang in their order, up to the k-th. -/
def execJoinDecrement (k : Nat) (s : State) : Res :=
  match s.joinArrs[k]? with
  | none => .next s
  | some p =>
    let mine (q : JoinArr) : Bool := q.uid == p.uid && q.t / 32 == p.t / 32
    let now := (s.joinArrs.take (k + 1)).filter mine
    let rest := (s.joinArrs.take (k + 1)).filter (fun q => !mine q) ++ s.joinArrs.drop (k + 1)
    .next (now.foldl State.decJoin { s with joinArrs := rest })

end Sys2Proof.Machine
end

