-- ==== Sys2Proof/Machine/Engine.lean ====
section
/-!
DEFINITION. What the engines share: reading and writing memory for a core through translation (R77, R83, R103), the issue
checks of R229, and completion words (R103, R368).
-/

namespace Sys2Proof.Machine

/-- For whom an engine acts: the core and slice of the issuing team, its privilege, the team and its launch. -/
structure Ctx where
  core : Nat
  slice : Nat
  priv : Bool
  uid : Nat
  launch : Nat

/-- The context of the issue under way. -/
def State.ctx' (s : State) : Ctx := ⟨s.cur.core, s.cur.slice, s.privL s.low, s.iss.uid, s.cur.launch⟩

/-- The context of a team. -/
def State.ctxOf (s : State) (u : Nat) (priv : Bool) : Ctx :=
  ⟨(s.team u).core, (s.team u).slice, priv, u, (s.team u).launch⟩

/-- An engine's translation of a local address: held by the die's Sluice, else walked (R83); memory that has become absent faults
as a walk would, before the permission check (R77). -/
def State.engXlat (s : State) (c : Ctx) (k : Acc) (va : Nat) : Except Cause Tlb :=
  if isDomain va ∨ !canonical va then .error .access
  else
    let r : Except Cause Tlb := match s.held (194 + coreDie c.core) c.slice va with
      | some e => .ok e
      | none => s.walk c.slice va
    match r with
    | .error x => .error x
    | .ok e =>
      if !s.present (e.paOf va) 1 then .error .pageFault
      else
        match permit e k c.priv false with
        | some x => .error x
        | none => .ok e

/-- Bytes from a physical address within a line, as an engine of a core sees them (`engRead1`). -/
def State.engBytes (s : State) (core pa : Nat) : Nat → State × Option (List Byte)
  | 0 => (s, some [])
  | n + 1 =>
    match s.engRead1 core pa with
    | (s, none) => (s, none)
    | (s, some b) =>
      match s.engBytes core (pa + 1) n with
      | (s, some bs) => (s, some (b :: bs))
      | r => r

/-- Reads n bytes from a virtual address, line by line, with `fuel` lines; the cause and address of the first fault. -/
def State.engReadGo (s : State) (c : Ctx) : Nat → Nat → Nat → State × Except (Cause × Nat) (List Byte)
  | 0, _, _ => (s, .ok [])
  | fuel + 1, va, n =>
    if n = 0 then (s, .ok [])
    else
      let k := min n (64 - va % 64)
      match s.engXlat c .read va with
      | .error x => (s, .error (x, va))
      | .ok e =>
        let s := s.hold (194 + coreDie c.core) e
        let r : State × Option (List Byte) :=
          if s.discarded e then (s, some (List.replicate k 0)) else s.engBytes c.core (e.paOf va) k
        match r with
        | (s, none) => (s, .error (.memUe, va))
        | (s, some bs) =>
          match s.engReadGo c fuel (va + k) (n - k) with
          | (s, .ok rest) => (s, .ok (bs ++ rest))
          | r => r

/-- An engine's read of n bytes. -/
def State.engRead (s : State) (c : Ctx) (va n : Nat) : State × Except (Cause × Nat) (List Byte) :=
  s.engReadGo c (n / 64 + 2) va n

/-- Writes bytes line by line under the Pump rule of R103; the cause and address of the first fault. What was written
before it stays. -/
def State.engPutGo (s : State) (c : Ctx) : Nat → Nat → List Byte → State × Option (Cause × Nat)
  | 0, _, _ => (s, none)
  | fuel + 1, va, bs =>
    if bs.isEmpty then (s, none)
    else
      let k := min bs.length (64 - va % 64)
      match s.engXlat c .write va with
      | .error x => (s, some (x, va))
      | .ok e =>
        let s := s.hold (194 + coreDie c.core) e
        let s := if s.discarded e then s.revive e else s
        (s.engWrite c.core (e.paOf va) (bs.take k)).engPutGo c fuel (va + k) (bs.drop k)

/-- An engine's write of bytes. -/
def State.engPut (s : State) (c : Ctx) (va : Nat) (bs : List Byte) : State × Option (Cause × Nat) :=
  s.engPutGo c (bs.length / 64 + 2) va bs

/-- Bytes cut at the naturally aligned 8-byte addresses (R94), in at most `fuel` parts. -/
def cutParts (mk : Nat → List Byte → EngPart) : Nat → Nat → List Byte → List EngPart
  | 0, _, _ => []
  | fuel + 1, va, bs =>
    if bs.isEmpty then []
    else
      let k := 8 - va % 8
      mk va (bs.take k) :: cutParts mk fuel (va + k) (bs.drop k)

/-- The name of an engine operation that writes in the step that is made now, when it ends too. -/
def State.opNow (s : State) : Nat := 2 * s.tick

/-- The name of a collective, which writes in several steps, as an engine operation. -/
def Coll.op (c : Coll) : Nat := 2 * c.id + 1

/-- Bytes that the engine operation `op` writes, translated page by page; their parts are written one by one thereafter, in an order that
no rule fixes (R94, R367). The cause and address of the first fault; what comes before it is written. -/
def State.engOutGo (s : State) (c : Ctx) (op : Nat) : Nat → Nat → List Byte → State × Option (Cause × Nat)
  | 0, _, _ => (s, none)
  | fuel + 1, va, bs =>
    if bs.isEmpty then (s, none)
    else
      let k := min bs.length (64 - va % 64)
      match s.engXlat c .write va with
      | .error x => (s, some (x, va))
      | .ok e =>
        let s := s.hold (194 + coreDie c.core) e
        { s with parts := s.parts ++ cutParts (fun a b => ⟨c.uid, op, c.core, a, e, b⟩) 9 va (bs.take k) }.engOutGo c op fuel (va + k) (bs.drop k)

@[inherit_doc State.engOutGo] def State.engOut (s : State) (c : Ctx) (op va : Nat) (bs : List Byte) : State × Option (Cause × Nat) :=
  s.engOutGo c op (bs.length / 64 + 2) va bs

/-- Do n bytes from a local address translate with a permission (an issue check that touches no data)? -/
def State.rangeOk (s : State) (c : Ctx) (k : Acc) (va n : Nat) : Except (Cause × Nat) Unit :=
  let steps := (List.range (n / 4096 + 2)).map fun i => if i = 0 then va else va / 4096 * 4096 + 4096 * i
  let rec go : List Nat → Except (Cause × Nat) Unit
    | [] => .ok ()
    | a :: as =>
      if va + n ≤ a then .ok ()
      else match s.xlat c.core c.slice c.priv false k a with
        | .error x => .error (x, a)
        | .ok _ => go as
  go steps

/-- A precise trap at the lowest active lane. -/
def State.trapLow (s : State) (c : Cause) (check addr : Nat) : Trap := { cause := c, lane := s.low, check := check, addr := addr }

/-- The checks of R229, steps 1 to 3, on a 64-byte descriptor and, where the instruction has one, its completion word; the
descriptor's bytes, read at issue after the gang's earlier operations (the fork edge, R97). `lane` is the lane that names it. -/
def State.descCheck (s : State) (lane desc : Nat) (cw : Option Nat) : State × Except Trap (List Byte) :=
  let bad (c : Cause) (n a : Nat) : State × Except Trap (List Byte) :=
    (s, .error { cause := c, lane := lane, check := n, addr := a })
  let w := cw.getD 0
  if desc % 64 ≠ 0 then bad .align 1 desc
  else if w % 8 ≠ 0 then bad .align 1 w
  else if isDomain desc ∨ !canonical desc then bad .access 2 desc
  else if isDomain w ∨ !canonical w then bad .access 2 w
  else
    match s.xlat s.cur.core s.cur.slice (s.privL lane) false .read desc with
    | .error c => bad c (if c = .memUe then 0 else 3) desc
    | .ok e =>
      match (s.drain.note s.cur.core e).engRead ⟨s.cur.core, s.cur.slice, s.privL lane, s.iss.uid, s.cur.launch⟩ desc 64 with
      | (s, .ok bs) => (s, .ok bs)
      | (s, .error (c, a)) => (s, .error { cause := c, lane := lane, addr := a, check := if c = .memUe then 0 else 3 })

/-- A completion word on a domain-global line (R366): at a scope narrower than package in the copy that its place holds, else at the
owner, as if a copy were filled for it and evicted at once. -/
def State.writeCwDom (s : State) (c : Ctx) (va scope word : Nat) : State :=
  let p : Pend :=
    { uid := c.uid, t := 1023, core := c.core, slice := c.slice, kind := .write, va := va, size := 8, x := word, cmp := 0,
      scope := scope, sc := false, acq := false, regs := [], tr := none }
  let s := s.ready p
  match if scope < 7 then s.copy p.place (dline va) else none with
  | some k => s.performCopy p k
  | none =>
    (s.giveUp c.core va c.uid 1023).sendReq c.slice c.uid 1023 (domPkg va)
      { plainReq .write (domOff va) 8 word with scope := scope } .flags

/-- A completion word written by one 8-byte atomic write at the place of its scope, where threads may observe it (R103); where it
cannot be written, a KIND 7 entry carries it (R368). -/
def State.writeCw (s : State) (c : Ctx) (va scope word : Nat) : State :=
  let fail (s : State) (x : Cause) : State :=
    s.report c.slice { kind := 7, launch := c.launch, detail := causeOnly x + 2 ^ 29 + 2 ^ 31, addr := va, word := word }
  let known (s : State) (w : Nat × Nat) : State := { s with cwords := if s.cwords.contains w then s.cwords else w :: s.cwords }
  if isDomain va then known (s.writeCwDom c va scope word) (s.nameOf va, scope)
  else if !canonical va then fail s .access
  else
    match s.engXlat c .write va with
    | .error x => fail s x
    | .ok e =>
      if s.poisoned (e.paOf va) then fail s .memUe
      else
        known (s.performLocal c.core c.uid 0 .write e va 8 word 0 scope).1 (e.paOf va, scope)

/-- Fills register d of a gang's lanes with a value: the completion object of an engine operation. -/
def State.fillLanes (s : State) (u g : Nat) (lanes : List Nat) (d : Nat) (x : Word) : State :=
  lanes.foldl (fun s l => s.fillReg u (32 * g + l) d x) s

/-- The completion object of an engine operation of a team. -/
def State.doFin (s : State) (u : Nat) (f : EngFin) : State :=
  match f with
  | .reg g lanes d x => s.fillLanes u g lanes d x
  | .word core slice priv launch va scope word => s.writeCw ⟨core, slice, priv, u, launch⟩ va scope word

/-- An engine operation of a team ends, once all that it writes has been written (R103). -/
def State.finish (s : State) (u op : Nat) (f : EngFin) : State :=
  if s.parts.any (·.op == op) then { s with fins := s.fins ++ [(u, op, f)] } else (s.doFin u f).engineDone u

/-- An engine operation of a team whose writes are all done ends. -/
def State.endFins (s : State) (u op : Nat) : State :=
  let now := s.fins.filter (·.2.1 == op)
  (now.foldl (fun (s : State) f => s.doFin u f.2.2) { s with fins := s.fins.filter (·.2.1 != op) }).engineDone u

/-- The k-th part of what engines have still to write is written, under the Pump rule of R103; after an operation's last one it
ends. The model's own move: one step for each part (R94). -/
def State.enginePart (s : State) (k : Nat) : State :=
  match s.parts[k]? with
  | none => s
  | some p =>
    let s := { s with parts := s.parts.eraseIdx k }
    let s := if s.discarded p.tr then s.revive p.tr else s
    let s := s.engWrite p.core (p.tr.paOf p.va) p.bs
    if s.parts.any (·.op == p.op) then s else s.endFins p.uid p.op

/-- Posts the fault entry of a suspended engine operation (KIND 2): the engine kind and the model's name of it. The fault was
found after issue (R347, log 59). -/
def State.suspend (s : State) (c : Ctx) (cause : Cause) (addr : Nat) (write : Bool) (kind ch ref : Nat) : State :=
  s.report c.slice
    { kind := 2, launch := c.launch, uid := c.uid, detail := causeOnly cause + (if write then 2 ^ 29 else 0) + 2 ^ 31,
      addr := addr, eng := kind * 16 + ch, ref := ref }

end Sys2Proof.Machine
end

