-- ==== Sys2Proof/Machine/Matrix.lean ====
section
/-!
DEFINITION. The matrix engine and the accumulator store (R87, R119 to R124, R231, R233 to R238).
-/

namespace Sys2Proof.Machine

/-! Format words (R122, R123). -/

/-- Fields of a format word. -/
def fwA (w : Nat) : Nat := w % 16
@[inherit_doc fwA] def fwB (w : Nat) : Nat := bits w 7 4
@[inherit_doc fwA] def fwRnd (w : Nat) : Nat := bits w 9 8
@[inherit_doc fwA] def fwOvf (w : Nat) : Nat := bits w 11 10
@[inherit_doc fwA] def fwOut (w : Nat) : Nat := bits w 15 12
@[inherit_doc fwA] def fwTensor (w : Nat) : Nat := bits w 27 16
@[inherit_doc fwA] def fwFtz (w : Nat) : Bool := nbit w 28
@[inherit_doc fwA] def fwNoStat (w : Nat) : Bool := nbit w 29

/-- Is a format code an integer's? -/
def isIntFmt (f : Nat) : Bool := 8 ≤ f && f ≤ 11

/-- Is a format word valid (R123)? -/
def fwOk (w : Nat) : Bool := bits w 31 30 == 0 && fwOut w ≤ 11 && isIntFmt (fwA w) == isIntFmt (fwB w)

/-- Does the word make the operation an integer one? -/
def fwInt (w : Nat) : Bool := isIntFmt (fwA w) && isIntFmt (fwB w)

/-- The K depth of a format, and of two: that of the wider (R15). -/
def kOf (f : Nat) : Nat := [96, 96, 192, 192, 384, 384, 512, 512, 384, 384, 768, 768, 384, 512, 512, 768].getD f 96
@[inherit_doc kOf] def kDepth (w : Nat) : Nat := min (kOf (fwA w)) (kOf (fwB w))

/-- Counts for a format word's tensor unless NOSTAT is set (R124). -/
def State.countFw (s : State) (u w kind n : Nat) : State := if fwNoStat w then s else s.countStat u (fwTensor w) kind n

/-! Elements. -/

/-- The width in bits of an operand element (R110). -/
def elemWidth (f : Nat) : Nat := [32, 32, 16, 16, 8, 8, 6, 6, 8, 8, 4, 4, 8, 6, 6, 4].getD f 8

/-- Element k of a packed row (R111). -/
def elemCode (f : Nat) (row : List Byte) (k : Nat) : Nat :=
  let w := elemWidth f
  let b := k * w
  if 8 ≤ w then bytesAt row (b / 8) (w / 8) else bytesAt row (b / 8) 2 / 2 ^ (b % 8) % 2 ^ w

/-- Is a magnitude m × 2^e below 2^−126; at or above 2^128? -/
def belowMin (m : Nat) (e : Int) : Bool := (Dy.mk m e).lt ⟨1, -126⟩
@[inherit_doc belowMin] def aboveMax (m : Nat) (e : Int) : Bool := !(Dy.mk m e).lt ⟨1, 128⟩

/-- The expansion of an element value into W (R119), and whether it counts as FLUSH. An F32 element is the sum of its two
parts; a part lo below 2^−126 is zero. -/
def expandV (f32e : Bool) (v : FVal) : FVal × Bool :=
  match v with
  | .nan => (.nan, false)
  | .inf n => (.inf n, false)
  | .fin n m e =>
    if m = 0 then (v, false)
    else if aboveMax m e then (.inf n, false)
    else if belowMin m e then (.fin n 0 e, true)
    else if f32e then
      let lo := m % 2 ^ 12
      (if lo ≠ 0 && belowMin lo e then .fin n (m - lo) e else v, false)
    else (v, false)

/-- Element k of an operand row in format f, expanded. -/
def mmaElem (f : Nat) (row scales : List Byte) (k : Nat) : FVal × Bool :=
  let c := elemCode f row k
  expandV (f == 0) (if f < 8 then decodeF (fmtOf f) c else blkVal f (bytesAt scales (k / 32) 1) c)

/-- An integer element. -/
def mmaInt (f : Nat) (row : List Byte) (k : Nat) : Int :=
  let c := elemCode f row k
  if f = 8 then sext c 8 else if f = 10 then sext c 4 else c

/-- Row r of an operand (R235), and of its scale plane. -/
def State.operandRow (s : State) (u base r : Nat) : List Byte :=
  (List.range 384).map fun c => NMap.get 0 s.scratch (skey u (base + canonOff r c))
@[inherit_doc State.operandRow] def State.scaleRow (s : State) (u base r : Nat) : List Byte := s.scr u (base + 24 * r) 24

/-- Splits a list into groups of 32. -/
def groups32 {α : Type} : Nat → List α → List (List α)
  | 0, _ => []
  | n + 1, l => l.take 32 :: groups32 n (l.drop 32)

/-- The accumulation of one element over the groups (R120). -/
def accFloat (acc : Nat) (a b : List FVal) (groups : Nat) : Nat :=
  (groups32 groups (List.zipWith mulV a b)).foldl (fun acc p => fAdd f32 0 false acc (sumTerms f32 p)) acc

/-- The accumulation of one integer element, with its saturations (R121). -/
def accInt (acc : Int) (a b : List Int) (groups : Nat) : Int × Nat :=
  (groups32 groups (List.zipWith (· * ·) a b)).foldl (fun (x, n) p =>
    let y := x + p.foldl (· + ·) 0
    (sat y (-2147483648) 2147483647, if outI32 y then n + 1 else n)) (acc, 0)

/-! Tiles. -/

/-- Word (i, j) of a tile, at index 64i + j. -/
def State.tile (s : State) (u t : Nat) : List Word :=
  let w := NMap.get [] s.tiles (tilekey u t)
  (List.range 4096).map fun k => w.getD k 0

/-- Replaces a tile. -/
def State.setTile (s : State) (u t : Nat) (ws : List Word) : State := { s with tiles := NMap.put s.tiles (tilekey u t) ws }

/-- The rows of an MMA's operands with those of their scale planes: 64 of A, then 64 of B (R235). -/
def State.mmaRows (s : State) (u aoff boff sa sb : Nat) : List (List Byte × List Byte) :=
  ((List.range 64).map fun r => (s.operandRow u aoff r, s.scaleRow u sa r))
    ++ (List.range 64).map fun r => (s.operandRow u boff r, s.scaleRow u sb r)

/-- Bytes of which each is the older or the newer one, by a free choice of its own. -/
def mixBytes (salt : Nat) (old now : List Byte) : List Byte :=
  (List.zipWith (fun (x : Byte × Byte) i => if Config.freeChoice (salt * 1024 + i) % 2 = 0 then x.1 else x.2) (old.zip now)
    (List.range now.length))

/-- A row as one product takes it: where its bytes were rewritten while the operation ran, each is the old or the new one (R236). -/
def mixRow (salt : Nat) (old now : List Byte × List Byte) : List Byte × List Byte :=
  if old = now then now else (mixBytes (2 * salt) old.1 now.1, mixBytes (2 * salt + 1) old.2 now.2)

/-- The values of the elements of a row of operand A, and of one of B, that enter word x of the tile, product by product. `salt` numbers
the operation; `elem` reads an element of a row with its scales. -/
def prodRow {α : Type} (elem : List Byte → List Byte → Nat → α) (salt x k : Nat) (old now : List Byte × List Byte) : List α :=
  if old = now then (List.range k).map (elem now.1 now.2)
  else (List.range k).map fun j =>
    let r := mixRow ((salt * 4096 + x) * 1024 + j) old now
    elem r.1 r.2 j

/-- The result of an MMA on a tile, with FLUSH and SATURATE counts (R120, R121, R236). `seen` are the rows as they stood at its start,
none for the rows as they are; the elements counted are those of the rows as they are at the end (log 72). -/
def State.mmaRun (s : State) (u tile : Nat) (zero : Bool) (w aoff boff sa sb : Nat) (seen : List (List Byte × List Byte)) :
    List Word × Nat × Nat :=
  let old := if zero then List.replicate 4096 (0 : Word) else s.tile u tile
  let k := kDepth w
  let rows := s.mmaRows u aoff boff sa sb
  let was := if seen.length = 128 then seen else rows
  let row (l : List (List Byte × List Byte)) (r : Nat) : List Byte × List Byte := l.getD r ([], [])
  let ops {α : Type} (ea eb : List Byte → List Byte → Nat → α) (x : Nat) : List α × List α :=
    (prodRow ea (2 * s.tick) x k (row was (x / 64)) (row rows (x / 64)),
     prodRow eb (2 * s.tick + 1) x k (row was (64 + x % 64)) (row rows (64 + x % 64)))
  if fwInt w then
    let res := (List.range 4096).map fun x =>
      let (a, b) := ops (fun r _ => mmaInt (fwA w) r) (fun r _ => mmaInt (fwB w) r) x
      accInt (old.getD x 0).toInt a b (k / 32)
    (res.map fun r => ofInt r.1, 0, (res.map (·.2)).sum)
  else
    let flushed (f : Nat) (r : List Byte × List Byte) : Nat := (List.range k).countP fun j => (mmaElem f r.1 r.2 j).2
    let fl := ((rows.take 64).map (flushed (fwA w))).sum + ((rows.drop 64).map (flushed (fwB w))).sum
    ((List.range 4096).map fun x =>
        let (a, b) := ops (fun r q j => (mmaElem (fwA w) r q j).1) (fun r q j => (mmaElem (fwB w) r q j).1) x
        toW (accFloat (old.getD x 0).toNat a b (k / 32)),
      fl, 0)

/-! Issue. -/

/-- The vote of the active lanes on a format word (R234 step 1). -/
def State.voteWord (s : State) (a : VReg) : Option Nat :=
  let w := s.rv s.low a.toNat
  if s.iss.lanes.all fun l => s.rv l a.toNat == w then some w.toNat else none

/-- Queues an operation on the core's engine and marks its completion register. -/
def State.queueMop (s : State) (d tile : Nat) (k : MOpK) : State :=
  { s with mops := s.mops ++ [MOp.mk s.cur.core s.iss.uid s.iss.gang s.iss.lanes d tile k false []] }.markEmpty d 1

/-- The offsets of R234 step 4: alignment and range. -/
def mmaOffs (size w aoff boff sa sb : Nat) : Option (Cause × Nat) :=
  let ops := [(aoff, 64, operandBytes), (boff, 64, operandBytes)]
    ++ (if scaled (fwA w) then [(sa, 8, scaleBytes)] else []) ++ (if scaled (fwB w) then [(sb, 8, scaleBytes)] else [])
  match ops.find? fun x => x.1 % x.2.1 ≠ 0 with
  | some x => some (.align, x.1)
  | none =>
    match ops.find? fun x => size < x.1 + x.2.2 with
    | some x => some (.access, x.1)
    | none => none

/-- MMA and MMA.Z (R233, R234). -/
def mmaOp (zero : Bool) (d a : VReg) (b : UReg) (tile : BitVec 4) (s : State) : Res :=
  let o (k : Nat) := (s.ru (b.toNat + k)).toNat
  match s.voteWord a with
  | none => raise (s.trapLow .fmtDiverge 1 0) s
  | some w =>
    if !fwOk w then raise (s.trapLow .illegalField 2 0) s
    else if s.cur.acc ≤ tile.toNat then raise (s.trapLow .access 3 0) s
    else
      match mmaOffs s.cur.scr w (o 0) (o 1) (o 2) (o 3) with
      | some (c, x) => raise (s.trapLow c 4 x) s
      | none => .next (s.queueMop d.toNat tile.toNat (.mma zero w (o 0) (o 1) (o 2) (o 3)))

def execMma (d a : VReg) (b : UReg) (tile : BitVec 4) (s : State) : Res := mmaOp false d a b tile s
def execMmaZ (d a : VReg) (b : UReg) (tile : BitVec 4) (s : State) : Res := mmaOp true d a b tile s

/-- The checks of ACLD, ACST and ACCVT on tile and offset (R237). -/
def State.accCheck (s : State) (tile off n : Nat) (w : Bool) : Option Trap :=
  if s.cur.acc ≤ tile then some (s.trapLow .access 3 0)
  else if off % 64 ≠ 0 then some { s.trapLow .align 4 off with write := w }
  else if s.cur.scr < off + n then some { s.trapLow .access 4 off with write := w }
  else none

/-- ACLD (R237). -/
def execAcld (d : VReg) (a : UReg) (tr : Bool) (tile : BitVec 4) (s : State) : Res :=
  let off := (s.ru a.toNat).toNat
  match s.accCheck tile.toNat off 16384 false with
  | some t => raise t s
  | none => .next (s.queueMop d.toNat tile.toNat (.acld off tr))

/-- ACST (R237). -/
def execAcst (d : VReg) (a : UReg) (tr : Bool) (tile : BitVec 4) (s : State) : Res :=
  let off := (s.ru a.toNat).toNat
  match s.accCheck tile.toNat off 16384 true with
  | some t => raise t s
  | none => .next (s.queueMop d.toNat tile.toNat (.acst off tr))

/-- ACZ (R237). -/
def execAcz (d : VReg) (tile : BitVec 4) (s : State) : Res :=
  if s.cur.acc ≤ tile.toNat then raise (s.trapLow .access 3 0) s else .next (s.queueMop d.toNat tile.toNat .acz)

/-! ACCVT (R118, R124, R238). -/

/-- The limits of an integer output format. -/
def outLo (f : Nat) : Int := if f = 8 then -128 else if f = 10 then -8 else 0
@[inherit_doc outLo] def outHi (f : Nat) : Int := if f = 8 then 127 else if f = 9 then 255 else if f = 10 then 7 else 15

/-- One converted element: its code, and which counters it adds to (0 SATURATE, 1 FLUSH, 2 NAN, 3 INFINITE); none on an
overflow under policy 11. -/
def accvtElem (w : Nat) (x : Word) : Option (Nat × List Nat) :=
  let out := fwOut w
  let v : FVal := if fwInt w then .fin x.msb x.toInt.natAbs 0 else decodeF f32 x.toNat
  let nonzero : Bool := match v with | .fin _ m _ => m != 0 | .inf _ => true | .nan => false
  if !fwInt w ∧ out = 0 then some (if v == .nan then f32.cnan else x.toNat, [])
  else if isIntFmt out then
    match convI (outLo out) (outHi out) (fwRnd w) (fwOvf w) v with
    | none => none
    | some y =>
      let past := v != .nan && (convI (outLo out) (outHi out) (fwRnd w) 3 v).isNone
      some (wrap y (outBits out), (if past then [0] else []) ++ (if nonzero && y == 0 then [1] else [])
        ++ (if v == .nan then [2] else []))
  else
    let f := fmtOf out
    match convF f (fwRnd w) (fwOvf w) (fwFtz w) v with
    | .trap => none
    | .ok y =>
      let past := v != .nan && convF f (fwRnd w) 3 (fwFtz w) v == .trap
      let res := decodeF f y
      let inf : Bool := match res with | .inf _ => true | _ => false
      let zero : Bool := match res with | .fin _ m _ => m == 0 | _ => false
      some (y, (if past && !inf && res != .nan then [0] else []) ++ (if nonzero && zero then [1] else [])
        ++ (if v == .nan || res == .nan then [2] else []) ++ (if inf then [3] else []))

/-- Codes packed from the lowest bit on (R111). -/
def packCodes (w : Nat) (cs : List Nat) : List Byte := toBytes (cs.length * w / 8) (cs.foldr (fun c acc => c + 2 ^ w * acc) 0)

/-- ACCVT (R238): the fragment waits for earlier operations on the tile; an overflow under policy 11 traps before any byte
is written. -/
def execAccvt (d : VReg) (a : UReg) (b : VReg) (tile : BitVec 4) (s : State) : Res :=
  let off := (s.ru a.toNat).toNat
  match s.voteWord b with
  | none => raise (s.trapLow .fmtDiverge 1 0) s
  | some w =>
    if !fwOk w then raise (s.trapLow .illegalField 2 0) s
    else
      match s.accCheck tile.toNat off (512 * outBits (fwOut w)) true with
      | some t => raise t s
      | none =>
        if s.mops.any fun o => o.uid == s.iss.uid && o.tile == tile.toNat then stall s
        else if (s.tile s.iss.uid tile.toNat).any fun x => (accvtElem w x).isNone then
          raise (s.trapLow .cvtOverflow 0 0) s
        else .next (s.queueMop d.toNat tile.toNat (.accvt off w))

/-! Events. -/

/-- Is an operation an MMA? -/
def MOp.isMma (o : MOp) : Bool := match o.kind with | .mma _ _ _ _ _ _ => true | _ => false

/-- Operations on one tile before an operation in the queue. -/
def earlierOnTile (o : MOp) : List MOp → Bool
  | [] => false
  | x :: xs => if x == o then false else (x.uid == o.uid && x.tile == o.tile) || earlierOnTile o xs

/-- The operation's effect on tile, scratchpad and counters (R236 to R238). -/
def State.runMop (s : State) (o : MOp) : State :=
  let u := o.uid
  match o.kind with
  | .mma zero w a b sa sb =>
    let (ws, fl, sa') := s.mmaRun u o.tile zero w a b sa sb o.seen
    ((s.setTile u o.tile ws).countFw u w 1 fl).countFw u w 0 sa'
  | .acld off tr =>
    s.setTile u o.tile ((List.range 4096).map fun k =>
      let i := k / 64
      let j := k % 64
      toW (ofBytes (s.scr u (off + 4 * (if tr then 64 * j + i else k)) 4)))
  | .acst off tr =>
    let t := s.tile u o.tile
    let ws := (List.range 4096).map fun k => if tr then t.getD (64 * (k % 64) + k / 64) 0 else t.getD k 0
    s.putScr u off (ws.map fun x => toBytes 4 x.toNat).flatten
  | .acz => s.setTile u o.tile (List.replicate 4096 0)
  | .accvt off w =>
    let rs := (s.tile u o.tile).map fun x => (accvtElem w x).getD (0, [])
    let s := s.putScr u off (packCodes (outBits (fwOut w)) (rs.map (·.1)))
    let cs := (rs.map (·.2)).flatten
    (List.range 4).foldl (fun s k => s.countFw u w k (cs.count k)) s

/-- An operation completes: its effect, its completion register, and what waited for it. -/
def State.finishMop (s : State) (o : MOp) : State :=
  let s := { s with mops := s.mops.erase o }
  ((s.runMop o).fillLanes o.uid o.gang o.lanes o.d 0).engineDone o.uid

/-- The operand rows of an MMA as they stand. -/
def State.opRows (s : State) (o : MOp) : List (List Byte × List Byte) :=
  match o.kind with
  | .mma _ _ a b sa sb => s.mmaRows o.uid a b sa sb
  | _ => []

/-- EVENT MMA_START (R234): the engine takes the core's next MMA, once no MMA runs and no earlier operation on its tile is
left. It reads its operands from then on (R286). -/
def execMmaStart (core : Nat) (s : State) : Res :=
  let mine := s.mops.filter fun o => o.core == core && o.isMma
  match mine with
  | [] => .next s
  | o :: _ =>
    if o.started || earlierOnTile o s.mops then .next s
    else .next { s with mops := s.mops.map fun (x : MOp) => if x == o then { x with started := true, seen := s.opRows o } else x }

/-- EVENT MMA_COMPLETE (R234 to R236). -/
def execMmaComplete (core : Nat) (s : State) : Res :=
  match s.mops.find? fun o => o.core == core && o.isMma && o.started with
  | none => .next s
  | some o => .next (s.finishMop o)

/-- EVENT ACCUMULATOR_OP_COMPLETE (R237, R238): the first accumulator operation whose tile has no earlier one. -/
def execAccumulatorOpComplete (core : Nat) (s : State) : Res :=
  match s.mops.find? fun o => o.core == core && !o.isMma && !earlierOnTile o s.mops with
  | none => .next s
  | some o => .next (s.finishMop o)

end Sys2Proof.Machine
end

