-- ==== Sys2Proof/Machine/Images.lean ====
section
/-!
DEFINITION. Images that a core loads: activation tables (R168 to R171), macros (R192 to R194) and filter kernels (R255,
R256); ACT, and the start of MCALL.
-/

namespace Sys2Proof.Machine

/-! Loads: kind 1 ACTLD, 2 SMPLD, 4 MLOAD (R351). -/

/-- Bytes of an image. -/
def imgBytes (kind : Nat) : Nat := if kind = 1 then 4160 else if kind = 2 then 528 else 272

/-- The issue of a load: its image is checked for alignment, form, translation and permission; the last address of the
kind and slot is kept for the team (R355). The gang's earlier operations are performed first (the fork edge, R97). -/
def imgOp (kind slot : Nat) (d : VReg) (a : UReg) (s : State) : Res :=
  let va := s.rup a.toNat
  if va % 64 ≠ 0 then raise (s.trapLow .align 0 va) s
  else if isDomain va ∨ !canonical va then raise (s.trapLow .access 0 va) s
  else
    match s.rangeOk s.ctx' .read va (imgBytes kind) with
    | .error (c, x) => raise (s.trapLow c 0 x) s
    | .ok _ =>
      let l : ImgLoad :=
        { kind := kind, core := s.cur.core, uid := s.iss.uid, slice := s.cur.slice, priv := s.privL s.low,
          gang := s.iss.gang, lanes := s.iss.lanes, d := d.toNat, slot := slot, addr := va, susp := false }
      let s := s.drain
      let tm := s.cur
      let tm := if kind = 1 then { tm with actld := va }
        else if kind = 2 then { tm with smplds := NMap.put tm.smplds slot va }
        else { tm with mloads := NMap.put tm.mloads slot va }
      .next ({ s with imgs := s.imgs ++ [l] }.setTeam s.iss.uid tm |>.markEmpty d.toNat 1)

def execActld (d : VReg) (a : UReg) (s : State) : Res := imgOp 1 0 d a s
def execMload (d : VReg) (a : UReg) (slot : BitVec 6) (s : State) : Res := imgOp 4 slot.toNat d a s
def execSmpld (d : VReg) (a : UReg) (slot : BitVec 4) (s : State) : Res := imgOp 2 slot.toNat d a s

/-! Activation tables. -/

/-- The key of word i of a table: 0 LO, 1 SCALE, 2 + k knot k. -/
def actKey (core bank t i : Nat) : Nat := ((core * 2 + bank) * 4 + t) * 258 + i

/-- A word of a table. -/
def State.actWord (s : State) (core bank t i : Nat) : Nat := (NMap.get 0 s.actTabs (actKey core bank t i)).toNat

/-- Writes an image into a bank (R168). -/
def State.putAct (s : State) (core bank : Nat) (bs : List Byte) : State :=
  { s with actTabs := (List.range (4 * 258)).foldl (fun m x =>
      let t := x / 258
      let i := x % 258
      NMap.put m (actKey core bank t i) (toW (bytesAt bs (1040 * t + if i < 2 then 4 * i else 8 + 4 * i) 4))) s.actTabs }

/-- The exact difference of two values. -/
def subExact : FVal → FVal → FVal
  | .nan, _ | _, .nan => .nan
  | .inf a, .inf b => if a = b then .nan else .inf a
  | .inf a, _ => .inf a
  | _, .inf b => .inf !b
  | .fin a m e, .fin b n f =>
    let d := (dyOf a m e).add (dyOf (!b) n f)
    .fin (d.m < 0) d.m.natAbs d.e

/-- ACT of one lane (R170). -/
def State.actVal (s : State) (core tbl : Nat) (ftz : Bool) (x : Nat) : Nat :=
  let bank := NMap.get 0 s.actBank core
  let w (i : Nat) := s.actWord core bank tbl i
  let y (k : Nat) := w (2 + k)
  let knot (k : Nat) := if isNan32 (y k) then f32.cnan else y k
  let x := flushF f32 ftz x
  let u := fMul f32 0 false (fSub f32 0 false x (w 0)) (w 1)
  flushF f32 ftz (match decodeF f32 u with
    | .nan => f32.cnan
    | .inf n => if n then knot 0 else knot 255
    | .fin n m e =>
      if n ∨ m = 0 then knot 0
      else if !(Dy.mk m e).lt ⟨255, 0⟩ then knot 255
      else
        let k := if 0 ≤ e then m * 2 ^ e.toNat else m / 2 ^ (-e).toNat
        let f : FVal := .fin false (if 0 ≤ e then 0 else m % 2 ^ (-e).toNat) e
        let yk := decodeF f32 (y k)
        sumTerms f32 [yk, mulV f (subExact (decodeF f32 (y (k + 1))) yk)])

/-- ACT (R170). A NaN source gives a NaN, since RoundF32(x − LO) is one. -/
def execAct (d a : VReg) (tbl : BitVec 2) (s : State) : Res :=
  late (fun l => toW (s.actVal s.cur.core tbl.toNat s.ftz32 (s.rv l a.toNat).toNat)) d s

/-! Macros (R192, R194). -/

/-- The format of a major, as the macro rules need it: which fields are register fields. -/
def regFields (maj : Nat) : List Nat :=
  if maj = 0x28 ∨ maj = 0x40 ∨ maj = 0x41 then []
  else if 0x10 ≤ maj ∧ maj ≤ 0x16 then [18, 12]
  else if (0x50 ≤ maj ∧ maj ≤ 0x55) ∨ maj = 0x58 ∨ maj = 0x74 then [18, 12]
  else [18, 12, 6]

/-- A word with its register fields 60 + j replaced by parameter j. -/
def substWord (w : BitVec 32) (ps : List Nat) : BitVec 32 :=
  (regFields (bits w.toNat 30 24)).foldl (fun w lo =>
    let f := bits w.toNat (lo + 5) lo
    if 60 ≤ f then toW (w.toNat - f * 2 ^ lo + ps.getD (f - 60) 0 % 64 * 2 ^ lo) else w) w

/-- An instruction word with the fields cleared that are not reserved (R133): registers, immediates, policy bits and SCOPE. -/
def bareWord (w : BitVec 32) : BitVec 32 :=
  let maj := bits w.toNat 30 24
  let keep : BitVec 32 :=
    if maj = 0x28 then (if nbit w.toNat 13 then 0x7F003E00 else 0x7F003E0F)
    else if 0x10 ≤ maj ∧ maj ≤ 0x16 then 0x7F000000
    else if (0x50 ≤ maj ∧ maj ≤ 0x55) ∨ maj = 0x58 ∨ maj = 0x74 then 0x7F000F0F
    else 0x7F00000F
  w &&& keep

/-- Is an operation of a macro image valid: the conditions of R192 and no others (log 58)? A word that breaks another condition of R134
fails at its micro-step. -/
def macroOpOk (nparam : Nat) (w o : BitVec 32) : Bool :=
  let maj := bits w.toNat 30 24
  !nbit w.toNat 31 && !(0x40 ≤ maj && maj ≤ 0x45)
  && (regFields maj).all (fun lo => let f := bits w.toNat (lo + 5) lo; f < 60 || f - 60 < nparam)
  && (isX w || o == 0)
  && (match decode (bareWord w) o with | .ok _ => true | .error _ => false)

/-- The operations of a macro image, with the parameter count; none where it fails validation. -/
def parseMacro (bs : List Byte) : Option (Nat × List (BitVec 32 × BitVec 32)) :=
  let nops := bytesAt bs 0 1
  let np := bytesAt bs 1 1
  let ops := (List.range nops).map fun k => (toW (bytesAt bs (16 + 8 * k) 4), toW (bytesAt bs (20 + 8 * k) 4))
  if 1 ≤ nops ∧ nops ≤ 32 ∧ np ≤ 4 ∧ bytesAt bs 2 14 = 0 ∧ ops.all (fun x => macroOpOk np x.1 x.2) then some (np, ops) else none

/-- The key of a macro slot or a sampler slot of a core. -/
def slotKey (core slot : Nat) : Nat := core * 64 + slot

/-- MCALL (R194): an empty slot raises ILLEGAL_OP at micro-step 0; otherwise the fragment's threads run the body as it
stands, one operation an issue (Machine/Step.lean), and stay at the MCALL until the last has issued. -/
def execMcall (p3 p2 p1 p0 slot : BitVec 6) (s : State) : Res :=
  match NMap.find s.macros (slotKey s.cur.core slot.toNat) with
  | none => raise (s.trapLow .illegalOp 0 0) s
  | some (_, ops) =>
    let r : MacroRun :=
      { slot := slot.toNat, at_ := s.iss.pos, ops := ops, params := [p0.toNat, p1.toNat, p2.toNat, p3.toNat], step := 0 }
    let s := s.lanes fun s l =>
      let th := s.thL l
      s.setThL l (if th.handler then { th with hrun := some r } else { th with mrun := some r })
    .next { s with iss := { s.iss with moved := s.iss.moved ++ s.iss.lanes } }

/-- Does a macro of a slot run on a core (R193)? -/
def State.macroRuns (s : State) (core slot : Nat) : Bool :=
  s.threads.any fun e =>
    (s.team (e.1 / 1024)).core == core && (s.team (e.1 / 1024)).live
    && (e.2.mrun.toList ++ e.2.hrun.toList).any (·.slot == slot)

/-! Filter kernels (R255). -/

/-- A tap record. -/
def tapOf (x : Nat) : Tap :=
  { op := bits x 63 62, wsrc := bits x 61 60, bx := bits x 59 58, by_ := bits x 57 56, dx := sext (bits x 55 48) 8,
    dy := sext (bits x 47 40) 8, wt := BitVec.ofNat 16 (bits x 31 16) }

/-- Is a tap record valid? -/
def tapOk (x : Nat) : Bool :=
  let t := tapOf x
  t.op < 2 && t.wsrc < 3 && (t.wsrc != 2 || (t.bx < 2 && t.by_ < 2)) && bits x 39 32 == 0 && bits x 15 0 == 0

/-- The taps of a filter image; none where it breaks R255. -/
def parseFilter (bs : List Byte) : Option (List Tap) :=
  let n := bytesAt bs 0 1
  let xs := (List.range n).map fun k => bytesAt bs (16 + 8 * k) 8
  if 1 ≤ n ∧ n ≤ 64 ∧ bytesAt bs 1 15 = 0 ∧ xs.all tapOk then some (xs.map tapOf) else none

/-! Completion. -/

/-- The context of a load. -/
def ImgLoad.ctx (l : ImgLoad) (launch : Nat) : Ctx := ⟨l.core, l.slice, l.priv, l.uid, launch⟩

/-- A load's image arrives: the tables or the slot are replaced in one step and the completion register is filled; an
image that fails validation leaves its slot and fills all ones (R169, R193, R256). -/
def State.finishImg (s : State) (l : ImgLoad) (bs : List Byte) : State :=
  let s := { s with imgs := s.imgs.erase l }
  let fill (s : State) (x : Word) : State := (s.fillLanes l.uid l.gang l.lanes l.d x).engineDone l.uid
  if l.kind = 1 then
    let bank := 1 - NMap.get 0 s.actBank l.core
    let s := s.putAct l.core bank bs
    fill { s with actBank := NMap.put s.actBank l.core bank } (toW bank)
  else if l.kind = 2 then
    match parseFilter bs with
    | some ts => fill { s with filters := NMap.put s.filters (slotKey l.core l.slot) ts } (toW l.slot)
    | none => fill s 0xFFFFFFFF
  else
    match parseMacro bs with
    | some m => fill { s with macros := NMap.put s.macros (slotKey l.core l.slot) m } (toW l.slot)
    | none => fill s 0xFFFFFFFF

/-- The first load of a kind on a core, in issue order. A fault suspends it with a KIND 2 entry. -/
def State.runImg (s : State) (core kind : Nat) (ready : ImgLoad → Bool) : State :=
  match s.imgs.find? fun l => l.core == core && l.kind == kind with
  | none => s
  | some l =>
    if l.susp || !ready l then s
    else
      let c := l.ctx (s.team l.uid).launch
      match s.engRead c l.addr (imgBytes kind) with
      | (s, .ok bs) => s.finishImg l bs
      | (s, .error (x, a)) =>
        let s := { s with imgs := s.imgs.map fun (y : ImgLoad) => if y == l then { y with susp := true } else y }
        s.suspend c x a false kind 0 l.slot

/-- EVENT ACTLD_COMPLETE (R169). -/
def execActldComplete (core : Nat) (s : State) : Res := .next (s.runImg core 1 fun _ => true)

/-- EVENT MLOAD_COMPLETE (R193): after every MCALL on the slot's previous contents. -/
def execMloadComplete (core : Nat) (s : State) : Res := .next (s.runImg core 4 fun l => !s.macroRuns core l.slot)

/-- EVENT SMPLD_COMPLETE (R256): after every SAMPLE on the slot's old contents. -/
def execSmpldComplete (core : Nat) (s : State) : Res :=
  .next (s.runImg core 2 fun l => !(s.samples.any fun j => j.core == core && j.slot == l.slot))

end Sys2Proof.Machine
end

