-- ==== Sys2Proof/Machine/Caddy.lean ====
section
/-!
DEFINITION. Caddy regions (R225 to R228, R295 to R309): declaration records, the tree's shape, the pool, and the
operations of the caddy unit.
-/

namespace Sys2Proof.Machine

/-! The tree (R304). -/

/-- Leaf capacity by element words. -/
def leafCap (w : Nat) : Nat := if w = 1 then 16 else if w = 2 then 12 else if w = 4 then 8 else 4

/-- The height: 0 for an empty region. -/
def CReg.height (r : CReg) : Nat := if r.seps = [] then 0 else r.levels.length + 1

/-- Nodes in use. -/
def CReg.used (r : CReg) : Nat := r.seps.length + (r.levels.map (·.length)).sum

/-- Free nodes, not counting those reserved for buffered CREDs (R228). -/
def CReg.free (r : CReg) : Nat := 8192 * r.pages.length - r.used - r.resv

/-- The node of a level that holds child `ix`, and the child's place in it. -/
def nodeOf : Nat → List Nat → Nat → Nat × Nat
  | _, [], ix => (0, ix)
  | i, c :: cs, ix => if ix < c then (i, ix) else nodeOf (i + 1) cs (ix - c)

/-- A child is added after child `ix` of the lowest level given; full nodes split 9 and 8, a split root gets a new one. -/
def growLevels : List (List Nat) → Nat → List (List Nat)
  | [], _ => [[2]]
  | lv :: rest, ix =>
    let (i, _) := nodeOf 0 lv ix
    let c := lv.getD i 0 + 1
    if c ≤ 16 then lv.set i c :: rest else (lv.take i ++ [9, 8] ++ lv.drop (i + 1)) :: growLevels rest i

/-- Child `ix` of the lowest level given is removed; interior nodes left without a child go too. The second part says
whether it was the first child where the removal ends. -/
def shrinkLevels : List (List Nat) → Nat → List (List Nat) × Bool
  | [], _ => ([], true)
  | lv :: rest, ix =>
    let (i, p) := nodeOf 0 lv ix
    let c := lv.getD i 0
    if 1 < c then (lv.set i (c - 1) :: rest, p == 0)
    else
      let (rest, z) := shrinkLevels rest i
      (lv.eraseIdx i :: rest, z)

/-- Drops roots of one child, from the top; the list is given from the top down. -/
def dropTops : List (List Nat) → List (List Nat)
  | [1] :: rest => dropTops rest
  | l => l

/-- The leaf that a key is routed to. -/
def CReg.leafIx (r : CReg) (key : Nat) : Nat := (r.seps.filter (· ≤ key)).length - 1

/-- The entries of a leaf. -/
def CReg.leafKeys (r : CReg) (j : Nat) : List Nat :=
  let lo := r.seps.getD j 0
  (r.entries.map (·.1)).filter fun k => lo ≤ k && match r.seps[j + 1]? with | some hi => k < hi | none => true

/-- The element at a key. -/
def CReg.get (r : CReg) (key : Nat) : Option (List Word) := (r.entries.find? (·.1 == key)).map (·.2)

/-- An element stored at a key that holds one, or inserted (R304). -/
def CReg.put (r : CReg) (w key : Nat) (x : List Word) : CReg :=
  if (r.get key).isSome then { r with entries := r.entries.map fun e => if e.1 = key then (key, x) else e }
  else
    let es := (r.entries.filter (·.1 < key)) ++ [(key, x)] ++ r.entries.filter (fun e => key < e.1)
    if r.seps = [] then { r with entries := es, seps := [0] }
    else
      let r := { r with entries := es }
      let j := r.leafIx key
      let ks := r.leafKeys j
      if ks.length ≤ leafCap w then r
      else
        let sep := ks.getD ((leafCap w + 2) / 2) 0
        { r with seps := r.seps.take (j + 1) ++ [sep] ++ r.seps.drop (j + 1), levels := growLevels r.levels j }

/-- An element deleted; a leaf left empty is freed (R304). -/
def CReg.del (r : CReg) (key : Nat) : CReg :=
  if (r.get key).isNone then r
  else
    let j := r.leafIx key
    let r := { r with entries := r.entries.filter (·.1 != key) }
    if r.leafKeys j ≠ [] then r
    else if r.levels = [] then { r with seps := [] }
    else
      let (lv, first) := shrinkLevels r.levels j
      { r with seps := r.seps.eraseIdx (if first then j + 1 else j), levels := (dropTops lv.reverse).reverse }

/-! Declaration records (R295, R296). -/

/-- A declaration record. -/
structure CDecl where
  pooltab : Nat
  pooln : Nat
  poolmax : Nat
  dims : Nat
  w : Nat
  f32w : Bool
  widths : List Nat
  skipped : Nat
  taken : Nat
  fresh : Bool

/-- The record in 64 bytes; none where a field lies out of its range or a reserved byte is not zero. -/
def parseDecl (bs : List Byte) : Option CDecl :=
  let dims := bytesAt bs 16 1
  let ws := (List.range 4).map fun k => bytesAt bs (20 + k) 1
  let ok := bytesAt bs 0 8 % 8 == 0 && !isDomain (bytesAt bs 0 8) && canonical (bytesAt bs 0 8)
    && bytesAt bs 8 4 ≤ bytesAt bs 12 4 && 1 ≤ bytesAt bs 12 4 && bytesAt bs 12 4 ≤ 4096 && 1 ≤ dims && dims ≤ 4
    && bytesAt bs 17 1 ≤ 3 && bytesAt bs 18 1 ≤ 1 && bytesAt bs 19 1 == 0 && bytesAt bs 24 8 == 0 && bytesAt bs 41 1 == 0
    && (ws.take dims).all (fun b => 1 ≤ b && b ≤ 64) && (ws.drop dims).all (· == 0) && ws.sum ≤ 64
  if ok then
    some { pooltab := bytesAt bs 0 8, pooln := bytesAt bs 8 4, poolmax := bytesAt bs 12 4, dims := dims,
           w := 2 ^ bytesAt bs 17 1, f32w := bytesAt bs 18 1 == 1, widths := ws, skipped := bytesAt bs 42 2,
           taken := bytesAt bs 44 4, fresh := bytesAt bs 32 32 == 0 }
  else none

/-- The key width. -/
def CDecl.keyw (d : CDecl) : Nat := d.widths.sum

/-- The declared region that a handle names for a context (R296): its record and its physical line. -/
def State.declOf (s : State) (c : Ctx) (handle : Nat) : Except Cause (CDecl × Nat) :=
  if handle % 64 ≠ 0 ∨ isDomain handle ∨ !canonical handle then .error .access
  else
    match s.xlat c.core c.slice c.priv false .write handle with
    | .error _ => .error .access
    | .ok e =>
      let line := pline (e.paOf handle)
      if s.discarded e then .error .access
      else if s.poison.contains line then .error .memUe
      else
        match parseDecl (s.homeLine line) with
        | some d => .ok (d, line)
        | none => .error .access

/-- The region of a record; a record whose unit bytes are all zero names a fresh region. A fenced region is never taken for one: it
holds a node, so its unit has written TAKEN. -/
def State.creg (s : State) (d : CDecl) (line : Nat) : CReg := if d.fresh then {} else NMap.get {} s.caddy line

/-- A region with its root node named: no root while it is empty; the root that it had while the height stays, since only a new
level, a lost level or a first leaf moves the root (R304). Where a root is first placed in the pool is a free value (log 30). -/
def CReg.rooted (r old : CReg) (tick : Nat) : CReg :=
  let f := Config.freeWord tick
  if r.seps = [] then { r with root := 0 }
  else if r.height = old.height then { r with root := old.root }
  else { r with root := r.pages.getD (f % r.pages.length) 0 + 256 * (f / 4096 % 8192) }

/-- The unit's bytes 32 to 63 of a record. -/
def CReg.unitBytes (r : CReg) (skipped taken : Nat) : List Byte :=
  toBytes 8 r.root ++ toBytes 1 r.height ++ toBytes 1 0 ++ toBytes 2 skipped ++ toBytes 4 taken ++ toBytes 4 r.used
    ++ toBytes 4 r.free ++ toBytes 8 r.entries.length

/-- The unit keeps a region and writes its bytes of the record at the root home slice. -/
def State.putReg (s : State) (line skipped taken : Nat) (r : CReg) : State :=
  let r := r.rooted (NMap.get {} s.caddy line) s.tick
  { s with caddy := NMap.put s.caddy line r }.homePut (64 * line + 32) (r.unitBytes skipped taken)

/-! Errors in the pool (R308, R309). -/

/-- Is a pool page no longer mapped? -/
def State.poolLost (s : State) (slice va : Nat) : Bool := match s.walk slice va with | .ok _ => false | .error _ => true

/-- The number of poisoned lines of a pool page, and of its lines. -/
def State.poolPoison (s : State) (slice va : Nat) : Nat × Nat :=
  match s.walk slice va with
  | .ok e => (s.poison.countP fun l => decide (e.pa ≤ 64 * l) && decide (64 * l < e.pa + e.size), e.size / 64)
  | .error _ => (0, 1)

/-- Does an operation reach an uncorrectable error in the pool, or a pool page that is no longer mapped (R308, R309)? Which nodes
it reads is the unit's own, so a free value decides (log 30), but where no line of the pool can be read a tree that holds
something is not read. -/
def State.poolHit (s : State) (c : Ctx) (r : CReg) : Option Cause :=
  let lost (va : Nat) : Bool := s.poolLost c.slice va
  let dead (va : Nat) : Bool := lost va || decide ((s.poolPoison c.slice va).2 ≤ (s.poolPoison c.slice va).1)
  let anyLost := r.pages.any lost
  let anyBad := r.pages.any fun va => decide (0 < (s.poolPoison c.slice va).1)
  let sure := !r.entries.isEmpty && !r.pages.isEmpty && r.pages.all dead
  let free := Config.freeWord s.tick
  if r.fenced then some .memUe
  else if !sure && free % 2 == 0 then none
  else if anyLost && (!anyBad || free / 2 % 2 == 0) then some .pageFault
  else if anyBad then some .memUe
  else none

/-- A region is fenced after an uncorrectable error in a node (R309). -/
def State.fenceReg (s : State) (line : Nat) (r : CReg) : State :=
  { s with caddy := NMap.put s.caddy line { r with fenced := true } }

/-- The state of a caddy operation's trap: an uncorrectable error in a node fences the region (R309). -/
def State.fenceFor (s : State) (tr : Trap) (handle : Nat) : State :=
  match s.declOf s.ctx' handle with
  | .ok (d, line) => if tr.cause = .memUe then s.fenceReg line (s.creg d line) else s
  | .error _ => s

/-! The unit (R226, R300). -/

/-- The words that CRED leaves (R226). -/
def credWords (f32w : Bool) (old data : List Word) : List Word :=
  List.zipWith (fun e x => if f32w then toW (fAdd f32 0 false e.toNat x.toNat) else e + x) old data

/-- A region after CST or CRED of a value. -/
def CReg.write (r : CReg) (cred f32w : Bool) (w key : Nat) (data : List Word) : CReg :=
  if data.all (· == 0) then (if cred then r else r.del key)
  else if cred then r.put w key (credWords f32w ((r.get key).getD (List.replicate w 0)) data)
  else r.put w key data

/-- The key and the element that CNEXT returns. -/
def CReg.next (r : CReg) (w key : Nat) : Nat × List Word :=
  match r.entries.find? fun e => key ≤ e.1 with
  | some e => e
  | none => (2 ^ 64 - 1, List.replicate w 0)

/-- One operation at the unit of its region. An error is the issuing team's, and where that has ended, its launch's. -/
def State.performCaddy (s : State) (o : CaddyOp) : State :=
  let r := NMap.get {} s.caddy o.line
  let s := s.cisEvict o.line
  let bs := s.homeLine o.line
  let c : Ctx := ⟨(s.team o.uid).core, o.slice, false, o.uid, o.launch⟩
  if s.poolHit c r = some .memUe then
    let s := s.fenceReg o.line r
    if (s.team o.uid).live then s.lateFault o.uid o.t .memUe o.handle (o.minor == 1 || o.minor == 2)
    else s.report o.slice { kind := 5, launch := o.launch, detail := causeOnly .memUe + 2 ^ 31, addr := o.handle }
  else
    let rb := bytesAt bs
    let r' := if o.minor = 1 ∨ o.minor = 2 then r.write (o.minor == 2) (rb 18 1 == 1) o.w o.key o.data else r
    let s := s.putReg o.line (rb 42 2) (rb 44 4) r'
    let zeros := List.replicate o.w (0 : Word)
    match o.minor with
    | 0 => s.fillRegs o.uid o.t (((List.range o.w).map (o.reg + ·)).zip ((r.get o.key).getD zeros))
    | 3 =>
      let (k, e) := r.next o.w o.key
      s.fillRegs o.uid o.t (((List.range (o.w + 2)).map (o.reg + ·)).zip ([lo32 k, hi32 k] ++ e))
    | 4 => s.fillRegs o.uid o.t [(o.reg, if (r.get o.key).isSome then 1 else 0), (o.reg + 1, toW (min r.free (2 ^ 32 - 1)))]
    | _ => s

/-- EVENT CADDY_OPERATION (R226, R300): the operations of a gang on their way reach their units in their order, up to the
k-th. -/
def execCaddyOperation (k : Nat) (s : State) : Res :=
  match s.caddyOps[k]? with
  | none => .next s
  | some p =>
    let mine (q : CaddyOp) : Bool := q.uid == p.uid && q.t / 32 == p.t / 32
    let now := (s.caddyOps.take (k + 1)).filter mine
    let rest := (s.caddyOps.take (k + 1)).filter (fun q => !mine q) ++ s.caddyOps.drop (k + 1)
    .next (now.foldl State.performCaddy { s with caddyOps := rest })

/-! The pool (R303, R305). -/

/-- Is a pool-table entry's page acceptable: TIER 2, CADDY, W, not DISC, owned? -/
def State.poolPageOk (s : State) (c : Ctx) (va : Nat) : Bool :=
  va % 0x200000 == 0 && !isDomain va && canonical va
  && match s.walk c.slice va with
    | .ok e => e.tier == 2 && e.caddy && e.w && !e.disc
    | .error _ => false

/-- Examines pool-table entries from TAKEN on until FREE meets the requirement or TAKEN reaches POOLN. -/
def State.examine (s : State) (c : Ctx) (d : CDecl) (line need : Nat) :
    Nat → CReg → Nat → Nat → State × CReg
  | 0, r, sk, tk => (s.putReg line sk tk r, r)
  | fuel + 1, r, sk, tk =>
    if need ≤ r.free ∨ d.pooln ≤ tk then (s.putReg line sk tk r, r)
    else
      match s.engRead c (d.pooltab + 8 * tk) 8 with
      | (_, .ok bs) =>
        if s.poolPageOk c (ofBytes bs) then
          s.examine c d line need fuel { r with pages := r.pages ++ [ofBytes bs] } sk (tk + 1)
        else s.examine c d line need fuel r (min (sk + 1) 65535) (tk + 1)
      | (_, .error _) => s.examine c d line need fuel r (min (sk + 1) 65535) (tk + 1)

/-- Nodes that operations of a region on their way to the unit may take (R227). -/
def State.caddyBusy (s : State) (line : Nat) : Nat := ((s.caddyOps.filter (·.line == line)).map (·.need)).sum

/-- The operations of a region that are on their way reach the unit, in their order. -/
def State.settleReg (s : State) (line : Nat) : State :=
  (s.caddyOps.filter (·.line == line)).foldl State.performCaddy { s with caddyOps := s.caddyOps.filter fun o => o.line != line }

/-- Before the requirement of an issue with `ins` lanes that may insert is formed: where what is on its way could leave the pool with too
few nodes, or could raise the height, those operations come first in the unit order (R300), so that the height and FREE are those of
that moment (R227, R305). -/
def State.settleFor (s : State) (line ins : Nat) : State :=
  let r : CReg := NMap.get {} s.caddy line
  let most := ins * (r.height + 1 + s.caddyOps.countP fun o => o.line == line && o.need != 0)
  if ins = 0 ∨ most + s.caddyBusy line ≤ r.free then s else s.settleReg line

/-- The operations of a gang that are on their way reach their units, after those of other threads that came before: an edge of R97
carries them (R301). -/
def State.settleGang (s : State) (u g : Nat) : State :=
  ((s.caddyOps.filter fun o => o.uid == u && o.t / 32 == g).map (·.line)).eraseDups.foldl State.settleReg s

/-- The node requirement of an issue: INDEX_EXHAUSTED where the pool, after examination, holds fewer (R227, R305). -/
def State.require (s : State) (c : Ctx) (d : CDecl) (line need : Nat) : State × Bool :=
  if need ≤ (NMap.get {} s.caddy line).free then (s, true)
  else
    let rb := bytesAt (s.homeLine line)
    let (s, r) := s.examine c d line need 4096 (NMap.get {} s.caddy line) (rb 42 2) (rb 44 4)
    (s, need ≤ r.free)

/-! Issue (R225). -/

/-- The checks of R225 and what they leave: the record and its line; an access of CST or CRED that fails is a write (R347). -/
def State.caddyCheck (s : State) (minor t : Nat) (a : VReg) (handle nreg : Nat) : Except Trap (CDecl × Nat) :=
  let write : Bool := minor == 1 || minor == 2
  match s.declOf s.ctx' handle with
  | .error c => .error { s.trapLow c (if c = .memUe then 0 else 1) handle with write := write }
  | .ok (d, line) =>
    let last := if minor = 4 then t + 1 else if minor = 3 then t + d.w + 1 else t + d.w - 1
    if (minor < 3 ∧ t % d.w ≠ 0) ∨ nreg ≤ last then .error (s.trapLow .illegalField 2 handle)
    else
      match s.iss.lanes.find? fun l => 2 ^ d.keyw ≤ s.rp l a.toNat || (write && s.rp l a.toNat == 2 ^ 64 - 1) with
      | some l => .error { cause := .access, lane := l, check := 3, addr := handle, write := write }
      | none =>
        match s.poolHit s.ctx' (s.creg d line) with
        | some c => .error { s.trapLow c 0 handle with write := write }
        | none => .ok (d, line)

/-- The number of vector registers of a team's kernel (R30). -/
def State.nregOf (s : State) (u : Nat) : Nat := (s.team u).nreg

/-- The data of a lane. -/
def State.laneWords (s : State) (l t w : Nat) : List Word := (List.range w).map fun k => s.rv l (t + k)

/-- One lane's operation on its way to the unit. -/
def State.sendCaddy (s : State) (minor handle line : Nat) (d : CDecl) (t : Nat) (a : VReg) (need : Nat) (l : Nat) : State :=
  let data := if minor = 1 ∨ minor = 2 then s.laneWords l t d.w else []
  let op : CaddyOp :=
    { uid := s.iss.uid, launch := s.cur.launch, t := s.tOf l, slice := s.cur.slice, minor := minor, handle := handle, line := line,
      key := s.rp l a.toNat, data := data, reg := t, w := d.w, need := if data.any (· != 0) then need else 0 }
  { s with caddyOps := s.caddyOps ++ [op] }

/-- A region known to its unit from its first operation. -/
def State.claim (s : State) (d : CDecl) (line : Nat) : State :=
  if d.fresh then { s with caddy := NMap.put s.caddy line (s.creg d line) } else s

/-- CLD, CNEXT and CPROBE: `n` result registers by the element width. -/
def caddyRead (minor : Nat) (t a : VReg) (h : BitVec 4) (n : Nat → Nat) (s : State) : Res :=
  let handle := s.rup (2 * h.toNat)
  match s.caddyCheck minor t.toNat a handle (s.nregOf s.iss.uid) with
  | .error tr => raise tr (s.fenceFor tr handle)
  | .ok (d, line) =>
    .next (((s.drain.claim d line).lanes fun s l => s.sendCaddy minor handle line d t.toNat a 0 l).markEmpty t.toNat (n d.w))

def execCld (t a : VReg) (h : BitVec 4) (s : State) : Res := caddyRead 0 t a h (fun w => w) s
def execCnext (t a : VReg) (h : BitVec 4) (s : State) : Res := caddyRead 3 t a h (fun w => w + 2) s
def execCprobe (t a : VReg) (h : BitVec 4) (s : State) : Res := caddyRead 4 t a h (fun _ => 2) s

/-- CST and CRED: the requirement of R227, then the operations. A CRED of a deterministic launch is buffered and its nodes
stay reserved (R228). -/
def caddyWrite (minor : Nat) (t a : VReg) (h : BitVec 4) (s : State) : Res :=
  let handle := s.rup (2 * h.toNat)
  match s.caddyCheck minor t.toNat a handle (s.nregOf s.iss.uid) with
  | .error tr => raise tr (s.fenceFor tr handle)
  | .ok (d, line) =>
    let ins := s.iss.lanes.countP fun l => (s.laneWords l t.toNat d.w).any (· != 0)
    let s0 := (s.claim d line).settleFor line ins
    let per := (NMap.get {} s0.caddy line : CReg).height + 1
    let (s1, ok) := s0.require s.ctx' d line (ins * per)
    if !ok then raise { s.trapLow .indexExhausted 0 handle with code := min (ins * per) 65535 } s1
    else if minor = 2 ∧ s.cur.det then
      let need (l : Nat) := if (s.laneWords l t.toNat d.w).any (· != 0) then per else 0
      match s1.bufferLanes 7 (fun l => .cred handle line (s.rp l a.toNat) (s.laneWords l t.toNat d.w) (need l)) []
          (s.iss.lanes.map fun l => (l, handle)) with
      | .error tr => raise { tr with addr := handle } s
      | .ok s2 =>
        let r := NMap.get {} s2.caddy line
        let rb := bytesAt (s2.homeLine line)
        .next (s2.putReg line (rb 42 2) (rb 44 4) { r with resv := r.resv + ins * per })
    else .next (s1.drain.lanes fun s l => s.sendCaddy minor handle line d t.toNat a per l)

def execCst (t a : VReg) (h : BitVec 4) (s : State) : Res := caddyWrite 1 t a h s
def execCred (t a : VReg) (h : BitVec 4) (s : State) : Res := caddyWrite 2 t a h s

/-! Densifying copies (R307). -/

/-- The element that a densifying copy reads for a destination index, as bytes; a region declared anew is empty (R296). -/
def State.denseElem (s : State) (d : CDecl) (line : Nat) (i : List Nat) : List Byte :=
  let bad := (i.zip d.widths).any fun (c, b) => 2 ^ b ≤ c
  let key := ((i.zip d.widths).foldl (fun (k, sh) (c, b) => (k + c * 2 ^ sh, sh + b)) (0, 0)).1
  let x := if bad then none else (s.creg d line).get key
  ((x.getD (List.replicate d.w 0)).map fun w => toBytes 4 w.toNat).flatten

end Sys2Proof.Machine
end

