-- ==== Sys2Proof/Machine/Pump.lean ====
section
/-!
DEFINITION. The Pump's copies and their channels (R90, R109, R216 to R224, R284).
-/

namespace Sys2Proof.Machine

/-! Pieces: an element, or one byte of a row of 4-bit or 6-bit elements. -/

/-- The bytes of a piece of a record. -/
def Trec.pb (t : Trec) : Nat := if t.esz < 2 then 1 else 2 ^ (t.esz - 2)

/-- Pieces of one row. -/
def Trec.rowP (t : Trec) : Nat := t.e 0 * elemBits t.esz / 8 / t.pb

/-- Bytes of one row. -/
def Trec.rowB (t : Trec) : Nat := t.rowP * t.pb

/-- The first byte of piece p of the row (i1, i2, i3) under a LAYOUT (R82, R235, R284). -/
def Trec.piece (t : Trec) (layout p i1 i2 i3 : Nat) : Int :=
  if layout = 1 then (t.base : Int) + canonOff i1 (p * t.pb)
  else if layout = 2 then (t.base : Int) + 24 * i1 + p
  else (t.base : Int) + p * t.pb + i1 * t.s 1 + i2 * t.s 2 + i3 * t.s 3

/-- The LAYOUT of a copy. -/
def CopyKind.layout (k : CopyKind) : Nat :=
  match k with
  | .plain _ l => l
  | .scatter l _ => l
  | .gather l _ => l

/-- Bytes that a copy counts in all (R219, R221). -/
def copyTotal (k : CopyKind) (src dst : Trec) : Nat :=
  match k with
  | .plain _ _ => dst.rowB * dst.e 1 * dst.e 2 * dst.e 3
  | .scatter _ _ => dst.rowB * src.e 1
  | .gather _ _ => dst.rowB * dst.e 1

/-- The next piece of a copy: the destination byte, none for a skipped row; the source byte, none for a zero; the
destination index. -/
def Copy.nextPiece (c : Copy) : Option Int × Option Int × List Nat :=
  let k := c.at_ / c.dst.pb
  let p := k % c.dst.rowP
  let j := k / c.dst.rowP
  let i1 := j % c.dst.e 1
  let i2 := j / c.dst.e 1 % c.dst.e 2
  let i3 := j / (c.dst.e 1 * c.dst.e 2)
  match c.kind with
  | .plain tr l =>
    let src :=
      if tr then (if i1 < c.src.e 0 ∧ p < c.src.e 1 ∧ i2 < c.src.e 2 ∧ i3 < c.src.e 3 then some (c.src.piece 0 i1 p i2 i3) else none)
      else if p < c.src.rowP ∧ i1 < c.src.e 1 ∧ i2 < c.src.e 2 ∧ i3 < c.src.e 3 then some (c.src.piece 0 p i1 i2 i3) else none
    (some (c.dst.piece l p i1 i2 i3), src, [p, i1, i2, i3])
  | .scatter l idx =>
    let r := idx.getD j 0
    (if r = 0xFFFFFFFF then none else some (c.dst.piece l p r 0 0), some (c.src.piece 0 p j 0 0), [])
  | .gather l idx =>
    let r := idx.getD j 0
    (some (c.dst.piece l p j 0 0), if r = 0xFFFFFFFF then none else some (c.src.piece 0 p r 0 0), [])

/-! Channels. -/

/-- Channel ch of team u. -/
def State.chan (s : State) (u ch : Nat) : Chan := NMap.get {} (s.team u).chans ch

/-- Replaces a channel. -/
def State.setChan (s : State) (u ch : Nat) (c : Chan) : State :=
  let tm := s.team u
  s.setTeam u { tm with chans := NMap.put tm.chans ch c }

/-- Copies and ROUTEs in flight on a core (R90, R239). -/
def State.copiesOn (s : State) (core : Nat) : Nat :=
  ((s.teamsOn core).map fun tm => (tm.chans.map fun e => e.2.queue.length).sum).sum + s.routes.countP (·.core == core)
    + s.fins.countP fun f => (s.team f.1).core == core && match f.2.2 with | .reg _ _ _ _ => true | _ => false

/-- Replaces the copy at the head of a channel. -/
def State.setCopyHead (s : State) (u ch : Nat) (c : Copy) : State :=
  let cn := s.chan u ch
  s.setChan u ch { cn with queue := c :: cn.queue.drop 1 }

/-- The copy at the head of a channel changed. -/
def State.modCopyHead (s : State) (u ch : Nat) (f : Copy → Copy) : State :=
  match (s.chan u ch).queue with
  | c :: _ => s.setCopyHead u ch (f c)
  | [] => s

/-- The copy at the head of a channel is complete or aborted: it leaves, arrives at its barrier, writes its completion word
(R109, R219, R223). -/
def State.finishCopy (s : State) (u ch : Nat) (aborted : Bool) : State :=
  let cn := s.chan u ch
  match cn.queue with
  | [] => s
  | c :: rest =>
    let s := s.setChan u ch { cn with queue := rest, err := cn.err || (aborted && c.bar.isNone) }
    let s := match c.bar with
      | some b =>
        let br := s.bar u b
        s.setBar u b { br with copies := br.copies - 1, error := br.error || aborted }
      | none => s
    let s := match c.done with
      | some (va, scope) =>
        s.writeCw (s.ctxOf u c.priv) va scope ((if aborted then 2 else 1) * 2 ^ 62 + c.total % 2 ^ 48)
      | none => s
    s.engineDone u

/-- The bytes of the part of a piece that a copy delivers next: an access is indivisible for 8 bytes at most (R94). -/
def Copy.part (c : Copy) : Nat := min 8 (c.dst.pb - c.at_ % c.dst.pb)

/-- n more bytes of the copy at the head of a channel are counted. An element of a caddy region, which is read once, is kept until its
last part is delivered. -/
def State.countCopy (s : State) (u ch n : Nat) : State :=
  let cn := s.chan u ch
  match cn.queue with
  | [] => s
  | c :: rest =>
    let c := { c with at_ := c.at_ + n, busy := 0, got := if c.skind = 2 ∧ (c.at_ + n) % c.dst.pb ≠ 0 then c.got else none }
    let s := s.setChan u ch { cn with wp := (cn.wp + n) % 2 ^ 64, queue := c :: rest }
    if c.total ≤ c.at_ then s.finishCopy u ch false else s

/-- A copy suspended on a fault: its channel runs nothing until the entry is answered (R109), what the Sluice met ahead of it is
looked at anew, and an element of a caddy region keeps the bytes that were read of it. -/
def State.faultCopy (s : State) (u ch : Nat) (c : Copy) (x : Cause) (addr : Nat) (write : Bool) : State :=
  (s.modCopyHead u ch fun c =>
    { c with fault := true, busy := 0, got := if c.skind = 2 then c.got else none, met := [] }).suspend (s.ctxOf u c.priv) x addr write 0 ch ch

/-- Scratchpad bytes of a team. -/
def State.scrBytes (s : State) (u off n : Nat) : List Byte :=
  (List.range n).map fun k => NMap.get 0 s.scratch (skey u (off + k))

/-- Scratchpad bytes written. -/
def State.scrPuts (s : State) (u off : Nat) (bs : List Byte) : State :=
  { s with scratch := (bs.zipIdx).foldl (fun m (b, k) => NMap.put m (skey u (off + k)) b) s.scratch }

/-- The bytes of the element that a densifying copy delivers, read at the region's unit (R219). -/
def State.denseSource (s : State) (u : Nat) (c : Copy) (ix : List Nat) : State × Except (Cause × Nat) (List Byte) :=
  let x := s.ctxOf u c.priv
  match s.declOf x c.handle with
  | .error e => (s, .error (e, c.handle))
  | .ok (d, line) =>
    match s.poolHit x (s.creg d line) with
    | some .memUe => (s.fenceReg line (s.creg d line), .error (.memUe, c.handle))
    | some e => (s, .error (e, c.handle))
    | none => (s, .ok (s.denseElem d line ix))

/-- The fault that the Sluice holds back for a unit that is used now (R83). -/
def Copy.metAt (c : Copy) (va : Nat) (write : Bool) : Option Cause := (c.met.find? fun m => m.1 == va / 4096 && m.2.1 == write).map (·.2.2)

/-- The source bytes of a copy's next part: none where another package is asked for them, after what the core has written of the
line (the fork edge, R97). -/
def State.copySource (s : State) (u ch : Nat) (c : Copy) (src : Option Int) (ix : List Nat) :
    State × Except (Cause × Nat) (Option (List Byte)) :=
  let x := s.ctxOf u c.priv
  let o := c.at_ % c.dst.pb
  let n := c.part
  if c.skind = 2 then
    match c.got with
    | some bs => (s, .ok (some (sliceOf bs o n)))
    | none =>
      match s.denseSource u c ix with
      | (s, .ok bs) => (s.setCopyHead u ch { c with got := some bs }, .ok (some (sliceOf bs o n)))
      | (s, .error e) => (s, .error e)
  else
    match c.got, src with
    | some bs, _ => (s, .ok (some bs))
    | none, none => (s, .ok (some (List.replicate n 0)))
    | none, some a =>
      if c.skind = 1 then (s, .ok (some (s.scrBytes u (a.toNat + o) n)))
      else
        let va := wrap (a + o) 64
        if isDomain va then
          (((s.giveUp x.core va u 1023).setCopyHead u ch { c with busy := 1 }).sendReq x.slice u 1023 (domPkg va)
            (plainReq .read (domOff va) n 0) (.copy ch), .ok none)
        else
          match c.metAt va false with
          | some e => (s, .error (e, va))
          | none =>
            match s.engRead x va n with
            | (s, .ok bs) => (s, .ok (some bs))
            | (s, .error e) => (s, .error e)

/-- Delivers the next part of the copy at the head of a channel. One that goes to another package leaves no copy of its line with the
core (R103). -/
def State.deliverCopy (s : State) (u ch : Nat) (c : Copy) : State :=
  let n := c.part
  match c.nextPiece with
  | (none, _, _) => s.countCopy u ch c.dst.rowB
  | (some d, src, ix) =>
    match s.copySource u ch c src ix with
    | (s, .error (x, a)) => s.faultCopy u ch c x a false
    | (s, .ok none) => s
    | (s, .ok (some bs)) =>
      let d := d + (c.at_ % c.dst.pb : Nat)
      if c.dscr then (s.scrPuts u d.toNat bs).countCopy u ch n
      else
        let va := wrap d 64
        let x := s.ctxOf u c.priv
        if isDomain va then
          ((s.giveUp x.core va u 1023).modCopyHead u ch fun c => { c with busy := 2 }).sendReq x.slice u 1023 (domPkg va)
            (plainReq .write (domOff va) n (ofBytes bs)) (.copy ch)
        else
          match c.metAt va true with
          | some e => s.faultCopy u ch c e va true
          | none =>
            match s.engPut x va bs with
            | (s, none) => s.countCopy u ch n
            | (s, some (e, a)) => s.faultCopy u ch c e a true

/-- Another package answers a copy's part: bytes read, or a write performed. -/
def State.copyReply (s : State) (u ch x : Nat) : State :=
  match (s.chan u ch).queue with
  | [] => s
  | c :: _ =>
    if c.busy = 1 then s.setCopyHead u ch { c with busy := 0, got := some (toBytes c.part x) }
    else if c.busy = 2 then s.countCopy u ch c.part
    else s

/-! The Sluice ahead of its use (R83). -/

/-- The local memory addresses of the piece at a place of a copy, and whether it writes there: source, then destination. A record with
a domain-global BASE has none. -/
def Copy.memAt (c : Copy) (at_ : Nat) : List (Nat × Bool) :=
  let (d, a, _) := { c with at_ := at_ }.nextPiece
  let unit (t : Trec) (w : Bool) (x : Int) : Option (Nat × Bool) :=
    if isDomain t.base || isDomain (wrap x 64) then none else some (wrap x 64, w)
  (if c.skind = 0 then a.toList.filterMap (unit c.src false) else []) ++ (if c.dscr then [] else d.toList.filterMap (unit c.dst true))

/-- What the Sluice has come to ahead: the state with the translations that it holds, the pages seen, as base and size, and the faults
met. -/
abbrev Ahead := State × List (Nat × Nat) × List (Nat × Bool × Cause)

/-- One unit ahead, unless 64 distinct pages have been seen: its translation is held, or its fault held back. -/
def Ahead.unit (x : Ctx) (p : Ahead) (a : Nat × Bool) : Ahead :=
  let (s, pages, met) := p
  if 64 ≤ pages.length || pages.any fun q => q.1 ≤ a.1 && a.1 < q.1 + q.2 then p
  else
    match s.engXlat x (if a.2 then .write else .read) a.1 with
    | .ok e => (s.hold (194 + coreDie x.core) e, pages ++ [(e.va, e.size)], met)
    | .error c => (s, pages ++ [(a.1 / 4096 * 4096, 4096)], met ++ [(a.1 / 4096, a.2, c)])

/-- The units of the pieces of a copy from a place on, in its order, over at most `fuel` pieces. -/
def Copy.ahead (c : Copy) (x : Ctx) : Nat → Nat → Ahead → Ahead
  | 0, _, p => p
  | fuel + 1, at_, p =>
    if c.total ≤ at_ ∨ 64 ≤ p.2.1.length then p
    else c.ahead x fuel (at_ + c.dst.pb) ((c.memAt at_).foldl (Ahead.unit x) p)

/-- The Sluice translates ahead of a copy, over a free number of its pieces (R83, R367), at most 64 pages. -/
def State.walkAhead (s : State) (u ch : Nat) : State :=
  match (s.chan u ch).queue with
  | [] => s
  | c :: _ =>
    let p := c.ahead (s.ctxOf u c.priv) (Config.freeChoice (s.tick * 2 ^ 20 + ch) % 2 ^ 40) c.at_ (s, [], [])
    p.1.modCopyHead u ch fun c => { c with met := p.2.2 }

/-- The Sluice translates the units of a record for a PREFETCH: at most 64 pages, their faults dropped (R83, R224). -/
def State.aheadTrec (s : State) (t : Trec) : State :=
  let k : CopyKind := .plain false 0
  let c : Copy :=
    { kind := k, priv := s.privL s.low, skind := 0, dscr := true, src := t, dst := t, handle := 0, bar := none, done := none,
      at_ := 0, total := copyTotal k t t, started := false, fault := false, busy := 0, got := none }
  (c.ahead s.ctx' (c.total + 1) 0 (s, [], [])).1

/-- EVENT COPY_START (R90): a channel starts its oldest copy. -/
def execCopyStart (u ch : Nat) (s : State) : Res :=
  match (s.chan u ch).queue with
  | c :: _ => .next (s.setCopyHead u ch { c with started := true })
  | [] => .next s

/-- EVENT COPY_DELIVERY (R65, R109, R219, R221): the next part of a channel's running copy, unless its team has been stopped. -/
def execCopyDelivery (u ch : Nat) (s : State) : Res :=
  match (s.chan u ch).queue with
  | c :: _ =>
    .next (if c.started && !c.fault && c.busy == 0 && !s.halted u then (s.deliverCopy u ch c).walkAhead u ch else s)
  | [] => .next s

/-! Issue. -/

/-- Check 1 of R218 for one record address: the record's bytes. -/
def State.readRec (s : State) (va : Nat) : State × Except Trap (List Byte) :=
  let bad (c : Cause) (n : Nat) : Except Trap (List Byte) := .error (s.trapLow c n va)
  if va % 64 ≠ 0 then (s, bad .align 1)
  else if isDomain va ∨ !canonical va then (s, bad .access 1)
  else
    match s.xlat s.cur.core s.cur.slice (s.privL s.low) false .read va with
    | .error c => (s, bad c (if c = .memUe then 0 else 1))
    | .ok e =>
      match (s.note s.cur.core e).engRead s.ctx' va 64 with
      | (s', .error (c, _)) => (s', bad c (if c = .memUe then 0 else 1))
      | (s', .ok bs) => (s', .ok bs)

/-- The first part of check 2 of R218 on a record. -/
def State.trecOf (s : State) (bs : List Byte) : Except Trap Trec :=
  match parseTrec bs with
  | some t => .ok t
  | none => .error (s.trapLow .illegalField 2 0)

/-- Both checks on the one record of PREFETCH. -/
def State.readTrec (s : State) (va : Nat) : State × Except Trap Trec :=
  match s.readRec va with
  | (s, .error t) => (s, .error t)
  | (s, .ok bs) => (s, s.trecOf bs)

/-- The limits of the layouts (R284). -/
def layoutOk (layout : Nat) (t : Trec) : Bool :=
  if layout = 1 then t.base % 64 == 0 && t.rank ≤ 2 && t.esz ≤ 4 && t.e 1 ≤ 64 && t.rowB ≤ 384
  else if layout = 2 then t.esz == 2 && t.rank ≤ 2 && t.e 0 ≤ 24 && t.e 1 ≤ 64 && t.base % 8 == 0
  else true

/-- Do two spans meet? -/
def spansMeet (a b : Int × Int) : Bool := a.1 < b.2 && b.1 < a.2

/-- Are two bases comparable for overlap: both in the scratchpad, or both memory addresses of one form (R220)? -/
def sameForm (scrA : Bool) (baseA : Nat) (scrB : Bool) (baseB : Nat) : Bool :=
  if scrA || scrB then scrA && scrB else isDomain baseA == isDomain baseB

/-- Check 3 of R218 for one record. -/
def State.scrTrecOk (s : State) (layout : Nat) (t : Trec) : Bool :=
  let sp := trecSpan layout t
  t.base < 2 ^ 20 && 0 ≤ sp.1 && sp.2 ≤ (s.cur.scr : Int)

/-- Checks 2 (the pair) to 5 of R218 on the records; `row` for COPY.SCATTER and COPY.GATHER, `list` the index list's bytes. -/
def State.copyCheck (s : State) (tr : Bool) (skind layout : Nat) (dscr row : Bool) (src : Option Trec) (handle : Nat)
    (dst : Trec) (list : Option (Int × Int)) : Option Trap :=
  let es := match src with | some t => t.esz | none => dst.esz
  let rowBad : Bool := match src with
    | some t => row && (2 < t.rank || 2 < dst.rank || t.e 0 != dst.e 0)
    | none => false
  if es ≠ dst.esz ∨ (tr ∧ dst.esz < 2) ∨ (layout ≠ 0 ∧ !dscr) ∨ (skind = 2 ∧ (tr ∨ layout ≠ 0)) ∨ !layoutOk layout dst ∨ rowBad then
    some (s.trapLow .illegalField 2 0)
  else if dscr && !s.scrTrecOk layout dst then some (s.trapLow .access 3 dst.base)
  else if skind == 1 && (match src with | some t => !s.scrTrecOk 0 t | none => false) then
    some (s.trapLow .access 3 ((src.map (·.base)).getD 0))
  else
    let reg : Option Trap := if skind = 2 then
        match s.declOf s.ctx' handle with
        | .error c => some (s.trapLow c (if c = .memUe then 0 else 4) handle)
        | .ok (d, line) =>
          match s.poolHit s.ctx' (s.creg d line) with
          | some c => some (s.trapLow c 0 handle)
          | none => if dst.pb ≠ 4 * d.w ∨ dst.esz < 4 then some (s.trapLow .access 4 handle) else none
      else none
    match reg with
    | some t => some t
    | none =>
      let ds := trecSpan layout dst
      let hit1 : Bool := match src with
        | some t => sameForm dscr dst.base (skind == 1) t.base && spansMeet ds (trecSpan 0 t)
        | none => false
      let hit2 : Bool := match list with
        | some l => sameForm dscr dst.base false l.1.toNat && spansMeet ds l
        | none => false
      if hit1 || hit2 then some (s.trapLow .overlap 5 0) else none

/-- Is some index, other than all ones, listed twice (R220)? -/
def dupIdx : List Nat → Bool
  | [] => false
  | x :: xs => (x != 0xFFFFFFFF && xs.contains x) || dupIdx xs

/-- The copy joins its channel; a bound copy joins its barrier's current phase (R90, R184). -/
def State.queueCopy (s : State) (ch : Nat) (c : Copy) : State :=
  let u := s.iss.uid
  let cn := s.chan u ch
  let s := s.setChan u ch { cn with queue := cn.queue ++ [c] }
  match c.bar with
  | some b =>
    let br := s.bar u b
    s.setBar u b { br with copies := br.copies + 1 }
  | none => s

/-- The records of a copy: check 1 on each address, then check 2 on each record (R218). They are read after the gang's earlier
operations (the fork edge, R97). -/
def State.copyRecs (s : State) (dva sva : Nat) (caddy : Bool) : State × Except Trap (Trec × Option Trec) :=
  match s.drain.readRec dva with
  | (s, .error t) => (s, .error t)
  | (s, .ok d) =>
    if caddy then (s, (s.trecOf d).map fun d => (d, none))
    else
      match s.readRec sva with
      | (s, .error t) => (s, .error t)
      | (s, .ok x) =>
        match s.trecOf d with
        | .error t => (s, .error t)
        | .ok d => (s, (s.trecOf x).map fun x => (d, some x))

/-- COPY (R217 to R219). With 128 copies in flight on the core the fragment waits. -/
def execCopy (d a b : UReg) (w : CopyW) (s : State) : Res :=
  if 128 ≤ s.copiesOn s.cur.core then stall s
  else
    let dva := s.rup a.toNat
    let sva := s.rup b.toNat
    let skind := w.skind.toNat
    match s.copyRecs dva sva (skind = 2) with
    | (_, .error t) => raise t s
    | (s1, .ok (dst, src)) =>
      let cw := s.rup d.toNat
      match s.copyCheck w.tr skind w.layout.toNat w.dscr false src sva dst none with
      | some t => raise t (if skind = 2 then s.fenceFor t sva else s)
      | none =>
        if w.cw && cw % 8 != 0 then raise (s.trapLow .align 6 cw) s
        else
          let k := CopyKind.plain w.tr w.layout.toNat
          .next (s1.drain.queueCopy w.ch.toNat
            { kind := k, priv := s.privL s.low, skind := skind, dscr := w.dscr, src := src.getD dst, dst := dst, handle := sva,
              bar := if w.bound then some w.bar.toNat else none, done := if w.cw then some (cw, w.wscope.toNat) else none,
              at_ := 0, total := copyTotal k dst dst, started := false, fault := false, busy := 0, got := none })

/-- COPY.SCATTER and COPY.GATHER (R221). -/
def rowCopy (scatter : Bool) (d a b : UReg) (w : RowCopyW) (s : State) : Res :=
  if 128 ≤ s.copiesOn s.cur.core then stall s
  else
    match s.copyRecs (s.rup a.toNat) (s.rup b.toNat) false with
    | (_, .error t) => raise t s
    | (s1, .ok (dst, src)) =>
      let src := src.getD dst
      let ia := s.rup d.toNat
      let cnt := if scatter then src.e 1 else dst.e 1
      let lim := if scatter then dst.e 1 else src.e 1
      match s.copyCheck false w.skind.toNat w.layout.toNat w.dscr true (some src) 0 dst (some (ia, (ia + 4 * cnt : Nat))) with
      | some t => raise t s
      | none =>
        if ia % 4 ≠ 0 then raise (s.trapLow .align 6 ia) s
        else if isDomain ia ∨ !canonical ia then raise (s.trapLow .access 6 ia) s
        else
          match s1.engRead s.ctx' ia (4 * cnt) with
          | (_, .error (c, x)) => raise (s.trapLow c (if c = .memUe then 0 else 6) x) s
          | (s2, .ok bs) =>
            let idx := (List.range cnt).map fun k => bytesAt bs (4 * k) 4
            if scatter && dupIdx idx then raise (s.trapLow .overlap 7 ia) s
            else if idx.any (fun x => x != 0xFFFFFFFF && lim ≤ x) then raise (s.trapLow .access 7 ia) s
            else
              let k := if scatter then CopyKind.scatter w.layout.toNat idx else CopyKind.gather w.layout.toNat idx
              .next (s2.drain.queueCopy w.ch.toNat
                { kind := k, priv := s.privL s.low, skind := w.skind.toNat, dscr := w.dscr, src := src, dst := dst, handle := 0,
                  bar := if w.bound then some w.bar.toNat else none, done := none, at_ := 0, total := copyTotal k src dst,
                  started := false, fault := false, busy := 0, got := none })

def execCopyScatter (d a b : UReg) (w : RowCopyW) (s : State) : Res := rowCopy true d a b w s
def execCopyGather (d a b : UReg) (w : RowCopyW) (s : State) : Res := rowCopy false d a b w s

/-- COPY.WAIT (R222). -/
def execCopyWait (d : VReg) (a : UReg) (ch : BitVec 4) (s : State) : Res :=
  let wp := (s.chan s.iss.uid ch.toNat).wp
  if wp < s.rup a.toNat then stall s else .next (s.lanes fun s l => s.setP l d.toNat wp)

/-- COPY.QUERY (R223). -/
def execCopyQuery (d : VReg) (clr : Bool) (ch : BitVec 4) (s : State) : Res :=
  let cn := s.chan s.iss.uid ch.toNat
  let st := toW ((if cn.err then 2 ^ 31 else 0) + (if cn.queue.any (·.fault) then 2 ^ 30 else 0) + cn.queue.length)
  let s := s.lanes fun s l => ((s.setP l d.toNat cn.wp).setV l (d.toNat + 2) st).setV l (d.toNat + 3) 0
  .next (if clr then s.setChan s.iss.uid ch.toNat { s.chan s.iss.uid ch.toNat with err := false } else s)

/-- PREFETCH (R224): the record is read, after the gang's earlier operations, and checked; then the Sluice is asked for the translations
of its units, whose faults are dropped. -/
def execPrefetch (a : UReg) (s : State) : Res :=
  match s.drain.readTrec (s.rup a.toNat) with
  | (_, .error t) => raise t s
  | (s1, .ok t) => .next (s1.aheadTrec t)

/-- TSTCLR (R216): reads TEAM.STATUS into every active lane and clears the selected fields. -/
def execTstclr (d : VReg) (mask : BitVec 4) (s : State) : Res :=
  let tm := s.cur
  let st := tm.status.toNat
  let keep (k : Nat) : Nat := if nbit mask.toNat k then 0 else 1
  let w := bits st 31 31 * keep 0 * 2 ^ 31 + bits st 30 30 * keep 1 * 2 ^ 30 + bits st 29 29 * keep 2 * 2 ^ 29
    + st % 2 ^ 16 * keep 3
  .next ((s.lanes fun s l => s.setV l d.toNat tm.status).setTeam s.iss.uid { tm with status := toW w })

end Sys2Proof.Machine
end

