-- ==== Sys2Proof/Machine/Cistern.lean ====
section
/-!
DEFINITION. RED.F32 and CFLUSH (R248 to R251), and the flush of buffered operations (R64, R208, R228, R250).
-/

namespace Sys2Proof.Machine

/-! RED.F32. -/

/-- The additional checks of R248: no domain-global address (check 4), no page of TIER 0 or CXL memory (check 5). -/
def redCheck (lane va : Nat) (tr : Option Tlb) : Option Trap :=
  match tr with
  | none => some { cause := .access, lane := lane, check := 4, addr := va, write := true }
  | some e =>
    if (e.tier != 1 && e.tier != 2) || inCxl (e.paOf va) then
      some { cause := .access, lane := lane, check := 5, addr := va, write := true }
    else none

/-- The checks of R200 and R248 of lanes in ascending order: a trap for the lowest failing lane, or each lane's translation. -/
def State.redLanes (s : State) (u g size : Nat) : List (Nat × Nat) → Except Trap (List (Nat × Nat × Option Tlb))
  | [] => .ok []
  | x :: rest =>
    match s.checkLanes u g .write size [x] with
    | .error tr => .error tr
    | .ok l =>
      match l.findSome? fun e => redCheck e.1 e.2.1 e.2.2 with
      | some tr => .error tr
      | none =>
        match s.redLanes u g size rest with
        | .ok more => .ok (l ++ more)
        | .error tr => .error tr

/-- The additions of one lane leave for their banks: a discarded page is revived (R78), and bytes of the line that the core
has written go back first (R96). -/
def State.sendRed (s : State) (lane va w t : Nat) (e : Tlb) : State :=
  let s := if s.discarded e then s.revive e else s
  let s := s.evict s.cur.core (pline (e.paOf va)) s.iss.uid (s.tOf lane)
  { s with cisAdds := s.cisAdds ++ (List.range w).map fun k => CisAdd.mk s.iss.uid (s.tOf lane) (e.paOf va + 4 * k) (s.rv lane (t + k)) }

/-- The words of an issue's lanes buffered (R250). -/
def State.bufferRed (s : State) (scope w t : Nat) (addrs : List (Nat × Nat)) : Except Trap State :=
  addrs.foldlM (fun s (e : Nat × Nat) =>
    (List.range w).foldlM (fun s k =>
      s.bufferLanes scope (fun l => .redF32 (s.rv l (t + k))) [] [(e.1, e.2 + 4 * k)]) s) s

/-- RED.F32 (R248). -/
def execRedF32 (t a : VReg) (scope : BitVec 4) (w : BitVec 2) (s : State) : Res :=
  let n := 2 ^ w.toNat
  let addrs := s.laneAddrs a false
  match s.redLanes s.iss.uid s.iss.gang (4 * n) addrs with
  | .error tr => raise tr s
  | .ok l =>
    let s1 := s.noteAll s.cur.core l
    if s.cur.det then
      match s1.bufferRed scope.toNat n t.toNat addrs with
      | .error tr => raise tr s
      | .ok s2 => .next s2
    else
      .next (l.foldl (fun s e => match e.2.2 with
        | some tr => s.sendRed e.1 e.2.1 n t.toNat tr
        | none => s) s1.drain)

/-- EVENT CISTERN_ADDITION (R249): the additions of a gang reach their banks in their order, up to the k-th. -/
def execCisternAddition (k : Nat) (s : State) : Res :=
  match s.cisAdds[k]? with
  | none => .next s
  | some p =>
    let mine (q : CisAdd) : Bool := q.uid == p.uid && q.t / 32 == p.t / 32
    let now := (s.cisAdds.take (k + 1)).filter mine
    let rest := (s.cisAdds.take (k + 1)).filter (fun q => !mine q) ++ s.cisAdds.drop (k + 1)
    .next (now.foldl State.cisArrive { s with cisAdds := rest })

/-! Flush points. -/

/-- The order of R64. -/
def bufBefore (x y : BufOp) : Bool :=
  if x.lti ≠ y.lti then x.lti < y.lti
  else if x.gang ≠ y.gang then x.gang < y.gang
  else if x.lane ≠ y.lane then x.lane < y.lane
  else x.seq ≤ y.seq

/-- A buffered operation that cannot be applied is dropped: its result is filled with all ones, and Kettle posts a KIND 5
entry (R64). The launch ends with STATUS 2. -/
def State.dropBuf (s : State) (b : BufOp) (cause : Nat) : State :=
  let s := s.fillRegs b.uid (32 * b.gang + b.lane) (b.regs.map fun r => (r, 0xFFFFFFFF))
  let ln := s.launch b.launch
  let s := if ln.live then s.setLaunch b.launch { ln with st := 2 } else s
  s.report ln.slice { kind := 5, launch := b.launch, detail := if cause = 0 then 0 else cause + 2 ^ 29 + 2 ^ 31, addr := b.va }

/-- The operation, its size and operands, of a buffered atomic or addition. -/
def BufK.parts (k : BufK) : OpK × Nat × Nat × Nat :=
  match k with
  | .atom op ty x cmp => (.atom op ty, if ty = 2 ∨ ty = 3 then 8 else 4, x, cmp)
  | .redF32 x => (.atom .add 4, 4, x.toNat, 0)
  | .cred _ _ _ _ _ => (.read, 4, 0, 0)

/-- Nodes reserved for a buffered CRED return to a region (R228). -/
def State.unreserve (s : State) (line need : Nat) : State :=
  let r : CReg := NMap.get {} s.caddy line
  { s with caddy := NMap.put s.caddy line { r with resv := r.resv - need } }

/-- A buffered CRED at its unit (R228): its reserved nodes return, those of one that is dropped too. -/
def State.applyCred (s : State) (b : BufOp) (handle line0 key : Nat) (data : List Word) (need : Nat) : State :=
  let ln := s.launch b.launch
  let c : Ctx := ⟨b.core, ln.slice, b.priv, b.uid, b.launch⟩
  let s := s.unreserve line0 need
  match s.declOf c handle with
  | .error x => s.dropBuf b x.code
  | .ok (d, line) =>
    let r := s.creg d line
    match s.poolHit c r with
    | some x =>
      let s := if x = .memUe then s.fenceReg line r else s
      (s.putReg line d.skipped d.taken { r with fenced := r.fenced || x == .memUe }).dropBuf b x.code
    | none => s.putReg line d.skipped d.taken (r.write true d.f32w d.w key data)

/-- One buffered operation reaches its place: a home slice, or the owner of a domain-global address (R64). -/
def State.applyBuf (s : State) (b : BufOp) : State :=
  match b.kind with
  | .cred handle line key data need => s.applyCred b handle line key data need
  | k =>
    let (op, size, x, cmp) := k.parts
    let ln := s.launch b.launch
    let t := 32 * b.gang + b.lane
    if isDomain b.va then
      let s := { s with bufops := s.bufops ++ [{ b with sent := true }] }
      s.sendReq ln.slice b.uid t (domPkg b.va)
        { kind := .atomic (match op with | .atom o _ => o | _ => .add), off := domOff b.va, size := size, typ := op.ty, x := x,
          cmp := cmp, scope := b.scope, sc := false, clock := 0 } (.buf b)
    else
      match s.xlat b.core ln.slice b.priv false .write b.va with
      | .error c => s.dropBuf b c.code
      | .ok e =>
        match s.performLocal b.core b.uid t op e b.va size x cmp 5 with
        | (s, some old) => s.fillRegs b.uid t (regVals b.regs old)
        | (s, none) => s.dropBuf b Cause.memUe.code

/-- A flush point for the buffered operations that `p` selects. -/
def State.flushBufs (s : State) (p : BufOp → Bool) : State :=
  let now := (s.bufops.filter fun b => p b && !b.sent).mergeSort bufBefore
  now.foldl State.applyBuf { s with bufops := s.bufops.filter fun b => !(p b && !b.sent) }

/-- The answer to a buffered operation that was sent to its owner: the value, or none where it was refused or timed out. -/
def State.bufReply (s : State) (b : BufOp) (r : Option Nat) : State :=
  let s := { s with bufops := s.bufops.erase { b with sent := true } }
  match r with
  | some x => s.fillRegs b.uid (32 * b.gang + b.lane) (regVals b.regs x)
  | none => s.dropBuf b 0

/-! CFLUSH. -/

/-- CFLUSH (R251): each active thread waits. -/
def execCflush (s : State) : Res :=
  .next (s.drain.lanes fun s l => s.mwaitFor s.iss.uid (s.tOf l) s.iss.follow .cflush)

/-- EVENT CFLUSH_DONE (R251): in a fast launch the lines that hold the thread's additions are evicted; in a deterministic
one the team's buffered operations are applied, and the wait ends when the last has been answered. -/
def execCflushDone (u t : Nat) (s : State) : Res :=
  if (s.thr u t).mwait != .cflush then .next s
  else if (s.team u).det then
    let s := s.flushBufs (·.uid == u)
    .next (if s.bufops.any (·.uid == u) then s else s.finishWait u t)
  else if s.cisAdds.any fun a => a.uid == u && a.t == t then .next s
  else
    let ls := (s.cistern.filter fun c => c.by_.contains (tkey u t)).map (·.line)
    .next ((ls.foldl (fun s l => s.cisEvict l) s).finishWait u t)

end Sys2Proof.Machine
end

