-- ==== Sys2Proof/Machine/RouteSort.lean ====
section
/-!
DEFINITION. ROUTE (R239, R240, R292) and the Strainer's SORT (R23, R241, R242).
-/

namespace Sys2Proof.Machine

/-! ROUTE. -/

/-- Check 4 of R239. -/
def routeFieldsOk (b : List Byte) : Bool :=
  let f := bytesAt b
  1 ≤ f 40 4 && f 40 4 ≤ 2 ^ 24 && 1 ≤ f 44 2 && f 44 2 ≤ 4096 && 1 ≤ f 46 1 && f 46 1 ≤ 8 && f 47 1 == 0
  && 1 ≤ f 48 4 && f 48 4 ≤ 2 ^ 24 && f 56 8 == 0

/-- Check 5: the first array address that fails, in the order CHOICE, GATE, SLOTS, COUNTS, DROP. -/
def routeArrays (b : List Byte) : Option (Cause × Nat) :=
  [(0, 4), (8, 4), (16, 8), (24, 4), (32, 8)].findSome? fun (o, al) =>
    let va := bytesAt b o 8
    if va % al ≠ 0 then some (Cause.align, va) else if isDomain va ∨ !canonical va then some (Cause.access, va) else none

/-- ROUTE (R239): one of the 128 copies in flight. -/
def execRoute (d : VReg) (a : UReg) (s : State) : Res :=
  if 128 ≤ s.copiesOn s.cur.core then stall s
  else
    match s.descCheck s.low (s.rup a.toNat) none with
    | (_, .error t) => raise t s
    | (s1, .ok b) =>
      if !routeFieldsOk b then raise (s.trapLow .illegalField 4 0) s
      else
        match routeArrays b with
        | some (c, va) => raise (s.trapLow c 5 va) s
        | none =>
          let r : RouteOp :=
            { uid := s.iss.uid, core := s.cur.core, slice := s.cur.slice, priv := s.privL s.low, gang := s.iss.gang,
              lanes := s.iss.lanes, d := d.toNat, desc := b }
          let s2 := s1.drain
          .next ({ s2 with routes := s2.routes ++ [r] }.markEmpty d.toNat 1)

/-- One 4-byte word read by an engine. -/
def State.engWord (s : State) (c : Ctx) (va : Nat) : State × Option Nat :=
  match s.engRead c va 4 with
  | (s, .ok bs) => (s, some (ofBytes bs))
  | (s, .error _) => (s, none)

/-- Bytes written by an engine, part by part (R94); false on a fault. -/
def State.engTry (s : State) (c : Ctx) (op va : Nat) (bs : List Byte) : State × Bool :=
  match s.engOut c op va bs with
  | (s, none) => (s, true)
  | (s, some _) => (s, false)

/-- The choices in logical order, with the slots filled of each expert and the number dropped; none on a fault. -/
def State.routeGo (s : State) (c : Ctx) (b : List Byte) : List Nat → NMap Nat → Nat → State × Option (NMap Nat × Nat)
  | [], fill, nd => (s, some (fill, nd))
  | i :: rest, fill, nd =>
    let f := bytesAt b
    match s.engWord c (f 0 8 + 4 * i) with
    | (s, none) => (s, none)
    | (s, some e) =>
      if e = 0xFFFFFFFF then s.routeGo c b rest fill nd
      else
        let tok := i / f 46 1
        let k := NMap.get 0 fill e
        if e < f 44 2 ∧ k < f 48 4 then
          match s.engWord c (f 8 8 + 4 * i) with
          | (s, none) => (s, none)
          | (s, some g) =>
            match s.engTry c s.opNow (f 16 8 + 8 * (e * f 48 4 + k)) (toBytes 4 tok ++ toBytes 4 g) with
            | (s, true) => s.routeGo c b rest (NMap.put fill e (k + 1)) nd
            | (s, false) => (s, none)
        else if nd < f 52 4 then
          match s.engTry c s.opNow (f 32 8 + 8 * nd) (toBytes 4 tok ++ toBytes 4 e) with
          | (s, true) => s.routeGo c b rest fill (nd + 1)
          | (s, false) => (s, none)
        else s.routeGo c b rest fill (nd + 1)

/-- COUNTS and the empty slots of each expert; false on a fault. -/
def State.routeEnd (s : State) (c : Ctx) (b : List Byte) (fill : NMap Nat) : List Nat → State × Bool
  | [] => (s, true)
  | e :: rest =>
    let f := bytesAt b
    let k := NMap.get 0 fill e
    let cap := f 48 4
    match s.engTry c s.opNow (f 24 8 + 4 * e) (toBytes 4 k) with
    | (s, false) => (s, false)
    | (s, true) =>
      match s.engTry c s.opNow (f 16 8 + 8 * (e * cap + k)) ((List.replicate (cap - k) (toBytes 4 0xFFFFFFFF ++ toBytes 4 0)).flatten) with
      | (s, false) => (s, false)
      | (s, true) => s.routeEnd c b fill rest

/-- EVENT ROUTE_COMPLETE (R240): the k-th ROUTE's assignment; a fault fills the completion register with all ones. -/
def execRouteComplete (k : Nat) (s : State) : Res :=
  match s.routes[k]? with
  | none => .next s
  | some r =>
    let s := { s with routes := s.routes.eraseIdx k }
    let c : Ctx := ⟨r.core, r.slice, r.priv, r.uid, (s.team r.uid).launch⟩
    let b := r.desc
    let fin (s : State) (x : Word) : Res := .next (s.finish r.uid s.opNow (.reg r.gang r.lanes r.d x))
    match s.routeGo c b (List.range (bytesAt b 40 4 * bytesAt b 46 1)) [] 0 with
    | (s, none) => fin s 0xFFFFFFFF
    | (s, some (fill, nd)) =>
      match s.routeEnd c b fill (List.range (bytesAt b 44 2)) with
      | (s, true) => fin s (toW (min nd (2 ^ 32 - 1)))
      | (s, false) => fin s 0xFFFFFFFF

/-! SORT. -/

/-- SORT (R241): a slice holds at most 16 jobs. -/
def execSort (a b : UReg) (scope : BitVec 4) (s : State) : Res :=
  let mine := s.sorts.countP fun j => s.lead j.slice == s.lead s.cur.slice
  if 16 ≤ mine then stall s
  else
    match s.descCheck s.low (s.rup a.toNat) (some (s.rup b.toNat)) with
    | (_, .error t) => raise t s
    | (s1, .ok rcd) =>
      let j : SortJob :=
        { uid := s.iss.uid, die := coreDie s.cur.core, core := s.cur.core, slice := s.cur.slice, priv := s.privL s.low,
          desc := rcd, cw := s.rup b.toNat, scope := scope.toNat, started := false }
      let s2 := s1.drain
      .next { s2 with sorts := s2.sorts ++ [j] }

/-- EVENT STRAINER_JOB_START (R23, R241): an idle Strainer takes the oldest job of the next slice in turn. -/
def execStrainerJobStart (die : Nat) (s : State) : Res :=
  if s.sorts.any fun j => j.die == die && j.started then .next s
  else
    let turn := NMap.get 0 s.sortTurn die
    let at_ (k : Nat) : Option Nat := s.sorts.findIdx? fun j => j.die == die && j.slice == (turn + k) % 8
    match (List.range 8).find? fun k => (at_ k).isSome with
    | none => .next s
    | some k =>
      let i := (at_ k).getD 0
      .next { s with
        sorts := s.sorts.modify i (fun (j : SortJob) => { j with started := true }),
        sortTurn := NMap.put s.sortTurn die ((turn + k + 1) % 8) }

/-- The completion word of a refused job, the lowest REASON (R242). -/
def sortRefused (b : List Byte) : Option Nat :=
  let f := bytesAt b
  let n := f 40 4
  let nopay := nbit (f 46 1) 1
  let arrs := [(f 0 8, 8 * n, 8)] ++ (if nopay then [] else [(f 8 8, 4 * n, 4)]) ++ [(f 16 8, 8 * n, 8)]
    ++ (if nopay then [] else [(f 24 8, 4 * n, 4)]) ++ [(f 32 8, 12 * n, 256)]
  let rec meets : List (Nat × Nat × Nat) → Bool
    | [] => false
    | x :: xs => xs.any (fun y => x.2.1 != 0 && x.1 < y.1 + y.2.1 && y.1 < x.1 + x.2.1) || meets xs
  let bad (r : Nat) : Option Nat := some (3 * 2 ^ 62 + r * 2 ^ 48)
  if 2 ^ 31 < n ∨ 63 < f 44 1 ∨ 63 < f 45 1 ∨ f 45 1 < f 44 1 ∨ 3 < f 46 1 ∨ f 47 8 ≠ 0 ∨ f 55 9 ≠ 0 then bad 1
  else if arrs.any fun x => x.1 % x.2.2 != 0 then bad 2
  else if meets arrs then bad 3
  else if arrs.any fun x => isDomain x.1 || !canonical x.1 then bad 4
  else none

/-- Pairs in a job's order; equal compared bits keep their input order. -/
def sortPairs (lo hi : Nat) (desc : Bool) (ps : List (Nat × Nat)) : List (Nat × Nat) :=
  ps.mergeSort fun x y => if desc then bits y.1 hi lo ≤ bits x.1 hi lo else bits x.1 hi lo ≤ bits y.1 hi lo

/-- Arrays written one after the other; false at the first fault. -/
def State.engPuts (s : State) (c : Ctx) : List (Nat × List Byte) → State × Bool
  | [] => (s, true)
  | (va, bs) :: rest =>
    match s.engTry c s.opNow va bs with
    | (s, true) => s.engPuts c rest
    | (s, false) => (s, false)

/-- A job's work (R242): its completion word. The bytes left in TEMP are free values. -/
def State.runSort (s : State) (c : Ctx) (b : List Byte) : State × Nat :=
  match sortRefused b with
  | some w => (s, w)
  | none =>
    let f := bytesAt b
    let n := f 40 4
    let nopay := nbit (f 46 1) 1
    let abort := 2 * 2 ^ 62 + 5 * 2 ^ 48
    match s.engRead c (f 0 8) (8 * n) with
    | (s, .error _) => (s, abort)
    | (s, .ok kb) =>
      match if nopay then (s, .ok []) else s.engRead c (f 8 8) (4 * n) with
      | (s, .error _) => (s, abort)
      | (s, .ok pb) =>
        let ps := sortPairs (f 44 1) (f 45 1) (nbit (f 46 1) 0)
          ((List.range n).map fun i => (bytesAt kb (8 * i) 8, bytesAt pb (4 * i) 4))
        let tmp := (List.range (12 * n)).map fun i => (BitVec.ofNat 8 (Config.freeWord (s.tick * 2 ^ 64 + i + 1)) : Byte)
        let outs := [(f 32 8, tmp), (f 16 8, (ps.map fun p => toBytes 8 p.1).flatten)]
          ++ (if nopay then [] else [(f 24 8, (ps.map fun p => toBytes 4 p.2).flatten)])
        match s.engPuts c outs with
        | (s, true) => (s, 2 ^ 62 + n)
        | (s, false) => (s, abort)

/-- EVENT STRAINER_JOB_DONE (R242): the running job of a die finishes. -/
def execStrainerJobDone (die : Nat) (s : State) : Res :=
  match s.sorts.find? fun j => j.die == die && j.started with
  | none => .next s
  | some j =>
    let s := { s with sorts := s.sorts.erase j }
    let c : Ctx := ⟨j.core, j.slice, j.priv, j.uid, (s.team j.uid).launch⟩
    let (s, w) := s.runSort c j.desc
    .next (s.finish j.uid s.opNow (.word c.core c.slice c.priv c.launch j.cw j.scope w))

end Sys2Proof.Machine
end

