-- ==== Sys2Proof/Machine/Collective.lean ====
section
/-!
DEFINITION. The collective engine: COLL.* (R229, R325 to R329) and the compositing collective (R280 to R282, R294).
-/

namespace Sys2Proof.Machine

/-- The context of a collective. -/
def Coll.ctx (c : Coll) : Ctx := ⟨c.core, c.slice, c.priv, c.uid, c.launch⟩

/-- A field of its descriptor. -/
def Coll.f (c : Coll) (off n : Nat) : Nat := bytesAt c.desc off n

/-- Bytes of an element of a reduction. -/
def collEsz (fmt : Nat) : Nat := outBits fmt / 8

/-- The refusals of REASON 1 that need no table (R325, R326, R328). `cap` is the slice's CAP. -/
def collFieldBad (minor cap : Nat) (b : List Byte) : Bool :=
  let f := bytesAt b
  let tiles := (f 44 2 + 15) / 16 * ((f 46 2 + 15) / 16)
  f 32 2 == 0 || 1024 < f 32 2 || !([0, 2, 3, 4, 5].contains (f 34 1)) || 2 < f 35 1 || 1 < f 36 1 || f 37 1 == 0
  || 64 < f 37 1 || 1024 ≤ f 38 2 || f 52 8 != 0 || f 60 4 != 0 || (f 16 8 != 0 && (minor == 1 || minor == 2)) || cap < 2
  || (minor == 3 && (f 44 2 == 0 || 16384 < f 44 2 || f 46 2 == 0 || 16384 < f 46 2 || f 40 4 != tiles))

/-- The refusals of REASON 2 (R328). No rule gives the alignment that COMP's planes and table need: 16 bytes, a pixel, for SRC and DST, and
8, an entry, for AUX (DESIGN CHOICE, log 80). -/
def collAlignBad (minor : Nat) (b : List Byte) : Bool :=
  let f := bytesAt b
  let e := if minor = 0 then 1 else if minor = 3 then 16 else collEsz (f 34 1)
  let d := if minor = 0 then 1 else if minor = 3 then 16 else if f 36 1 = 1 then 4 else e
  f 24 8 % 2 != 0 || f 16 8 % (if minor = 3 then 8 else 4) != 0 || f 0 8 % e != 0 || f 8 8 % d != 0

/-- The orders of COMP's tiles, each read from the table and the list behind it (R280); none on a fault. -/
def State.readOrders (s : State) (c : Ctx) (aux count : Nat) : List Nat → State × Option (List (Nat × Nat × List Nat))
  | [] => (s, some [])
  | t :: rest =>
    match s.engRead c (aux + 8 * t) 8 with
    | (s, .error _) => (s, none)
    | (s, .ok e) =>
      match s.engRead c (aux + 8 * count + 2 * bytesAt e 0 4) (2 * min (bytesAt e 4 2) 1024) with
      | (s, .error _) => (s, none)
      | (s, .ok l) =>
        match s.readOrders c aux count rest with
        | (s, none) => (s, none)
        | (s, some r) =>
          (s, some ((t, bytesAt e 6 2 + 65536 * (bytesAt e 4 2 / 1025),
            (List.range (min (bytesAt e 4 2) 1024)).map fun i => bytesAt l (2 * i) 2) :: r))

/-- Two-byte values of a list of bytes. -/
def n16s (bs : List Byte) (n : Nat) : List Nat := (List.range n).map fun i => bytesAt bs (2 * i) 2

/-- Replaces a collective. -/
def State.setColl (s : State) (c : Coll) : State :=
  { s with colls := s.colls.map fun (x : Coll) => if x.id = c.id then c else x }

/-- A collective with one member changed. -/
def Coll.setMember (c : Coll) (m : CMember) : Coll :=
  { c with members := c.members.map fun (x : CMember) => if x.id = m.id then m else x }

/-- The end of a collective (R328): its completion word. A member that has written what it must is complete, and its chunks are sent
on; one that failed sends no more. Both stay known here, so that a chunk of theirs that is refused, or comes late, is told from one of
a collective not yet issued (R326), until the event COLLECTIVE_TIMEOUT. One that was refused has not been issued. -/
def State.endColl (s : State) (c : Coll) (status reason : Nat) : State :=
  if c.fate ≠ 0 then s
  else
    let mine (q : QMsg) : Bool := q.coll.any fun (x : Nat × Nat) => x.1 == c.id
    let s := if status = 1 then s.setColl { c with fate := 1 }
      else if status = 3 then { s with colls := s.colls.filter fun (x : Coll) => x.id != c.id }
      else
        let idle (m : CMember) : CMember := { m with sends := false, queued := false, todo := [] }
        { s.setColl { c with fate := 2, members := c.members.map idle } with sendQ := s.sendQ.filter fun q => !mine q }
    s.finish c.uid c.op (.word c.core c.slice c.priv c.launch c.cw c.scope (status * 2 ^ 62 + reason * 2 ^ 48 + c.wrote % 2 ^ 48))

/-- A fault on a buffer: the collective fails, and one that is complete sends no more (R328). -/
def State.faultColl (s : State) (c : Coll) : State :=
  if c.fate = 0 then s.endColl c 2 4
  else
    let idle (m : CMember) : CMember := { m with sends := false, queued := false, todo := [] }
    { s.setColl { c with members := c.members.map idle } with
      sendQ := s.sendQ.filter fun q => !(q.coll.any fun (x : Nat × Nat) => x.1 == c.id) }

/-- Bytes of a collective written by the engine: how many were, and whether all. -/
def State.engWrote (s : State) (c : Coll) (va : Nat) (bs : List Byte) : State × Nat × Bool :=
  match s.engOut c.ctx c.op va bs with
  | (s, none) => (s, bs.length, true)
  | (s, some (_, a)) => (s, a - va, false)

/-! Planes of pixels. -/

/-- The pieces of a tile's rows that lie inside the image: plane offset, bytes, and offset in the tile (R265, R272). -/
def tileRows (w h t : Nat) : List (Nat × Nat × Nat) :=
  let tw := (w + 15) / 16
  let x := t % tw * 16
  let y := t / tw * 16
  (List.range 16).filterMap fun r =>
    if y + r < h then some (16 * ((y + r) * w + x), 16 * min 16 (w - x), 256 * r) else none

/-- The 4,096 bytes of a tile of a plane; the bytes of pixels outside the image are zero. -/
def State.readTile (s : State) (c : Ctx) (base : Nat) : List (Nat × Nat × Nat) → List Byte → State × Option (List Byte)
  | [], acc => (s, some acc)
  | (o, n, at_) :: rest, acc =>
    match s.engRead c (base + o) n with
    | (s, .error _) => (s, none)
    | (s, .ok bs) => s.readTile c base rest (putAt acc bs at_)

/-- A tile of the issuer's own plane. -/
def State.ownTile (s : State) (c : Coll) (t : Nat) : State × Option (List Byte) :=
  s.readTile c.ctx (c.f 0 8) (tileRows (c.f 44 2) (c.f 46 2) t) (List.replicate 4096 0)

/-- Several tiles of it. -/
def State.ownTiles (s : State) (c : Coll) : List Nat → State × Option (List Byte)
  | [] => (s, some [])
  | t :: rest =>
    match s.ownTile c t with
    | (s, none) => (s, none)
    | (s, some bs) =>
      match s.ownTiles c rest with
      | (s, some r) => (s, some (bs ++ r))
      | r => r

/-! Sending (R329). -/

/-- n bytes at an offset of the issuer's part for a member. -/
def State.partBytes (s : State) (c : Coll) (m : CMember) (off n : Nat) : State × Option (List Byte) :=
  if n = 0 then (s, some [])
  else if c.minor = 3 then
    let first := off / 4096
    let last := (off + n - 1) / 4096
    match s.ownTiles c ((m.tiles.drop first).take (last + 1 - first)) with
    | (s, some bs) => (s, some ((bs.drop (off % 4096)).take n))
    | r => r
  else
    let base := if c.minor = 0 then c.f 0 8 + c.members.findIdx (fun x => x.id == m.id) * c.f 40 4 else c.f 0 8
    match s.engRead c.ctx (base + off) n with
    | (s, .ok bs) => (s, some bs)
    | (s, .error _) => (s, none)

/-- Enqueues the chunk of a member's part at an offset, at the tail; a fault on the buffer fails the collective. -/
def State.queueChunk (s : State) (id mid off : Nat) : State :=
  match s.colls.find? fun c => c.id == id with
  | none => s
  | some c =>
    match c.members.find? fun m => m.id == mid with
    | none => s
    | some m =>
      let n := min c.p (m.total - off)
      match s.partBytes c m off n with
      | (s, none) => s.faultColl c
      | (s, some bs) =>
        let msg : Msg :=
          { osrc := s.pkg, odst := mid, typ := 3, ordered := false, relayed := false, rsv := false, len := (n + 63) / 64,
            seq := 0, tag := c.f 48 4, req := none, off := off, data := bs.map (·.toNat), total := m.total, tiles := m.tiles }
        let s := s.setColl (c.setMember { m with
          queued := true, next := max m.next (off + n), todo := m.todo.filter (· != off) })
        { s with sendQ := s.sendQ ++ [QMsg.mk (s.lead c.slice) msg false false (some (id, mid)) none] }

/-- The frame that carries a member's chunk has been filled: the next chunk is enqueued (R329). The chunk no longer stands refused
(R328). -/
def State.chunkPlaced (s : State) (id mid off : Nat) : State :=
  match s.colls.find? fun c => c.id == id with
  | none => s
  | some c =>
    match c.members.find? fun m => m.id == mid with
    | none => s
    | some m =>
      let s := s.setColl (c.setMember { m with
        queued := false, refused := m.refused.filter (· != off), out := m.out ++ [(off, m.refused.contains off)] })
      match m.todo with
      | off :: _ => s.queueChunk id mid off
      | [] => if m.next < m.total then s.queueChunk id mid m.next else s

/-- A chunk is to be sent again (R326): it goes to the tail in place of the member's queued chunk, whose turn comes after
it. -/
def State.chunkAgain (s : State) (id mid off : Nat) : State :=
  match s.colls.find? fun c => c.id == id with
  | none => s
  | some c =>
    match c.members.find? fun m => m.id == mid with
    | none => s
    | some m =>
      let mine (q : QMsg) : Bool := q.coll == some (id, mid)
      let back := (s.sendQ.filter mine).map (·.msg.off)
      let s := { s with sendQ := s.sendQ.filter fun q => !mine q }
      (s.setColl (c.setMember { m with
        refused := off :: m.refused, out := m.out.filter (·.1 != off), todo := (back ++ m.todo).filter (· != off) })).queueChunk id mid off

/-! Receiving. -/

/-- The bytes received from a member, its pieces put in their places. -/
def Coll.recv (c : Coll) (mid n : Nat) : List Byte :=
  (c.data.filter fun d => d.1 == mid).foldl (fun acc d => putAt acc d.2.2 d.2.1) (List.replicate n 0)

/-- One element of a reduction, widened exactly to F32. -/
def collWiden (fmt x : Nat) : Nat := ((cvt1 false 1 0 0 fmt x).getD 0).toNat

/-- The result of one element (R327): the contributions in ascending identifier. -/
def collElem (fmt op : Nat) (out32 : Bool) (xs : List Nat) : Nat :=
  match xs.map (collWiden fmt) with
  | [] => 0
  | x :: rest =>
    let acc := rest.foldl (fun a y =>
      if op = 0 then fAdd f32 0 false a y else fMinMax f32 (op == 1) false a y) x
    if out32 ∨ fmt = 0 then acc else ((cvt1 false 1 0 fmt 0 acc).getD 0).toNat

/-- The result of a reduction at this member. -/
def Coll.reduce (c : Coll) (self : Nat) (own : List Byte) : List Byte :=
  let fmt := c.f 34 1
  let e := collEsz fmt
  let out32 := nbit (c.f 36 1) 0
  let n := c.f 40 4
  let ids := (c.members.map (·.id)).mergeSort (· ≤ ·)
  let parts := ids.map fun i => if i = self then own else c.recv i (n * e)
  ((List.range n).map fun k => toBytes (if out32 then 4 else e) (collElem fmt (c.f 35 1) out32 (parts.map fun p => bytesAt p (k * e) e))).flatten

/-- The composite of one pixel, from the front (R281). -/
def compPixel : List (List Nat) → List Nat
  | [] => [0, 0, 0, 0x3F800000]
  | p :: rest =>
    rest.foldl (fun acc q =>
      let t := acc.getD 3 0
      ((List.range 3).map fun k => fFma f32 0 false t (q.getD k 0) (acc.getD k 0)) ++ [fMul f32 0 false t (q.getD 3 0)]) p

/-- Pixel i of a tile's bytes. -/
def tilePixel (bs : List Byte) (i : Nat) : List Nat := (List.range 4).map fun k => bytesAt bs (16 * i + 4 * k) 4

/-- The composite of a tile's shards. -/
def compTile (shards : List (List Byte)) : List Byte :=
  ((List.range 256).map fun i => ((compPixel (shards.map fun b => tilePixel b i)).map (toBytes 4)).flatten).flatten

/-- Has every byte of a tile arrived from a package? -/
def Coll.tileHere (c : Coll) (self t pkg : Nat) : Bool :=
  pkg == self || ((c.data.filter fun d => d.1 == pkg && d.2.1 / 4096 == t).map fun d => d.2.2.length).sum ≥ 4096

/-- The bytes of a tile received from a package. -/
def Coll.tileOf (c : Coll) (t pkg : Nat) : List Byte :=
  (c.data.filter fun d => d.1 == pkg && d.2.1 / 4096 == t).foldl (fun acc d => putAt acc d.2.2 (d.2.1 % 4096)) (List.replicate 4096 0)

/-- Writes the inside rows of a tile's result: the bytes written, and whether all. -/
def State.writeTile (s : State) (c : Coll) (base : Nat) (bs : List Byte) : List (Nat × Nat × Nat) → State × Nat × Bool
  | [] => (s, 0, true)
  | (o, n, at_) :: rest =>
    match s.engWrote c (base + o) ((bs.drop at_).take n) with
    | (s, k, true) =>
      let (s, m, ok) := s.writeTile c base bs rest
      (s, k + m, ok)
    | r => r

/-- Composites and writes the tiles whose shards have all arrived (R281): the collective as it then stands, and whether without a
fault. -/
def State.compReady (s : State) (c : Coll) : List (Nat × List Nat) → State × Coll × Bool
  | [] => (s, c, true)
  | (t, order) :: rest =>
    if !(order.all fun p => c.tileHere s.pkg t p) then s.compReady c rest
    else
      match if order.contains s.pkg then s.ownTile c t else (s, some []) with
      | (s, none) => (s, c, false)
      | (s, some own) =>
        let bs := compTile (order.map fun p => if p = s.pkg then own else c.tileOf t p)
        let (s, n, ok) := s.writeTile c (c.f 8 8) bs (tileRows (c.f 44 2) (c.f 46 2) t)
        let c := { c with wrote := c.wrote + n }
        if ok then s.compReady { c with tiles := c.tiles.filter (fun x => x.1 != t) } rest else (s, c, false)

/-- Has the whole of every part due here arrived? -/
def Coll.ready (c : Coll) : Bool := c.members.all fun m => !m.expect || m.size == some m.got

/-- Writes what a collective can write, and ends it once every byte that it must write has been written (R328). -/
def State.tryColl (s : State) (id : Nat) : State :=
  match s.colls.find? fun c => c.id == id && c.fate == 0 with
  | none => s
  | some c =>
    match if c.minor = 3 then s.compReady c c.tiles else (s, c, true) with
    | (s, c, false) => s.endColl c 2 4
    | (s, c, true) =>
      let s := s.setColl c
      if !c.ready ∨ !c.tiles.isEmpty then s
      else if c.minor = 2 ∨ (c.minor = 1 ∧ c.f 38 2 = s.pkg) then
        match s.engRead c.ctx (c.f 0 8) (c.f 40 4 * collEsz (c.f 34 1)) with
        | (s, .error _) => s.endColl c 2 4
        | (s, .ok own) =>
          let (s, n, ok) := s.engWrote c (c.f 8 8) (c.reduce s.pkg own)
          if ok then s.endColl { c with wrote := n } 1 0 else s.endColl { c with wrote := n } 2 4
      else s.endColl c 1 0

/-- A piece of an A2A part from the member at an index: written at its place, and the count once the part is whole. The bytes written
to DST, and whether without a fault. -/
def State.landA2a (s : State) (c : Coll) (idx off : Nat) (bs : List Byte) (whole : Option Nat) : State × Nat × Bool :=
  match s.engWrote c (c.f 8 8 + idx * c.f 40 4 + off) bs with
  | (s, k, false) => (s, k, false)
  | (s, k, true) =>
    match whole with
    | some n =>
      if c.f 16 8 = 0 then (s, k, true)
      else
        let (s, ok) := s.engTry c.ctx c.op (c.f 16 8 + 4 * (c.f 32 2 + idx)) (toBytes 4 n)
        (s, k, ok)
    | none => (s, k, true)

/-- Refuses a chunk: the refusal names its collective and offset, and the fabric places it itself (R317, R326). -/
def State.refuseChunk (s : State) (m : Msg) : State :=
  let r : Msg :=
    { osrc := s.pkg, odst := m.osrc, typ := 2, ordered := false, relayed := false, rsv := false, len := 0, seq := 0,
      tag := m.tag, req := none, off := m.off, data := [] }
  { s with pendRefs := s.pendRefs ++ [r] }

/-- The pieces of a chunk of COMP by tile: the sender, the offset in the plane of tiles, the bytes (R326). -/
def compPieces (m : Msg) (bs : List Byte) : List (Nat × Nat × List Byte) :=
  let first := m.off / 4096
  (List.range ((m.off + bs.length + 4095) / 4096 - first)).map fun j =>
    let lo := max m.off (4096 * (first + j))
    let hi := min (m.off + bs.length) (4096 * (first + j + 1))
    (m.osrc, m.tiles.getD (first + j) 0 * 4096 + lo % 4096, (bs.drop (lo - m.off)).take (hi - lo))

/-- A collective to which a member has sent a chunk: the bytes that it has sent, and the size of its part. -/
def Coll.heard (c : Coll) (m : Msg) : Coll :=
  { c with members := c.members.map fun (x : CMember) =>
      if x.id = m.osrc then { x with got := x.got + m.data.length, size := some m.total } else x }

/-- A chunk for a collective in flight here: placed by its offset. One that no part of the collective is due from is discarded, as
R282 discards an unlisted shard. -/
def State.landChunk (s : State) (c : Coll) (m : Msg) : State :=
  let bs : List Byte := m.data.map (BitVec.ofNat 8 ·)
  match c.members.find? fun x => x.id == m.osrc with
  | none => s
  | some x =>
    if c.minor = 3 then
      let keep := (compPieces m bs).filter fun d => c.tiles.any fun t => t.1 == d.2.1 / 4096 && t.2.contains m.osrc
      (s.setColl { c.heard m with data := c.data ++ keep }).tryColl c.id
    else if !x.expect then s
    else
      let x' := { x with got := x.got + bs.length, size := some m.total }
      let c' := c.setMember x'
      if c.minor = 0 then
        let idx := c.members.findIdx fun y => y.id == m.osrc
        let fit := bs.take (c.f 40 4 - m.off)
        let (s, n, ok) := s.landA2a c idx m.off fit (if x'.got = m.total then some m.total else none)
        let c' := { c' with wrote := c'.wrote + n }
        if ok then (s.setColl c').tryColl c.id else s.endColl c' 2 4
      else (s.setColl { c' with data := c'.data ++ [(m.osrc, m.off, bs)] }).tryColl c.id

/-- Does a chunk belong to a collective that has ended here, and not to a later one of the same CID? One that has failed still has
chunks on their way, and COMP may be sent shards that it does not list (R282), as long as the sender's part is not whole; of another
that is complete every chunk has come. A first chunk from a member from which nothing is due may be either's: a free choice
(log 60). -/
def Coll.past (c : Coll) (m : Msg) (tick : Nat) : Bool :=
  c.f 48 4 == m.tag && (c.fate == 2 || (c.fate == 1 && c.minor == 3
    && match c.members.find? fun x => x.id == m.osrc with
      | none => true
      | some x => match x.size with
        | some n => x.got < n
        | none => Config.freeChoice tick % 2 == 0))

/-- EVENT COLLECTIVE_CHUNK (R281, R282, R326): the k-th chunk received is placed, or refused where its collective has not been
issued here. -/
def execCollectiveChunk (k : Nat) (s : State) : Res :=
  match s.inChunks[k]? with
  | none => .next s
  | some m =>
    let s := { s with inChunks := s.inChunks.eraseIdx k }
    match s.colls.find? fun c => c.f 48 4 == m.tag && c.fate == 0 with
    | some c => .next (s.landChunk c m)
    | none =>
      match s.colls.find? fun c => c.past m s.tick with
      | some c => .next (s.setColl (c.heard m))
      | none => .next (s.refuseChunk m)

/-- Has a collective sent a member a chunk at an offset that is not queued again, which a refusal may name? -/
def Coll.sent (c : Coll) (m : Msg) : Bool :=
  c.f 48 4 == m.tag && c.members.any fun x => x.id == m.osrc && x.sends && x.out.any (·.1 == m.off)

/-- EVENT CHUNK_REFUSAL (R326, R329): a chunk sent was refused; it is queued again. A refusal names the CID and the offset: where several
collectives of one CID have sent such a chunk, whose it is is a free choice (log 60). -/
def execChunkRefusal (k : Nat) (s : State) : Res :=
  match s.inCRefs[k]? with
  | none => .next s
  | some m =>
    let s := { s with inCRefs := s.inCRefs.eraseIdx k }
    let cs := s.colls.filter (·.sent m)
    match cs[Config.freeChoice s.tick % cs.length]? with
    | none => .next s
    | some c => .next (s.chunkAgain c.id m.osrc m.off)

/-- EVENT COLLECTIVE_TIMEOUT (R326, R328): the k-th collective fails for want of progress; one that has ended is forgotten, unless it has
completed and a chunk of it is queued, or sent, which may still be refused or come back unsent. -/
def execCollectiveTimeout (k : Nat) (s : State) : Res :=
  match s.colls[k]? with
  | none => .next s
  | some c =>
    if c.fate = 0 then .next (s.endColl c 2 (if c.members.any (fun m => !m.refused.isEmpty) then 6 else 5))
    else if c.members.any (fun m => m.queued || !m.todo.isEmpty || (m.sends && !m.out.isEmpty)) then .next s
    else .next { s with colls := s.colls.eraseIdx k }

/-! Issue. -/

/-- The tiles of COMP that a member contributes to and another receives. -/
def partTiles (orders : List (Nat × Nat × List Nat)) (src dst : Nat) : List Nat :=
  (orders.filter fun o => o.2.1 == dst && o.2.2.contains src).map (·.1)

/-- A member as a collective starts. `cnt` is the issuer's A2A count for it. -/
def newMember (minor self root count esz : Nat) (orders : List (Nat × Nat × List Nat)) (id cnt : Nat) : CMember :=
  let tiles := if minor = 3 then partTiles orders self id else []
  let total := if minor = 0 then cnt else if minor = 3 then 4096 * tiles.length else count * esz
  let sends := id != self && (minor == 0 || minor == 2 || (minor == 1 && id == root) || (minor == 3 && !tiles.isEmpty))
  let expect := id != self && (minor == 0 || minor == 2 || (minor == 1 && self == root))
  { id := id, total := total, tiles := tiles, sends := sends, next := 0, todo := [], queued := false, refused := [],
    expect := expect, got := 0, size := none }

/-- A repeated value in a list. -/
def hasDup : List Nat → Bool
  | [] => false
  | x :: xs => xs.contains x || hasDup xs

/-- Starts a collective whose tables have been read: the member's own part, then chunk 0 for every other member in MLIST
order (R326, R329). -/
def State.openColl (s : State) (c : Coll) : State :=
  let s := s.setColl c
  let idx := c.members.findIdx fun m => m.id == s.pkg
  let own := (c.members.find? fun m => m.id == s.pkg).map (·.total)
  let n := own.getD 0
  let r : State × Nat × Bool :=
    if c.minor = 0 then
      match s.engRead c.ctx (c.f 0 8 + idx * c.f 40 4) n with
      | (s, .ok bs) => s.landA2a c idx 0 bs (some n)
      | (s, .error _) => (s, 0, false)
    else (s, 0, true)
  match r with
  | (s, n, false) => s.endColl { c with wrote := n } 2 4
  | (s, n, true) =>
    let s := s.setColl { c with wrote := n }
    ((c.members.filter (·.sends)).foldl (fun s m => s.queueChunk c.id m.id 0) s).tryColl c.id

/-- The cap of a slice's messages on one plane in one slot; of a slice group, the saturating sum (R24, R318). -/
def State.scap (s : State) (k : Nat) : Nat := min 0xFFFFF ((s.members k).map fun m => s.sysr 0x33 m % 2 ^ 20).sum

/-- Starts a collective from its descriptor, or refuses it (R326, R328). -/
def State.startColl (s : State) (c : Coll) : State :=
  let x := c.ctx
  let nm := c.f 32 2
  let aux := c.f 16 8
  let count := c.f 40 4
  let cap := s.scap c.slice
  let s := { s with colls := s.colls ++ [c] }
  if collFieldBad c.minor cap c.desc then s.endColl c 3 1
  else if collAlignBad c.minor c.desc then s.endColl c 3 2
  else
    match s.engRead x (c.f 24 8) (2 * nm) with
    | (s, .error _) => s.endColl c 2 4
    | (s, .ok ml) =>
      let ids := n16s ml nm
      match if c.minor = 0 ∧ aux ≠ 0 then s.engRead x aux (4 * nm) else (s, .ok []) with
      | (s, .error _) => s.endColl c 2 4
      | (s, .ok cb) =>
        let cnts := (List.range nm).map fun i => if aux = 0 then count else bytesAt cb (4 * i) 4
        match if c.minor = 3 then s.readOrders x aux count (List.range count) else (s, some []) with
        | (s, none) => s.endColl c 2 4
        | (s, some orders) =>
          if ids.any (fun i => 1024 ≤ i) ∨ (c.minor = 0 ∧ cnts.any (fun n => count < n))
              ∨ orders.any (fun o => 1024 ≤ o.2.1 || o.2.2.any (fun p => 1024 ≤ p)) then s.endColl c 3 1
          else if !ids.contains s.pkg ∨ hasDup ids ∨ (c.minor = 1 ∧ !ids.contains (c.f 38 2)) then s.endColl c 3 3
          else
            let ms := (ids.zip cnts).map fun (i, n) =>
              newMember c.minor s.pkg (c.f 38 2) count (collEsz (c.f 34 1)) orders i n
            let mine := (orders.filter fun o => o.2.1 == s.pkg).map fun o => (o.1, o.2.2)
            s.openColl { c with members := ms, tiles := mine, p := min (1024 * c.f 37 1) (64 * (cap - 1)) }

/-- COLL.* (R229): a slice holds at most 16 collectives in flight. -/
def collOp (minor : Nat) (a b : UReg) (scope : BitVec 4) (s : State) : Res :=
  let k := s.lead s.cur.slice
  if 16 ≤ s.colls.countP (fun c => c.fate == 0 && s.lead c.slice == k) then stall s
  else
    match s.descCheck s.low (s.rup a.toNat) (some (s.rup b.toNat)) with
    | (_, .error t) => raise t s
    | (s1, .ok desc) =>
      let c : Coll :=
        { id := s.nextTag, uid := s.iss.uid, launch := s.cur.launch, slice := s.cur.slice, core := s.cur.core,
          priv := s.privL s.low, minor := minor, desc := desc, cw := s.rup b.toNat, scope := scope.toNat, p := 0,
          members := [], data := [], tiles := [], wrote := 0 }
      let s2 := { s1 with nextTag := s1.nextTag + 1 }.drain
      .next (s2.startColl c)

/-- COLL.A2A. -/
def execCollA2a (a b : UReg) (scope : BitVec 4) (s : State) : Res := collOp 0 a b scope s
/-- COLL.REDUCE. -/
def execCollReduce (a b : UReg) (scope : BitVec 4) (s : State) : Res := collOp 1 a b scope s
/-- COLL.ALLRED. -/
def execCollAllred (a b : UReg) (scope : BitVec 4) (s : State) : Res := collOp 2 a b scope s
/-- COLL.COMP (R280, R294). -/
def execCollComp (a b : UReg) (scope : BitVec 4) (s : State) : Res := collOp 3 a b scope s

end Sys2Proof.Machine
end

