-- ==== Sys2Proof/Machine/Display.lean ====
section
/-!
DEFINITION. Display heads and encoders: PRES (R262, R263), vertical blanks, DISP.CTL, the sink (R341 to R343).
-/

namespace Sys2Proof.Machine

/-- A head. -/
def State.head (s : State) (k : Nat) : Head := NMap.get {} s.heads k

/-- Replaces a head. -/
def State.setHead (s : State) (k : Nat) (h : Head) : State := { s with heads := NMap.put s.heads k h }

/-- Is a present descriptor in range (R262, R263)? -/
def presOk (b : List Byte) (enc : Bool) : Bool :=
  let f := bytesAt b
  let w := f 8 2
  let h := f 10 2
  f 0 8 % 256 == 0 && 16 ≤ w && w ≤ 7680 && 16 ≤ h && h ≤ 4320 && f 12 4 % 256 == 0 && f 16 1 ≤ 2 && f 17 1 ≤ 1
  && f 18 1 ≤ (if f 17 1 = 0 then 255 else 51) && f 19 1 < 4 && f 20 4 == 0 && f 36 28 == 0
  && !(enc && (f 16 1 == 0 || 3840 < w || 2160 < h || w % 8 != 0 || h % 8 != 0))

/-- PRES (R262, R263): a head with two presents pending keeps a third waiting. The order of its checks is the model's: ENC and SCAN both
zero, the head, the steps of R229, the descriptor's fields (DESIGN CHOICE, log 78). -/
def execPres (a b : UReg) (wscope : BitVec 4) (enc scan : Bool) (head : BitVec 3) (s : State) : Res :=
  if !enc && !scan then raise (s.trapLow .illegalField 0 0) s
  else if !(s.members s.cur.slice).contains head.toNat then raise (s.trapLow .access 0 0) s
  else if 2 ≤ (s.head head.toNat).pend.length then stall s
  else
    match s.descCheck s.low (s.rup a.toNat) (some (s.rup b.toNat)) with
    | (_, .error t) => raise t s
    | (s1, .ok bs) =>
      if !presOk bs enc then raise (s.trapLow .illegalField 0 0) s
      else
        let p : PresOp :=
          { uid := s.iss.uid, launch := s.cur.launch, slice := s.cur.slice, priv := s.privL s.low, core := s.cur.core,
            desc := bs, cw := s.rup b.toNat, scope := wscope.toNat, enc := enc, scan := scan, latched := false }
        let s1 := s1.drain
        let h := s1.head head.toNat
        .next (s1.setHead head.toNat { h with pend := h.pend ++ [p] })

/-- For whom a present acts. -/
def PresOp.ctx (p : PresOp) : Ctx := ⟨p.core, p.slice, p.priv, p.uid, p.launch⟩

/-- The rows of a surface, as address and bytes. The chroma plane of P010 has HEIGHT / 2 rows of 2 × WIDTH bytes, an odd HEIGHT rounded
down (DESIGN CHOICE, log 79). -/
def surfRows (b : List Byte) : List (Nat × Nat) :=
  let f := bytesAt b
  let px := if f 16 1 = 1 then 2 else 4
  let row (base : Nat) (k : Nat) : Nat × Nat := (base + f 12 4 * k, px * f 8 2)
  (List.range (f 10 2)).map (row (f 0 8))
    ++ if f 16 1 = 1 then (List.range (f 10 2 / 2)).map (row (f 0 8 + f 12 4 * f 10 2)) else []

/-- Reads every byte of a surface; none at a fault. A poisoned line is such a fault, which ends the present (R263; DESIGN CHOICE, log
28). -/
def State.readRows (s : State) (c : Ctx) : List (Nat × Nat) → State × Option (List Byte)
  | [] => (s, some [])
  | (va, n) :: rest =>
    match s.engRead c va n with
    | (s, .error _) => (s, none)
    | (s, .ok bs) =>
      match s.readRows c rest with
      | (s, some more) => (s, some (bs ++ more))
      | r => r

/-- A present leaves its head with a status, reason and count (R263, R368). -/
def State.endPres (s : State) (k : Nat) (p : PresOp) (status reason n : Nat) : State :=
  let h := s.head k
  let s := s.setHead k { h with pend := h.pend.drop 1 }
  s.finish p.uid s.opNow (.word p.core p.slice p.priv p.launch p.cw p.scope (status * 2 ^ 62 + reason * 2 ^ 48 + n))

/-- The head latches the frame of its oldest present, with its pixels; a surface that cannot be read aborts it. -/
def State.latch (s : State) (k : Nat) (p : PresOp) : State :=
  match s.readRows p.ctx (surfRows p.desc) with
  | (s, none) => s.endPres k p 2 5 0
  | (s, some px) =>
    let h := s.head k
    let f := bytesAt p.desc
    s.setHead k { h with
      shown := some ⟨f 0 8, f 8 2, f 10 2, f 12 4, f 16 1, p.slice, px⟩,
      pend := { p with latched := true } :: h.pend.drop 1 }

/-- The bytes that hold pixel (x, y) of a latched frame: 4 bytes, or 2 of luma and the 4 of its chroma pair (R262). -/
def Shown.pixel (f : Shown) (x y : Nat) : List Byte :=
  if f.fmt = 1 then
    sliceOf f.pixels (2 * (f.width * y + x)) 2 ++ sliceOf f.pixels (2 * f.width * (f.height + y / 2) + x / 2 * 4) 4
  else sliceOf f.pixels (4 * (f.width * y + x)) 4

/-- The rows of a physical output: a larger frame is cropped at its top-left corner, a smaller one padded with black (R342). -/
def sinkRows (f : Option Shown) (w h : Nat) : List (List (Option (List Byte))) :=
  (List.range h).map fun y => (List.range w).map fun x =>
    match f with
    | some f => if x < f.width ∧ y < f.height then some (f.pixel x y) else none
    | none => none

/-! Encoders (R20, R343). -/

/-- The profile of a stream: 0 AV1 Main, 1 AV1 High, 2 HEVC Main 10, 3 HEVC Main 4:4:4 10; 4:2:0 takes the first of its codec, 4:4:4
the second (R20, R263). -/
def profileOf (codec fmt : Nat) : Nat := 2 * codec + (if fmt = 2 then 1 else 0)

/-- The units of a coded frame: 0 the frame, 1 an AV1 sequence header, 2 to 4 HEVC's VPS, SPS and PPS, which a KEY frame carries
(R343). -/
def streamUnits (codec : Nat) (key : Bool) : List Nat :=
  (if !key then [] else if codec = 0 then [1] else [2, 3, 4]) ++ [0]

/-- Is a frame coded as a KEY frame: its FLAGS say so, or the encoder's reference is of another size or codec, or none (R343)? -/
def State.keyFrame (s : State) (k : Nat) (p : PresOp) : Bool :=
  let f := bytesAt p.desc
  nbit (f 19 1) 0 || (match (s.head k).encRef with
    | some r => r.codec != f 17 1 || r.width != f 8 2 || r.height != f 10 2
    | none => true)

/-- The frame that the encoder refers to: none for a KEY frame. -/
def State.refFrame (s : State) (k : Nat) (p : PresOp) : List Byte :=
  if s.keyFrame k p then [] else match (s.head k).encRef with | some r => r.frame | none => []

/-- What the coding of a present's frame depends on beside the frames: profile, unit, frame kind, QP, size (R343). -/
def State.codeArgs (s : State) (k : Nat) (p : PresOp) (unit : Nat) : List Nat :=
  let f := bytesAt p.desc
  [profileOf (f 17 1) (f 16 1), unit, if s.keyFrame k p then 1 else 0, f 18 1, f 8 2, f 10 2]

/-- The bitstream of a present's frame: its units in order. What bytes a unit has is not stated: free values of the frame, of the frame
referred to, and of the profile, QP and size (log 31). -/
def State.bitstream (s : State) (k : Nat) (p : PresOp) (px : List Byte) : List Byte :=
  ((streamUnits (bytesAt p.desc 17 1) (s.keyFrame k p)).map fun i =>
    Config.streamUnit (s.codeArgs k p i) px (s.refFrame k p)).flatten

/-- The encoder codes a frame. How much of a bitstream that exceeds BITCAP is written is a free value (log 31). -/
def State.encode (s : State) (k : Nat) (p : PresOp) : State :=
  match s.readRows p.ctx (surfRows p.desc) with
  | (s, none) => s.endPres k p 2 5 0
  | (s, some px) =>
    let f := bytesAt p.desc
    let all := s.bitstream k p px
    let cap := f 32 4
    let bs := if all.length ≤ cap then all else all.take (Config.freeWord s.tick % (cap + 1))
    match s.engOut p.ctx s.opNow (f 24 8) bs with
    | (s, some (_, a)) => s.endPres k p 2 5 (a - f 24 8)
    | (s, none) =>
      if cap < all.length then s.endPres k p 2 6 bs.length
      else
        let frame := Config.decodedFrame (s.codeArgs k p 0) px (s.refFrame k p)
        let s := s.setHead k { s.head k with encRef := some ⟨f 17 1, f 8 2, f 10 2, f 16 1, frame⟩ }
        s.endPres k p 1 0 bs.length

/-- Does a present wait for the vertical blank? -/
def PresOp.vsync (p : PresOp) : Bool := nbit (bytesAt p.desc 19 1) 1

/-- EVENT VERTICAL_BLANK (R341, R342): an enabled head latches a waiting VSYNC frame and shows what it has latched, cropped or padded to
the sink's mode where it drives one. -/
def execVerticalBlank (head : Nat) (s : State) : Res :=
  if !nbit (s.sysr 0x39 head) 31 then .next s
  else
    let s := match (s.head head).pend with
      | p :: _ => if p.scan && p.vsync && !p.latched then s.latch head p else s
      | [] => s
    let h := s.head head
    let dp := match h.mode with
      | some (w, ht) => if nbit (s.sysr 0x39 head) 29 then [Out.sink head w ht (sinkRows h.shown w ht)] else []
      | none => []
    .next { s with out := s.out ++ [Out.scan head h.shown] ++ dp }

/-- EVENT PRESENT_COMPLETE (R263): the oldest present of a head is latched, coded and completed, as it asks. -/
def execPresentComplete (head : Nat) (s : State) : Res :=
  match (s.head head).pend with
  | [] => .next s
  | p :: _ =>
    if p.scan && !p.latched then .next (if p.vsync then s else s.latch head p)
    else if p.enc then .next (s.encode head p)
    else .next (s.endPres head p 1 0 0)

/-- A write to DISP.CTL (R341). -/
def State.writeDispCtl (s : State) (head x : Nat) : State :=
  let r := s.sysr 0x39 head
  if (nbit x 29 && 2 ≤ head) || x % 256 < 24 || 240 < x % 256 then s.setSysBit 0x39 head 30
  else
    let err := if nbit r 30 && !nbit x 30 then 2 ^ 30 else 0
    s.setSys 0x39 head (bits x 31 31 * 2 ^ 31 + err + bits x 29 29 * 2 ^ 29 + x % 256)

/-- EVENT DISP_CTL_WRITE (R341). -/
def execDispCtlWrite (head : Nat) (v : BitVec 32) (s : State) : Res :=
  .next (if head < 8 ∧ !s.recovery then s.writeDispCtl head v.toNat else s)

/-- EVENT DISPLAYPORT_LINK_TRAINING (R342): firmware sets the mode of a head's sink. -/
def execDisplayportLinkTraining (head width height : Nat) (s : State) : Res :=
  .next (if head < 2 then s.setHead head { s.head head with mode := some (width, height) } else s)

end Sys2Proof.Machine
end

