-- ==== Sys2Proof/Machine/Fabric.lean ====
section
/-!
DEFINITION. The optical fabric: planes, slots and frames (R311 to R321), remote requests at their owner and their answers
(R106, R108, R214, R322 to R324).
-/

namespace Sys2Proof.Machine

/-! Planes and the calendar. -/

/-- A plane. -/
def State.plane (s : State) (p : Nat) : Plane := NMap.get {} s.planes p

/-- Replaces a plane. -/
def State.setPlane (s : State) (p : Nat) (x : Plane) : State := { s with planes := NMap.put s.planes p x }

/-- FABRIC.CTL.EN. -/
def State.fabOn (s : State) : Bool := nbit (s.sysr 0x30 0) 31

/-- Slots of a rotation. -/
def State.nslot (s : State) : Nat := bits (s.sysr 0x30 0) 25 20 + 1

/-- The capacity of a slot in flits (R314). -/
def State.slotFlits (s : State) : Nat :=
  (bits (s.sysr 0x30 0) 19 14 * 500 - bits (s.sysr 0x30 0) 13 8 * 10) * 14

/-- The peer of a plane in a slot; none where it is dark (R312). -/
def State.peer (s : State) (p slot : Nat) : Option Nat :=
  (s.cal.find? fun e => e.1 == p && e.2.1 == slot).map (·.2.2)

/-- The flits of a message (R316). -/
def msgFlits (m : Msg) : Nat := m.len + 1

/-- An entry of the calendar in memory; a page that does not translate reads as dark. -/
def State.calEntry (s : State) (p slot : Nat) : Nat :=
  let va := bits (s.sysr 0x32 0) 56 6 * 64 + 2 * (p * s.nslot + slot)
  match s.walk 0 va with
  | .error _ => 0
  | .ok e =>
    let line := pline (e.paOf va)
    if (permit e .read true false).isSome ∨ s.discarded e ∨ s.poison.contains line then 0
    else bytesAt (s.homeLine line) (e.paOf va % 64) 2

/-- The fabric reads the calendar (R312): the entries in use. -/
def State.readCal (s : State) : State :=
  let es := (List.range 64).flatMap fun p => (List.range s.nslot).filterMap fun slot =>
    let e := s.calEntry p slot
    let peer := e % 1024
    if nbit e 15 && bits e 14 10 == 0 && peer != s.pkg && nbit (s.sysr 0x4B 0) p then some (p, slot, peer) else none
  { s with cal := es }

/-- A write to FABRIC.CTL (R311). -/
def State.writeFabricCtl (s : State) (v : Nat) : State :=
  let old := s.sysr 0x30 0
  let fields := v % 2 ^ 30 / 64
  let bad := bits v 7 6 == 3 || (nbit v 31 && (bits v 29 26 == 0 || bits v 19 14 < 4 || 40 < bits v 19 14 || bits v 13 8 < 10
    || 50 < bits v 13 8))
  if bad ∨ (nbit old 31 ∧ fields ≠ old % 2 ^ 30 / 64) then s.setSysBit 0x30 0 30
  else
    let err := if nbit v 30 then 0 else bits old 30 30 * 2 ^ 30
    let s := s.setSys 0x30 0 (bits v 31 31 * 2 ^ 31 + err + fields * 64)
    if nbit v 31 ∧ !nbit old 31 then s.readCal else s

/-- EVENT FABRIC_CTL_WRITE (R311, R312). -/
def execFabricCtlWrite (v : BitVec 32) (s : State) : Res := .next (if s.recovery then s else s.writeFabricCtl v.toNat)

/-! Counting what is discarded (R358): frames in the low half, messages in the high half. -/

/-- One more in a half of FABRIC.ERRCNT; vector 8 tells of it (R361, log 66). -/
def State.countFab (s : State) (msg : Bool) : State :=
  let x := s.sysr 0x35 0
  let s := { s with out := s.out ++ [Out.msix 8] }
  let lo := x % 65536
  let hi := x / 65536 % 65536
  if msg then s.setSys 0x35 0 (lo + 65536 * min 65535 (hi + 1)) else s.setSys 0x35 0 (min 65535 (lo + 1) + 65536 * hi)

/-! Filling a frame (R317). -/

/-- How far sequence number b lies beyond a, modulo 2^32 (R321). -/
def seqDist (a b : Nat) : Nat := (BitVec.ofNat 32 b - BitVec.ofNat 32 a).toNat

/-- The head of a slice's queue for a destination. -/
def State.headOf (s : State) (k d : Nat) : Option QMsg := s.sendQ.find? fun q => q.slice == k && q.msg.odst == d

/-- A message's sequence number: its own once assigned, else the next of its triple (R321). -/
def State.seqOf (s : State) (q : QMsg) : Nat :=
  if q.seqd then q.msg.seq
  else NMap.get 0 (if q.msg.ordered then s.txSeq else s.txFree) q.msg.odst

/-- Does a message wait for another that was queued before it, in whatever slice's queue: a write-back of the same place to the same
package (R106), or a request for the same line (R96)? -/
def State.behind (s : State) (q : QMsg) : Bool :=
  let line (x : QMsg) : Option Nat := x.msg.req.map (·.off / 64)
  q.msg.typ == 0 && (s.sendQ.takeWhile (· != q)).any fun x =>
    x.msg.typ == 0 && x.msg.odst == q.msg.odst && ((q.place.isSome && x.place == q.place) || line x == line q)

/-- May a message be sent as to capacity, cap, the order of requests and the window of unacknowledged flits (R106, R314, R318, R321)? A relayed message
is held back by its slice's cap only where that is 0. -/
def State.fits (s : State) (p : Nat) (q : QMsg) (relay : Bool) : Bool :=
  let pl := s.plane p
  let n := msgFlits q.msg
  let cap := s.scap q.slice
  n ≤ pl.left && !s.behind q && (if relay then cap != 0 else NMap.get 0 pl.used q.slice + n ≤ cap)
  && (!q.msg.ordered || seqDist (NMap.get 0 s.txAck q.msg.odst) (s.seqOf q + n) ≤ 4096)

/-- Places a queued message in the plane's frame: the message as sent. -/
def State.place (s : State) (p : Nat) (q : QMsg) (relay : Bool) : State :=
  let pl := s.plane p
  let n := msgFlits q.msg
  let seq := s.seqOf q
  let d := q.msg.odst
  let sent : QMsg := { q with msg := { q.msg with seq := seq, relayed := relay }, seqd := true }
  let s := s.setPlane p { pl with
    left := pl.left - n, used := NMap.put pl.used q.slice (NMap.get 0 pl.used q.slice + n), sentQ := pl.sentQ ++ [sent] }
  let s := { s with sendQ := s.sendQ.erase q }
  if q.seqd then s
  else if q.msg.ordered then { s with txSeq := NMap.put s.txSeq d ((seq + n) % 2 ^ 32) }
  else { s with txFree := NMap.put s.txFree d ((seq + n) % 2 ^ 32) }

/-- One message from each slice in turn; the slices that placed one, and those whose head waits for a message of another queue: it lets the
turn pass (log 65). -/
def State.turn (s : State) (p d : Nat) : List Nat → State × List Nat
  | [] => (s, [])
  | k :: ks =>
    match s.headOf k d with
    | none => s.turn p d ks
    | some q =>
      if s.fits p q false then
        let r := (s.place p q false).turn p d ks
        (r.1, k :: r.2)
      else
        let r := s.turn p d ks
        (r.1, if s.behind q then k :: r.2 else r.2)

/-- Turns until no queue goes on, at most `fuel`. -/
def State.turns (p d : Nat) : Nat → List Nat → State → State
  | 0, _, s => s
  | _, [], s => s
  | fuel + 1, ks, s =>
    let r := s.turn p d ks
    State.turns p d fuel r.2 r.1

/-- The flits of a message in the wells. -/
def WellMsg.flits (w : WellMsg) : Nat := msgFlits w.msg

/-- The messages of the wells for a destination that fit, in their order of arrival. -/
def takeWells : Nat → List WellMsg → List WellMsg
  | _, [] => []
  | left, w :: ws => if w.flits ≤ left then w :: takeWells (left - w.flits) ws else []

/-- Flits that a die's wells hold, and that they can hold: its carve in 2 MiB units, of which each of its 32 banks is 1/32 (R17,
R89). -/
def State.dieFlits (s : State) (die : Nat) : Nat := (s.wells.map fun w => if die = 0 then w.on0 else w.flits - w.on0).sum
@[inherit_doc State.dieFlits] def State.dieCap (s : State) (die : Nat) : Nat := bits (s.sysr 0x10 die) 13 8 * 32768

/-- Flits that the wells hold, and that they can hold, in all (R320). -/
def State.wellFlits (s : State) : Nat := (s.wells.map WellMsg.flits).sum
@[inherit_doc State.wellFlits] def State.wellCap (s : State) : Nat := s.dieCap 0 + s.dieCap 1

/-- A message put into the wells. Which die, and which banks of it, take a relayed message is not stated: a free number of its flits
goes to die 0, as far as each die has room, and a die's flits are taken to be spread evenly over its banks (log 61). -/
def State.putWell (s : State) (m : Msg) : State :=
  let n := msgFlits m
  let room (d : Nat) := s.dieCap d - s.dieFlits d
  let on0 := min (room 0) (max (n - room 1) (Config.freeChoice s.tick % (n + 1)))
  { s with wells := s.wells ++ [⟨m, on0⟩] }

/-- What the planes' current slots have promised for a destination, and in all (R320). -/
def State.promisedTo (s : State) (d : Nat) : Nat :=
  (s.planes.map fun e => (e.2.allow.map fun (a : Nat × Nat) => if a.1 = d then a.2 else 0).sum).sum
@[inherit_doc State.promisedTo] def State.promisedAll (s : State) : Nat :=
  (s.planes.map fun e => (e.2.allow.map fun (a : Nat × Nat) => a.2).sum).sum

/-- The allowances published in a frame to a peer (R320). How the free well space is apportioned is a free value. -/
def State.allowances (s : State) (d : Nat) : List (Nat × Nat) :=
  let dests := ((s.cal.map fun e => e.2.2).eraseDups).filter (· != d)
  let free := s.wellCap - s.wellFlits - s.promisedAll
  (dests.foldl (fun (acc : List (Nat × Nat) × Nat) x =>
    let held := ((s.wells.filter fun w => w.msg.odst == x).map WellMsg.flits).sum
    let slot := s.slotFlits - 65 - held - s.promisedTo x
    let a := min (Config.freeWord (s.tick * 2 ^ 64 + x) % (acc.2 + 1)) slot
    if a = 0 then acc else (acc.1 ++ [(x, a)], acc.2 - a)) ([], free)).1

/-- The acknowledgment due to a source, and the chunk refusals pending for it (R317, R321). -/
def State.dueAcks (s : State) (d : Nat) : List Msg :=
  let next := NMap.get 0 s.rxNext d
  let ack : Msg :=
    { osrc := s.pkg, odst := d, typ := 4, ordered := false, relayed := false, rsv := false, len := 0, seq := next, tag := 0,
      req := none, off := 0, data := [] }
  (if next = NMap.get 0 s.rxAcked d then [] else [ack]) ++ s.pendRefs.filter fun m => m.odst == d

/-- Places an acknowledgment or a chunk refusal; `off` of the record kept for an acknowledgment is the number acknowledged
before. -/
def State.placeAck (s : State) (p d : Nat) (m : Msg) : State :=
  let pl := s.plane p
  let seq := NMap.get 0 s.txFree d
  let s := { s with txFree := NMap.put s.txFree d ((seq + 1) % 2 ^ 32) }
  if m.typ = 4 then
    { s with rxAcked := NMap.put s.rxAcked d m.seq }.setPlane p { pl with
      left := pl.left - 1, sentA := pl.sentA ++ [{ m with off := NMap.get 0 s.rxAcked d }] }
  else
    { s with pendRefs := s.pendRefs.erase m }.setPlane p { pl with left := pl.left - 1, sentA := pl.sentA ++ [{ m with seq := seq }] }

/-- Marks the heads that were not placed in a slot matched to their destination (R319). -/
def State.markOverrun (s : State) (d : Nat) : State :=
  (List.range 8).foldl (fun s k =>
    match s.headOf k d with
    | none => s
    | some q => { s with sendQ := s.sendQ.replace q { q with overrun := true } }) s

/-- Tells the collectives which chunks have been placed (R329). -/
def State.chunksPlaced (s : State) (qs : List QMsg) : State :=
  qs.foldl (fun s q => match q.coll with
    | some (id, mid) => (s.chunkPlaced id mid q.msg.off).tryColl id
    | none => s) s

/-- The flits of a slot left to the package's own messages. While a power cap holds the clock below its highest step, firmware
limits what is sent, to a payload that the spec does not number: a free value (R26, R365, log 61). -/
def State.ownFlits (s : State) (left : Nat) : Nat :=
  if nbit (s.sysr 0x50 0) 31 ∧ bits (s.sysr 0x51 0) 23 16 < 36 then Config.freeWord (s.tick * 2 ^ 64 + 1024) % (left + 1) else left

/-- Sends the frame of a plane's slot to its peer (R315, R317). -/
def State.sendFrame (s : State) (p slot d : Nat) : State :=
  let allow := s.allowances d
  let left := s.slotFlits - 1 - (allow.length + 15) / 16
  let wells := takeWells left (s.wells.filter fun w => w.msg.odst == d)
  let pl : Plane := { s.plane p with
    left := s.ownFlits (left - (wells.map WellMsg.flits).sum), used := [], allow := allow, sentQ := [], sentW := wells, sentA := [] }
  let s := { s.setPlane p pl with wells := wells.foldl (fun ws m => ws.erase m) s.wells }
  let acks := (s.dueAcks d).take pl.left
  let s := acks.foldl (fun s m => s.placeAck p d m) s
  let order := (List.range 8).map fun i => (slot % 8 + i) % 8
  let s := (State.turns p d (s.sendQ.length + 1) order s).markOverrun d
  let pl := s.plane p
  let a := pl.sentA.map fun (m : Msg) => if m.typ = 4 then { m with off := 0 } else m
  let f : Frame :=
    { src := s.pkg, dst := d, rot := pl.rot % 65536, slot := slot, plane := p, allow := allow,
      msgs := pl.sentW.map (·.msg) ++ a ++ pl.sentQ.map (·.msg) }
  { s with out := s.out ++ [Out.frame f] }.chunksPlaced pl.sentQ

/-- EVENT SLOT_MARKER (R313): a rotation begins on a plane; a marker missing or not on time takes the plane down. -/
def execSlotMarker (plane : Nat) (onTime : Bool) (s : State) : Res :=
  let pl := s.plane plane
  .next (s.setPlane plane { pl with up := onTime, cur := none, rot := pl.rot + 1, allow := [], sentQ := [], sentW := [], sentA := [] })

/-- EVENT SLOT_START (R313, R315, R317): the next slot of a plane begins; its frame is filled and sent unless the slot is
dark, the plane is down or the fabric is off. -/
def execSlotStart (plane : Nat) (s : State) : Res :=
  let pl := s.plane plane
  let slot := match pl.cur with
    | some k => k + 1
    | none => 0
  if s.nslot ≤ slot then .next s
  else
    let s := s.setPlane plane { pl with cur := some slot, left := 0, used := [], allow := [], sentQ := [], sentW := [], sentA := [] }
    match if s.fabOn && pl.up then s.peer plane slot else none with
    | some d => .next (s.sendFrame plane slot d)
    | none => .next s

/-! Receiving (R315, R316, R320, R321). -/

/-- May a message placed in a frame that is treated as not sent be sent later? Not a chunk of a collective that has failed (R328), nor
a request of this package that has timed out (R322). -/
def State.live (s : State) (q : QMsg) : Bool :=
  match q.coll with
  | some (id, _) => s.colls.any fun c => c.id == id && c.fate != 2
  | none => q.msg.typ != 0 || q.msg.osrc != s.pkg || s.remote.any fun o => o.tag == q.msg.tag

/-- A message treated as not sent gives its sequence number back where none of its triple has taken a later one (R312, R321). -/
def State.unseq (s : State) (q : QMsg) : State × QMsg :=
  let d := q.msg.odst
  let last : Bool := seqDist q.msg.seq (NMap.get 0 (if q.msg.ordered then s.txSeq else s.txFree) d) == msgFlits q.msg
  ({ s with
      txSeq := if last && q.msg.ordered then NMap.put s.txSeq d q.msg.seq else s.txSeq,
      txFree := if last && !q.msg.ordered then NMap.put s.txFree d q.msg.seq else s.txFree },
    { q with seqd := !last })

/-- Messages treated as not sent give their numbers back, the last of them first. -/
def State.unseqAll : List QMsg → State → State × List QMsg
  | [], s => (s, [])
  | q :: qs, s =>
    let r := State.unseqAll qs s
    let x := r.1.unseq q
    (x.1, x.2 :: r.2)

/-- A chunk treated as not sent: one enqueued after it waits for it again, and one that stood refused stands so again. -/
def State.unplace (s : State) (q : QMsg) : State :=
  match q.coll with
  | none => s
  | some (id, mid) =>
    let mine (x : QMsg) : Bool := x.coll == some (id, mid)
    let back := (s.sendQ.filter mine).map (·.msg.off)
    { s with
      sendQ := s.sendQ.filter fun x => !mine x,
      colls := s.colls.map fun (c : Coll) => if c.id = id then
        { c with members := c.members.map fun (m : CMember) => if m.id = mid then
            { m with
              queued := true, todo := back ++ m.todo, out := m.out.filter (·.1 != q.msg.off),
              refused := if m.out.contains (q.msg.off, true) then q.msg.off :: m.refused else m.refused } else m } else c }

/-- An acknowledgment treated as not sent is due again. -/
def State.unack (s : State) (m : Msg) : State :=
  if m.typ = 4 then { s with rxAcked := NMap.put s.rxAcked m.odst m.off } else s

/-- What was sent in a plane's current slot is treated as not sent (R312): it returns to the head of its queues, wells
and pending lists. -/
def State.unsend (s : State) (p : Nat) : State :=
  let pl := s.plane p
  let s := s.setPlane p { pl with sentQ := [], sentW := [], sentA := [], allow := [] }
  let s := pl.sentA.foldl State.unack (pl.sentQ.foldl State.unplace s)
  let r := State.unseqAll pl.sentQ s
  { r.1 with
    sendQ := r.2.filter r.1.live ++ r.1.sendQ, wells := pl.sentW ++ r.1.wells,
    pendRefs := pl.sentA.filter (fun m => m.typ != 4) ++ r.1.pendRefs }

/-- A message for this package takes its way by its TYPE. -/
def State.takeIn (s : State) (m : Msg) : State :=
  match m.typ with
  | 0 => { s with inReqs := s.inReqs ++ [m] }
  | 1 => { s with inResps := s.inResps ++ [m] }
  | 2 => if m.req.isSome then { s with inRefs := s.inRefs ++ [m] } else { s with inCRefs := s.inCRefs ++ [m] }
  | 3 => { s with inChunks := s.inChunks ++ [m] }
  | _ => { s with inAcks := s.inAcks ++ [m] }

/-- Delivers the held ORDERED messages of a source whose turn has come, at most `fuel`. -/
def State.deliverHeld (src : Nat) : Nat → State → State
  | 0, s => s
  | fuel + 1, s =>
    let next := NMap.get 0 s.rxNext src
    match s.rxHeld.find? fun m => m.osrc == src && m.seq == next with
    | none => s
    | some m =>
      State.deliverHeld src fuel
        ({ s with rxHeld := s.rxHeld.erase m, rxNext := NMap.put s.rxNext src ((next + msgFlits m) % 2 ^ 32) }.takeIn m)

/-- A message for this package: FREE at once, ORDERED in sequence from the reorder window (R321). -/
def State.deliver (s : State) (m : Msg) : State :=
  if !m.ordered then s.takeIn m
  else
    let next := NMap.get 0 s.rxNext m.osrc
    if 4096 < seqDist next (m.seq + msgFlits m) then s
    else State.deliverHeld m.osrc (s.rxHeld.length + 1) { s with rxHeld := s.rxHeld ++ [m] }

/-- Takes in one message of a frame on plane p (R316, R320). -/
def State.receive (s : State) (p : Nat) (m : Msg) : State :=
  let pl := s.plane p
  let granted := (pl.allow.map fun (a : Nat × Nat) => if a.1 = m.odst then a.2 else 0).sum
  if m.rsv ∨ 4 < m.typ ∨ (m.typ = 0 ∧ m.req.isNone) then s.countFab true
  else if m.odst = s.pkg then s.deliver m
  else if m.relayed ∧ msgFlits m ≤ granted then
    (s.putWell m).setPlane p { pl with
      allow := pl.allow.map fun (a : Nat × Nat) => if a.1 = m.odst then (a.1, a.2 - msgFlits m) else a }
  else s.countFab true

/-- Relays heads of the queues for one destination within an allowance, at most `fuel` (R320). -/
def State.relayTo (p d : Nat) : Nat → Nat → List Nat → State → State
  | 0, _, _, s => s
  | _, _, [], s => s
  | fuel + 1, a, k :: ks, s =>
    let eager := bits (s.sysr 0x30 0) 7 6 == 2
      && !(s.planes.any fun e => e.2.up && (e.2.cur.bind fun slot => s.peer e.1 slot) == some d)
    match s.headOf k d with
    | none => State.relayTo p d fuel a ks s
    | some q =>
      if (q.overrun || eager) && msgFlits q.msg ≤ a && s.fits p q true then
        State.relayTo p d fuel (a - msgFlits q.msg) (k :: ks) (s.place p q true)
      else State.relayTo p d fuel a ks s

/-- Is an output the frame of a plane's slot in its current rotation? -/
def State.isFrameOf (s : State) (p slot : Nat) (o : Out) : Bool :=
  match o with
  | .frame f => f.plane == p && f.slot == slot && f.rot == (s.plane p).rot % 65536
  | _ => false

/-- The messages added to the last frame that `q` selects. -/
def extendFrame (q : Out → Bool) (ms : List Msg) : List Out → List Out
  | [] => []
  | o :: os =>
    match o with
    | .frame f => if q o && !(os.any q) then .frame { f with msgs := f.msgs ++ ms } :: os else o :: extendFrame q ms os
    | _ => o :: extendFrame q ms os

/-- The relay messages sent to a peer in its slot, once its header has arrived (R320). They join the slot's one frame, whose NMSG
counts them too (R315). -/
def State.relayAll (s : State) (p slot d : Nat) (allow : List (Nat × Nat)) : State :=
  let mode := bits (s.sysr 0x30 0) 7 6
  if mode = 0 then s
  else
    let n := (s.plane p).sentQ.length
    let s := allow.foldl (fun s (x, a) =>
      if x = d ∨ x = s.pkg then s else State.relayTo p x (s.sendQ.length + 9) a (List.range 8) s) s
    let sent := (s.plane p).sentQ.drop n
    { s with out := extendFrame (s.isFrameOf p slot) (sent.map fun (q : QMsg) => q.msg) s.out }.chunksPlaced sent

/-- EVENT SLOT_FRAME_RECEIVE (R312, R315, R316, R320): a frame from a source other than the calendar's peer is discarded
with its messages. -/
def execSlotFrameReceive (plane : Nat) (f : Frame) (s : State) : Res :=
  let pl := s.plane plane
  match pl.cur with
  | none => .next s
  | some slot =>
    if !s.fabOn then .next s
    else if s.peer plane slot ≠ some f.src then .next ((s.countFab false).unsend plane)
    else
      let s := f.msgs.foldl (fun s m => s.receive plane m) s
      .next (if pl.up then s.relayAll plane slot f.src f.allow else s)

/-- EVENT ACKNOWLEDGMENT (R321): the flits below SEQ have been delivered. -/
def execAcknowledgment (k : Nat) (s : State) : Res :=
  match s.inAcks[k]? with
  | none => .next s
  | some m =>
    let s := { s with inAcks := s.inAcks.eraseIdx k }
    let old := NMap.get 0 s.txAck m.osrc
    let sent := NMap.get 0 s.txSeq m.osrc
    .next (if seqDist old m.seq ≤ seqDist old sent then { s with txAck := NMap.put s.txAck m.osrc m.seq } else s)

/-! Remote requests at their owner (R323, R324). -/

/-- The operation that a request asks for. -/
def reqOp (r : Req) : OpK :=
  match r.kind with
  | .read => .read
  | .write => .write
  | .atomic op => .atom op r.typ
  | .rel => .rel
  | .amax => .amax
  | .fill => .read

/-- The translation of a request at the owner; none where it is refused (R324). -/
def State.serveTr (s : State) (r : Req) : Option Tlb :=
  let k := s.lead (bits r.off 52 50)
  if !nbit (s.sysr 0x34 k) 0 then none
  else
    match s.walk k (r.off % 2 ^ 50) with
    | .error _ => none
    | .ok e => if (permit e (if (reqOp r).writes then .write else .read) false false).isSome then none else some e

/-- Performs n bytes of a request, from the one numbered `i`, at the owner's home slice (R93, R105): the old value and the SC timestamp;
none on a poisoned line. A line of host or CXL memory is written on to the memory itself, the place of the scopes node and
wider. -/
def State.servePart (s : State) (r : Req) (e : Tlb) (i n : Nat) : State × Option (Nat × Nat) :=
  let va := r.off % 2 ^ 50 + i
  let op := reqOp r
  let scope := max 7 r.scope
  let pa := e.paOf va
  let s := if op.writes ∧ s.discarded e then s.revive e else s
  let key := scKey 0 pa scope
  let t := max r.clock (NMap.get 0 s.stamps key) + 1
  let stamp (s : State) : State := if r.sc then { s with stamps := NMap.put s.stamps key t } else s
  if s.discarded e then (stamp s, some (0, t))
  else
    match s.performHome op pa va n (r.x / 2 ^ (8 * i) % 2 ^ (8 * n)) r.cmp scope with
    | (s, none) => (s, none)
    | (s, some old) =>
      (stamp (if op.writes ∧ farLine (pline pa) then s.evict (192 + homeDie pa) (pline pa) 0 0 else s), some (old, t))

/-- The answer to a request: a response with the old value and the timestamp, or a refusal. -/
def State.replyTo (s : State) (m : Msg) (r : Req) (ans : Option (Nat × Nat)) : State :=
  let n := if (reqOp r == .write) then 0 else r.size
  let msg (typ len off : Nat) (req : Option Req) (data : List Nat) : Msg :=
    { osrc := s.pkg, odst := m.osrc, typ := typ, ordered := false, relayed := false, rsv := false, len := len, seq := 0,
      tag := m.tag, req := req, off := off, data := data }
  let out := match ans with
    | some (v, t) => msg 1 (payFlits n) (if r.sc then t else 0) none ((toBytes n v).map (·.toNat))
    | none => msg 2 0 0 (some r) []
  if m.osrc = s.pkg then s.takeIn out
  else { s with sendQ := s.sendQ ++ [QMsg.mk (s.lead (bits r.off 52 50)) out false false none none] }

/-- The bytes of a request that are performed next: all of up to 8, else those to the end of a naturally aligned part (R94). -/
def reqPart (r : Req) (i : Nat) : Nat := if r.size ≤ 8 then r.size else min (8 - (r.off + i) % 8) (r.size - i)

/-- The first request of a package is performed, its next part where it is wider than 8 bytes: it stays until its last part is
done. -/
def State.serve (s : State) (k : Nat) (m : Msg) (r : Req) : State :=
  let old := s.servings.find? (·.osrc == m.osrc)
  let got := match old with | some v => v.got | none => []
  let rest : State := { s with inReqs := s.inReqs.eraseIdx k, servings := s.servings.filter (·.osrc != m.osrc) }
  match match old with | some v => some v.tr | none => s.serveTr r with
  | none => rest.replyTo m r none
  | some e =>
    let n := reqPart r got.length
    match rest.servePart r e got.length n with
    | (s1, none) => s1.replyTo m r none
    | (s1, some (v, t)) =>
      let got := got ++ toBytes n v
      if got.length < r.size then { s1 with inReqs := s.inReqs, servings := s1.servings ++ [⟨m.osrc, e, got⟩] }
      else s1.replyTo m r (some (ofBytes got, t))

/-- EVENT REMOTE_REQUEST (R94, R214, R324): the k-th request received, or its next part, is performed; then it is answered, or refused.
Those of one package are performed in the order in which they came (R106). -/
def execRemoteRequest (k : Nat) (s : State) : Res :=
  match s.inReqs[k]? with
  | none => .next s
  | some m =>
    if (s.inReqs.take k).any (·.osrc == m.osrc) then .next s
    else
      match m.req with
      | none => .next { s with inReqs := s.inReqs.eraseIdx k }
      | some r => .next (s.serve k m r)

/-! Answers (R108, R214, R322). -/

/-- Sets a flag of TEAM.STATUS of a live team. -/
def State.teamFlag (s : State) (u k : Nat) : State :=
  let tm := s.team u
  if tm.live ∧ !nbit tm.status.toNat k then s.setTeam u { tm with status := toW (tm.status.toNat + 2 ^ k) } else s

/-- Is a pending operation the one that a fill of a line at a place was fetched for? -/
def Pend.awaits (p : Pend) (o : RemOp) (place line : Nat) : Bool :=
  p.uid == o.uid && p.t == o.t && p.tr.isNone && p.place == place && dline p.va == line

/-- A fill that is refused or times out is the refusal or timeout of the operation that asked for it (R366): its registers receive
all ones, and a REL goes on. -/
def State.failFill (s : State) (o : RemOp) (place line : Nat) : State :=
  match (s.atoms ++ s.scops).find? fun p => p.awaits o place line with
  | some p => State.fillRegs { s with atoms := s.atoms.erase p, scops := s.scops.erase p } p.uid p.t (p.regs.map fun r => (r, 0xFFFFFFFF))
  | none =>
    match (s.thr o.uid o.t).mwait with
    | .rel va scope tr _ =>
      let tm := s.team o.uid
      if (relPend o.uid o.t tm.core tm.slice va scope tr).awaits o place line then s.finishWait o.uid o.t else s
    | _ => s

/-- The domain-global address of a request. -/
def RemOp.va (o : RemOp) : Nat := 2 ^ 63 + o.dst * 2 ^ 53 + o.req.off

/-- A fetched line comes to its place (R366): a copy that another fetch has brought stays, and a line written behind the request is
fetched anew (R96). The copy counts as filled when its request was sent, so that an ACQ or FENCE.ALL after that does not read it
(R100, R102). -/
def State.fillLine (s : State) (o : RemOp) (place line x : Nat) : State :=
  if (s.copy place line).isSome then s
  else if o.again then
    let s := s.giveUp (s.team o.uid).core o.va o.uid o.t
    s.sendReq o.slice o.uid o.t o.dst o.req (.fill place line)
  else s.install place line { s.newCopy (toBytes 64 x) with born := o.sent }

/-- The scope at which the thread of an answered request observes a completion word that the request read, plus one (R103): a load's is
that of its thread's FENCE.ALLs; 0 where it reads none. -/
def State.seenAt (s : State) (o : RemOp) (minor : Nat) : Nat :=
  if o.req.kind = .read ∧ !o.req.sc ∧ minor ≠ 9 then (s.thr o.uid o.t).fenced
  else if o.req.kind = .write ∨ o.req.kind = .rel ∨ o.req.kind = .fill then 0
  else o.req.scope + 1

/-- An answered request observes the completion word that it read. -/
def State.observeAt (s : State) (o : RemOp) (minor : Nat) : State :=
  let k := s.seenAt o minor
  if k = 0 then s else s.observe (s.team o.uid).core (s.nameOf o.va) o.req.size (k - 1)

/-- What an answer does at the issuer: the value, or none for a refusal or a timeout, which reads as all ones in each byte
(R108). The read of an ACQ is performed when it is answered (R100). -/
def State.answer (s : State) (o : RemOp) (v : Option Nat) : State :=
  match o.act with
  | .flags => if v.isSome then s.observeAt o 0 else s
  | .regs rs minor =>
    let s := if minor = 9 then s.acquired (s.team o.uid).core o.req.scope (some o.va) else s
    let s := if v.isSome then s.observeAt o minor else s
    s.fillRegs o.uid o.t (ldVals minor (rs.headD 0) (v.getD (2 ^ (8 * ldSize minor) - 1)))
  | .uregs g rs => (if v.isSome then s.observeAt o 0 else s).fill { uid := o.uid, t := g, vals := regVals rs (v.getD (2 ^ 128 - 1)), uni := true }
  | .fill place line =>
    match v with
    | some x => s.fillLine o place line x
    | none => s.failFill o place line
  | .buf b => s.bufReply b v
  | .copy ch => s.copyReply o.uid ch (v.getD (2 ^ 512 - 1))

/-- Ends a remote operation: its flag first (R214), then what the answer does. -/
def State.settle (s : State) (o : RemOp) (flag : Option Nat) (v : Option Nat) : State :=
  let s := { s with remote := s.remote.erase o }
  let s := match flag with
    | some k => s.teamFlag o.uid k
    | none => s
  s.answer o v

/-- The remote operation that a message answers. -/
def State.awaited (s : State) (m : Msg) : Option RemOp := s.remote.find? fun o => o.tag == m.tag && o.dst == m.osrc

/-- EVENT REMOTE_RESPONSE (R104, R106): the k-th response received fills what awaits it; a late one is discarded. -/
def execRemoteResponse (k : Nat) (s : State) : Res :=
  match s.inResps[k]? with
  | none => .next s
  | some m =>
    let s := { s with inResps := s.inResps.eraseIdx k }
    match s.awaited m with
    | none => .next s
    | some o =>
      let core := (s.team o.uid).core
      let s := if o.req.sc then { s with clocks := NMap.put s.clocks core (max (NMap.get 0 s.clocks core) m.off) } else s
      .next (s.settle o none (some (ofBytes (m.data.map (BitVec.ofNat 8 ·)))))

/-- EVENT REMOTE_REFUSAL (R214). -/
def execRemoteRefusal (k : Nat) (s : State) : Res :=
  match s.inRefs[k]? with
  | none => .next s
  | some m =>
    let s := { s with inRefs := s.inRefs.eraseIdx k }
    match s.awaited m with
    | none => .next s
    | some o => .next (s.settle o (some 30) none)

/-- EVENT REMOTE_TIMEOUT (R108, R214, R322): a request still queued is not sent. -/
def execRemoteTimeout (tag : Nat) (s : State) : Res :=
  match s.remote.find? fun o => o.tag == tag with
  | none => .next s
  | some o =>
    let s := { s with sendQ := s.sendQ.filter fun (q : QMsg) => !(q.msg.typ == 0 && q.msg.osrc == s.pkg && q.msg.tag == tag) }
    .next (s.settle o (some 31) none)

end Sys2Proof.Machine
end

