-- ==== Sys2Proof/Machine/Operands.lean ====
section
/-!
DEFINITION. What an issue must know of an instruction's operands (R36, R130 to R135, R148, R175, R231): its pipe, the registers
it reads with their policies, those it writes, the condition-code set it writes, and how it shares a group.
-/

namespace Sys2Proof.Machine

open Sys2Proof (Instr VReg UReg AtomOp)

/-- The pipes of R130. -/
inductive Pipe where
  | v | m | x
  deriving DecidableEq, Repr

/-- The operands of an instruction: vector registers read, with true for the trap policy; vector registers written; uniform
registers read and written; the set of condition codes written; whether it is gang-collective, must be alone in its group, and
transfers control. -/
structure Ports where
  pipe : Pipe
  rd : List (Nat × Bool) := []
  wr : List Nat := []
  urd : List Nat := []
  uwr : List Nat := []
  cc : Option Nat := none
  coll : Bool := false
  alone : Bool := false
  xfer : Bool := false
  deriving DecidableEq, Repr

/-- n registers from r on. -/
def regRun (r n : Nat) : List Nat := (List.range n).map (r + ·)

/-- n source registers from r on, under one policy. -/
def srcs (r n : Nat) (p : Bool) : List (Nat × Bool) := (regRun r n).map (·, p)

/-- Format A with one result and two sources, in a pipe. -/
def pDAB (pipe : Pipe) (d a b : VReg) (pa pb : Bool) : Ports :=
  { pipe := pipe, rd := srcs a.toNat 1 pa ++ srcs b.toNat 1 pb, wr := [d.toNat] }

/-- The same with one source. -/
def pDA (pipe : Pipe) (d a : VReg) (pa : Bool) : Ports := { pipe := pipe, rd := srcs a.toNat 1 pa, wr := [d.toNat] }

/-- A format that also reads its destination (FFMA, BFI). -/
def pFma (d a b : VReg) (pa pb : Bool) : Ports :=
  { pDAB .v d a b pa pb with rd := srcs d.toNat 1 false ++ srcs a.toNat 1 pa ++ srcs b.toNat 1 pb }

/-- Address sources of majors 0x50 to 0x52 (R199), and of LDS and STS (R204): `n` registers. -/
def pAddr (a : BitVec 6) (u : Bool) (n : Nat) : List (Nat × Bool) × List Nat :=
  if u then ([], regRun a.toNat n) else (srcs a.toNat n false, [])

/-- A load into k registers and a store of k registers, with `n` address registers. -/
def pLoad (k : Nat) (t a : BitVec 6) (u : Bool) (n : Nat) : Ports :=
  { pipe := .m, rd := (pAddr a u n).1, urd := (pAddr a u n).2, wr := regRun t.toNat k }
@[inherit_doc pLoad] def pStore (k : Nat) (t a : BitVec 6) (u : Bool) (n : Nat) : Ports :=
  { pipe := .m, rd := srcs t.toNat k false ++ (pAddr a u n).1, urd := (pAddr a u n).2 }

/-- A uniform load and store. -/
def pUld (k : Nat) (t : UReg) (a : BitVec 6) (u : Bool) : Ports :=
  { pipe := .m, rd := (pAddr a u 2).1, urd := (pAddr a u 2).2, uwr := regRun t.toNat k }
@[inherit_doc pUld] def pUst (k : Nat) (t : UReg) (a : BitVec 6) (u : Bool) : Ports :=
  { pipe := .m, rd := (pAddr a u 2).1, urd := regRun t.toNat k ++ (pAddr a u 2).2 }

/-- The words of an operand of major 0x54: two for the 64-bit types (R206). -/
def atomWords (ty : BitVec 3) : Nat := if ty.toNat = 2 ∨ ty.toNat = 3 then 2 else 1

/-- An atomic or reduction: its operand, twice as long for CAS, the address pair, and its result. -/
def pAtom (cas res : Bool) (t a : VReg) (ty : BitVec 3) : Ports :=
  let w := atomWords ty
  { pipe := .m, rd := srcs t.toNat (if cas then 2 * w else w) false ++ srcs a.toNat 2 false,
    wr := if res then regRun t.toNat w else [] }

/-- An instruction of format U. -/
def pU (d : UReg) (rs : List UReg) : Ports := { pipe := .v, urd := rs.map (·.toNat), uwr := [d.toNat] }

/-- A caddy operation: the handle's pair and the keys; the data registers depend on the region (R225). -/
def pCaddy (a : VReg) (h : BitVec 4) (wr : List Nat) : Ports :=
  { pipe := .m, rd := srcs a.toNat 2 false, urd := regRun (2 * h.toNat) 2, wr := wr }

/-- A copy: the pairs that name its records, and the pair of its completion word or index list. -/
def pCopy (d a b : UReg) (useD : Bool) : Ports :=
  { pipe := .m, urd := regRun a.toNat 2 ++ regRun b.toNat 2 ++ if useD then regRun d.toNat 2 else [] }

/-- A collective, SORT or PRES: two uniform pairs. -/
def pTwo (coll : Bool) (a b : UReg) : Ports := { pipe := .x, urd := regRun a.toNat 2 ++ regRun b.toNat 2, coll := coll }

/-- An instruction of format X or A in pipe X with no operands. -/
def pX : Ports := { pipe := .x }

/-- The operands of every instruction. Events have none. The fourth register of SAMPLE's A, which R257 ignores, counts as a source
(DESIGN CHOICE, log 77). -/
def ports : Instr → Ports
  | .iadd d a b pa pb | .isub d a b pa pb | .iaddx d a b pa pb | .isubx d a b pa pb | .imul d a b pa pb | .imulhI32 d a b pa pb
  | .imulhN32 d a b pa pb | .iminI32 d a b pa pb | .iminN32 d a b pa pb | .imaxI32 d a b pa pb | .imaxN32 d a b pa pb
  | .iaddsI32 d a b pa pb => pDAB .v d a b pa pb
  | .iaddCc c d a b pa pb | .isubCc c d a b pa pb | .iaddxCc c d a b pa pb | .isubxCc c d a b pa pb | .imulCc c d a b pa pb
  | .imulhI32Cc c d a b pa pb | .imulhN32Cc c d a b pa pb | .iminI32Cc c d a b pa pb | .iminN32Cc c d a b pa pb
  | .imaxI32Cc c d a b pa pb | .imaxN32Cc c d a b pa pb | .iaddsI32Cc c d a b pa pb =>
    { pDAB .v d a b pa pb with cc := some c.toNat }
  | .icmp c a b pa pb | .fcmpF32 c a b pa pb =>
    { pipe := .v, rd := srcs a.toNat 1 pa ++ srcs b.toNat 1 pb, cc := some c.toNat }
  | .iadd64 d a b pa pb | .isub64 d a b pa pb =>
    { pipe := .v, rd := srcs a.toNat 2 pa ++ srcs b.toNat 2 pb, wr := regRun d.toNat 2 }
  | .addr d a b pa pb => { pipe := .v, rd := srcs a.toNat 2 pa ++ srcs b.toNat 1 pb, wr := regRun d.toNat 2 }
  | .and d a b pa pb | .or d a b pa pb | .xor d a b pa pb | .shl d a b pa pb | .shrN32 d a b pa pb | .shrI32 d a b pa pb
  | .bfx d a b pa pb => pDAB .v d a b pa pb
  | .bfi d a b pa pb => pFma d a b pa pb
  | .popc d a pa | .clz d a pa => pDA .v d a pa
  | .iaddi d a _ | .andi d a _ | .ori d a _ | .xori d a _ => pDA .v d a false
  | .shli d a _ | .shri d a _ => pDA .v d a false
  | .movi d _ => { pipe := .v, wr := [d.toNat] }
  | .faddF32 _ d a b pa pb | .fsubF32 _ d a b pa pb | .fmulF32 _ d a b pa pb | .faddF16x2 _ d a b pa pb
  | .fmulF16x2 _ d a b pa pb | .faddBf16x2 _ d a b pa pb | .fmulBf16x2 _ d a b pa pb => pDAB .v d a b pa pb
  | .ffmaF32 _ d a b pa pb | .ffmaF16x2 _ d a b pa pb | .ffmaBf16x2 _ d a b pa pb => pFma d a b pa pb
  | .fminF32 d a b pa pb | .fmaxF32 d a b pa pb | .fminF16x2 d a b pa pb | .fmaxF16x2 d a b pa pb => pDAB .v d a b pa pb
  | .fabsF32 d a pa | .fnegF32 d a pa | .fclassF32 d a pa | .mov d a pa => pDA .v d a pa
  | .rcpF32 d a pa | .rsqrtF32 d a pa | .sqrtF32 d a pa | .exp2F32 d a pa | .log2F32 d a pa | .sinF32 d a pa | .cosF32 d a pa
  | .tanhF32 d a pa => pDA .x d a pa
  | .fdivF32 d a b pa pb => pDAB .x d a b pa pb
  | .cvt d a pa _ _ _ dst src =>
    { pipe := .v, rd := srcs a.toNat (if 14 ≤ src.toNat then 2 else 1) pa, wr := regRun d.toNat (if 14 ≤ dst.toNat then 2 else 1) }
  | .pack d a pa _ _ _ _ => { pDA .v d a pa with coll := true }
  | .unpack d a pa _ => { pDA .v d a pa with coll := true }
  | .sel d a b pa pb _ _ => pDAB .v d a b pa pb
  | .lanePick d a b pa pb | .laneRise d a b pa pb | .laneFall d a b pa pb | .laneSwap d a b pa pb =>
    { pDAB .x d a b pa pb with coll := true }
  | .pollSome d a pa | .pollEvery d a pa | .pollMask d a pa | .foldAddI32 d a pa | .foldMinI32 d a pa | .foldMaxI32 d a pa
  | .foldFaddF32 d a pa | .scanAddI32 d a pa => { pDA .x d a pa with coll := true }
  | .bsort d a => { pipe := .x, rd := srcs d.toNat 4 false, wr := regRun d.toNat 4, urd := [a.toNat], coll := true }
  | .intersect d a b pa pb => { pDAB .x d a b pa pb with wr := regRun d.toNat 2, coll := true }
  | .prune d a b pa pb _ _ => { pDAB .x d a b pa pb with coll := true }
  | .act d a pa _ => pDA .x d a pa
  | .actld d a => { pipe := .x, wr := [d.toNat], urd := regRun a.toNat 2 }
  | .amax d a pa u size _ =>
    { pipe := .x, rd := if u then [] else srcs a.toNat 2 pa, urd := if u then regRun a.toNat 2 else [],
      wr := regRun d.toNat (if size then 2 else 1) }
  | .vtos d a pa => { pipe := .x, rd := srcs a.toNat 1 pa, uwr := [d.toNat], coll := true }
  | .stov d a => { pipe := .x, wr := [d.toNat], urd := [a.toNat] }
  | .uadd d a b | .usub d a b | .uand d a b | .uor d a b | .uxor d a b | .ushl d a b | .ushr d a b => pU d [a, b]
  | .uaddImm d a _ | .usubImm d a _ | .uandImm d a _ | .uorImm d a _ | .uxorImm d a _ | .ushlImm d a _ | .ushrImm d a _ => pU d [a]
  | .umov d b => pU d [b]
  | .umovImm d _ => pU d []
  | .bra _ => { pX with xfer := true }
  | .call _ => { pX with wr := regRun 0 2, xfer := true }
  | .brc a pa _ _ rz _ => { pX with rd := if rz then srcs a.toNat 1 pa else [], xfer := true }
  | .meet _ _ | .barArrive _ | .phase | .nop | .yield => pX
  | .bar d _ | .barWait d _ | .carve d _ _ _ | .elect d | .sprd d _ => { pX with wr := [d.toNat] }
  | .spawn d a b pa pb fr _ _ =>
    { pX with
      rd := srcs a.toNat 4 pa ++ srcs b.toNat 2 pb, wr := regRun d.toNat 2, urd := if fr then regRun 4 2 else [] }
  | .emit d a b pa pb fr _ _ =>
    { pX with rd := srcs a.toNat 4 pa ++ (if fr then srcs b.toNat 2 pb else []), wr := regRun d.toNat 2 }
  | .join d a pa => { pX with rd := srcs a.toNat 2 pa, wr := [d.toNat] }
  | .finish a pa => { pX with rd := srcs a.toNat 2 pa, xfer := true }
  | .mcall _ _ _ _ _ => { pX with alone := true }
  | .mload d a _ => { pX with wr := [d.toNat], urd := regRun a.toNat 2 }
  | .trap _ | .svc _ | .eret => { pX with alone := true, xfer := true }
  | .rdsys d w64 _ => { pX with wr := regRun d.toNat (if w64 then 2 else 1) }
  | .wrsys a pa w64 _ => { pX with rd := srcs a.toNat (if w64 then 2 else 1) pa }
  | .jmp a pa | .ret a pa => { pX with rd := srcs a.toNat 2 pa, xfer := true }
  | .callr d a pa => { pX with rd := srcs a.toNat 2 pa, wr := regRun d.toNat 2, xfer := true }
  | .exit => { pX with xfer := true }
  | .spwr b pb => { pX with rd := srcs b.toNat 1 pb }
  | .ldN8 t a u | .ldI8 t a u | .ldN16 t a u | .ldI16 t a u | .ldN32 t a u => pLoad 1 t a u 2
  | .ldN64 t a u => pLoad 2 t a u 2
  | .ldN32x4 t a u => pLoad 4 t a u 2
  | .stN8 t a u | .stN16 t a u | .stN32 t a u => pStore 1 t a u 2
  | .stN64 t a u => pStore 2 t a u 2
  | .stN32x4 t a u => pStore 4 t a u 2
  | .uldN32 t a u => pUld 1 t a u
  | .uldN64 t a u => pUld 2 t a u
  | .ustN32 t a u => pUst 1 t a u
  | .ustN64 t a u => pUst 2 t a u
  | .ldsN32 t a u => pLoad 1 t a u 1
  | .ldsN64 t a u => pLoad 2 t a u 1
  | .ldsN32x4 t a u => pLoad 4 t a u 1
  | .stsN32 t a u => pStore 1 t a u 1
  | .stsN64 t a u => pStore 2 t a u 1
  | .stsN32x4 t a u => pStore 4 t a u 1
  | .gather t a sz => pLoad (2 ^ sz.toNat) t a false 1
  | .scatter t a sz => pStore (2 ^ sz.toNat) t a false 1
  | .atomAdd t a _ _ ty | .atomMin t a _ _ ty | .atomMax t a _ _ ty | .atomAnd t a _ _ ty | .atomOr t a _ _ ty
  | .atomXor t a _ _ ty | .atomXchg t a _ _ ty => pAtom false true t a ty
  | .atomCas t a _ _ ty => pAtom true true t a ty
  | .redAdd t a _ _ ty | .redMin t a _ _ ty | .redMax t a _ _ ty => pAtom false false t a ty
  | .scld t a _ sz => pLoad (2 ^ sz.toNat) t a false 2
  | .scst t a _ sz => pStore (2 ^ sz.toNat) t a false 2
  | .acq t a _ => pLoad 2 t a false 2
  | .rel a _ => { pipe := .m, rd := srcs a.toNat 2 false }
  | .bind t a => { pipe := .m, rd := srcs t.toNat 4 false ++ srcs a.toNat 2 false }
  | .fenceAll _ => { pipe := .m }
  | .copy d a b w => pCopy d a b w.cw
  | .copyScatter d a b _ | .copyGather d a b _ => pCopy d a b true
  | .copyWait d a _ => { pipe := .m, wr := regRun d.toNat 2, urd := regRun a.toNat 2 }
  | .copyQuery d _ _ => { pipe := .m, wr := regRun d.toNat 4 }
  | .prefetch a _ => { pipe := .m, urd := regRun a.toNat 2 }
  | .tstclr d _ => { pipe := .m, wr := [d.toNat] }
  | .cld t a h => pCaddy a h [t.toNat]
  | .cst _ a h | .cred _ a h => pCaddy a h []
  | .cnext t a h | .cprobe t a h => pCaddy a h (regRun t.toNat 2)
  | .collA2a a b _ | .collReduce a b _ | .collAllred a b _ | .collComp a b _ => pTwo false a b
  | .mma d a pa b _ | .mmaZ d a pa b _ =>
    { pX with rd := srcs a.toNat 1 pa, wr := [d.toNat], urd := regRun b.toNat 4, coll := true }
  | .acld d a _ _ | .acst d a _ _ => { pX with wr := [d.toNat], urd := [a.toNat], coll := true }
  | .acz d _ => { pX with wr := [d.toNat], coll := true }
  | .accvt d a b pb _ => { pX with rd := srcs b.toNat 1 pb, wr := [d.toNat], urd := [a.toNat], coll := true }
  | .route d a => { pX with wr := [d.toNat], urd := regRun a.toNat 2, coll := true }
  | .sort a b _ => pTwo true a b
  | .sproj d a b pa pb => { pDAB .x d a b pa pb with wr := regRun d.toNat 2 }
  | .splat d a b pa pb => { pX with rd := srcs a.toNat 4 pa ++ srcs b.toNat 2 pb, wr := [d.toNat] }
  | .blend d a pa b => { pX with rd := srcs d.toNat 4 false ++ srcs a.toNat 4 pa, wr := regRun d.toNat 4 ++ [b.toNat] }
  | .blendBwd d a b pb =>
    { pX with
      rd := srcs d.toNat 4 false ++ srcs a.toNat 4 false ++ srcs b.toNat 4 pb, wr := regRun d.toNat 4 ++ regRun a.toNat 4 }
  | .redF32 t a _ w => pStore (2 ^ w.toNat) t a false 2
  | .cflush => { pipe := .m }
  | .trace a pa b _ => { pX with rd := srcs a.toNat 8 pa, urd := regRun b.toNat 2 }
  | .trres d _ => { pX with wr := regRun d.toNat 4 }
  | .smpld d a _ => { pX with wr := [d.toNat], urd := regRun a.toNat 2 }
  | .sample d a pa b _ => { pX with rd := srcs a.toNat 4 pa, wr := regRun d.toNat 4, urd := regRun b.toNat 2 }
  | .rast d a pa b => { pX with rd := srcs a.toNat 2 pa, wr := [d.toNat], urd := regRun b.toNat 2 }
  | .rastFlush d => { pX with wr := [d.toNat], coll := true }
  | .pres a b _ _ _ _ => pTwo true a b
  | _ => pX

end Sys2Proof.Machine
end

