-- ==== Sys2Proof/Machine/Group.lean ====
section
/-!
DEFINITION. Code: decoding the group at a position, with its checks (R126 to R131, R175), and fetching a code line (R129).
-/

namespace Sys2Proof.Machine

open Sys2Proof (Instr)

/-! Groups (R126 to R131). -/

/-- A trap that decoding finds: its cause, the word index, the number of the failed step. -/
abbrev DecTrap := Cause × Nat × Nat

/-- The instructions of the group that begins at word w of a packet, each with its word index, and the word index after the group;
step 3 and the chain check of the last word (R131). -/
def decGroup (N : Nat) (ws : List (BitVec 32)) : Nat → Nat → Except DecTrap (List (Nat × Instr) × Nat)
  | 0, w => .ok ([], w)
  | fuel + 1, w =>
    let x := ws.getD w 0
    let o := ws.getD (w + 1) 0
    match decode x o with
    | .error .unassigned => .error (.illegalOp, w, 3)
    | .error .badField => .error (.illegalField, w, 3)
    | .ok i =>
      if (isX x ∧ w = 2) ∨ !i.wf N then .error (.illegalField, w, 3)
      else
        let e := w + (if isX x then 2 else 1)
        if !chained x then .ok ([(w, i)], e)
        else if 3 ≤ e then .error (.illegalChain, w, 4)
        else
          match decGroup N ws fuel e with
          | .error t => .error t
          | .ok (l, e') => .ok ((w, i) :: l, e')

/-- Do two instructions of a group use one pipe, or write one register or condition-code set (R131)? `more` gives the registers that
an instruction writes beyond those that its fields name (R225). -/
def clash (more : Instr → List Nat) (i j : Instr) : Bool :=
  let p := ports i
  let q := ports j
  p.pipe == q.pipe || (p.wr ++ more i).any (q.wr ++ more j).contains || p.uwr.any q.uwr.contains
  || (p.cc.isSome && p.cc == q.cc)

/-- The chain checks among the instructions of a group: the word index of the first that clashes with a later one, or of the
group where one of several must be alone (R175). -/
def chainBad (more : Instr → List Nat) : List (Nat × Instr) → Option Nat
  | [] => none
  | (w, i) :: rest =>
    if rest.any (fun (x : Nat × Instr) => clash more i x.2) then some w
    else if !rest.isEmpty && ((ports i).alone || rest.any fun (x : Nat × Instr) => (ports x.2).alone) then some w
    else chainBad more rest

/-- The words of packet k of a line. -/
def packetWords (line : List Byte) (k : Nat) : List (BitVec 32) := (List.range 3).map fun w => toW (bytesAt line (4 + 12 * k + 4 * w) 4)

/-- The group at a position of a line, with every check of R131 in its order. -/
def decodeAt (N : Nat) (more : Instr → List Nat) (line : List Byte) (pos : Nat) : Except DecTrap (List (Nat × Instr) × Nat) :=
  let k := (pos % 64 - 4) / 12
  let w := posWord pos
  let header := bytesAt line 0 4
  if nbit header k then .error (.execPool, w, 1)
  else if 32 ≤ header then .error (.illegalField, w, 2)
  else
    match decGroup N (packetWords line k) 3 w with
    | .error t => .error t
    | .ok (l, e) =>
      match chainBad more l with
      | some w => .error (.illegalChain, w, 4)
      | none => .ok (l, e)

/-- The position after a group that ends before word e of a packet (R127). -/
def posAfter (packet e : Nat) : Nat := if e < 3 then packet + e else nextPacket packet

/-! Fetch (R129). -/

/-- The line as it stands, taken into what a team's fetches may find of it. -/
def State.seeLine (s : State) (u va : Nat) (now : List Byte) : State :=
  let tm := s.team u
  let vs := NMap.get [] tm.code (va / 64)
  if vs.contains now then s else s.setTeam u { tm with code := NMap.put tm.code (va / 64) (vs ++ [now]) }

/-- A line that a team executes: the line as it stands or, where it has been written while the team is resident, by a free choice for
each fetch one of its older forms (R129, log 69). -/
def State.codeLine (s : State) (u va : Nat) (now : List Byte) : State × List Byte :=
  let old := (NMap.get [] (s.team u).code (va / 64)).filter (· != now)
  (s.seeLine u va now, match old with
    | [] => now
    | _ => (old ++ [now]).getD (Config.freeChoice ((s.tick * 2 ^ 32 + u) * 2 ^ 64 + va / 64) % (old.length + 1)) now)

/-- A team's code line at a position as it stands: translated with the X check, read at its home slice; a poisoned line gives MEM_UE. -/
def State.lineNow (s : State) (u t pos : Nat) : State × Except Cause (List Byte) :=
  let tm := s.team u
  match s.xlat tm.core tm.slice (s.privOf u t) false .fetch pos with
  | .error c => (s, .error c)
  | .ok e =>
    let line := pline (e.paOf pos)
    let s := (s.note tm.core e).cisEvict line
    if s.poison.contains line ∧ !s.discarded e then (s, .error .memUe)
    else (s, .ok (if s.discarded e then List.replicate 64 0 else s.homeLine line))

/-- A team's code line at a position, fetched (R129). -/
def State.fetch (s : State) (u t pos : Nat) : State × Except Cause (List Byte) :=
  match s.lineNow u t pos with
  | (s, .error c) => (s, .error c)
  | (s, .ok now) =>
    let (s, bs) := s.codeLine u pos now
    (s, .ok bs)

/-- A code line of a team is looked at ahead of its fetch: the model's own move (log 69). -/
def State.sampleCode (s : State) (u pos : Nat) : State :=
  if !(s.team u).live then s
  else match s.lineNow u 0 pos with
    | (_, .error _) => s
    | (s, .ok now) => s.seeLine u pos now

end Sys2Proof.Machine
end

