-- ==== Sys2Proof/Machine/Launch.lean ====
section
/-!
DEFINITION. Launch queues, launch entries and their checks, work graphs, and the end of a launch (R47 to R54).
-/

namespace Sys2Proof.Machine

/-! Registers of a launch queue (R47, R48). -/

/-- A write to LQ.CTL. -/
def State.writeLqCtl (s : State) (i v : Nat) : State :=
  let old := s.sysr 0x19 i
  let lg := bits v 19 16
  if (nbit v 31 ∧ lg < 4) ∨ (nbit old 31 ∧ (lg ≠ bits old 19 16 ∨ nbit v 29 ≠ nbit old 29)) then s.setSysBit 0x19 i 30
  else
    let err := if nbit v 30 then 0 else bits old 30 30 * 2 ^ 30
    let s := s.setSys 0x19 i (bits v 31 31 * 2 ^ 31 + err + bits v 29 29 * 2 ^ 29 + lg * 2 ^ 16 + v % 4)
    if nbit v 31 ∧ !nbit old 31 then { s.setSys 0x1B i 0 with bells := NMap.put s.bells i 0 } else s

/-- A write to LQ.BASE: refused while EN is 1 if it changes BASE. -/
def State.writeLqBase (s : State) (i v : Nat) : State :=
  let new := bits v 56 12 * 4096
  if nbit (s.sysr 0x19 i) 31 then (if new = s.sysr 0x18 i then s else s.setSysBit 0x19 i 30) else s.setSys 0x18 i new

/-- A doorbell (R48, R97): ignored while EN is 0 and, in a slice group, but for the lead's queues (R24). Host writes
before it become visible: no copy of a host line stays in a die cache. -/
def State.doorbell (s : State) (i v : Nat) : State :=
  if !nbit (s.sysr 0x19 i) 31 ∨ s.lead (i / 4) ≠ i / 4 then s
  else
    let host (l : Nat) : Bool := inHost (64 * l)
    let s := (s.evictAll 192 host 0 0).evictAll 193 host 0 0
    { s with bells := NMap.put s.bells i (v % 65536) }

/-- EVENT LQ_CTL_WRITE (R47). -/
def execLqCtlWrite (inst : Nat) (v : BitVec 32) (s : State) : Res :=
  .next (if inst < 32 ∧ !s.recovery then s.writeLqCtl inst v.toNat else s)

/-- EVENT LQ_DOORBELL (R48). -/
def execLqDoorbell (inst : Nat) (v : BitVec 32) (s : State) : Res :=
  .next (if inst < 32 ∧ !s.recovery then s.doorbell inst v.toNat else s)

/-! Reading a launch's memory. -/

/-- n bytes of a launch's memory, line by line, with `fuel` lines. -/
def State.kReads (s : State) (l : Nat) : Nat → Nat → Nat → State × Except Cause (List Byte)
  | 0, _, _ => (s, .ok [])
  | fuel + 1, va, n =>
    if n = 0 then (s, .ok [])
    else
      let k := min n (64 - va % 64)
      match s.kRead l va k with
      | (s, .error c) => (s, .error c)
      | (s, .ok bs) =>
        match s.kReads l fuel (va + k) (n - k) with
        | (s, .ok rest) => (s, .ok (bs ++ rest))
        | r => r

/-- N of a declared register count (R30). -/
def roundN (nreg : Nat) : Nat := (nreg + 3) / 4 * 4

/-- The three extents of a SHAPE field (R50). -/
def shapeOf (v : Nat) : Nat × Nat × Nat := (v % 1024 + 1, v / 2 ^ 10 % 1024 + 1, v / 2 ^ 20 % 1024 + 1)

/-- Threads of a node's team. -/
def GNode.threads (nd : GNode) : Nat := nd.sx * nd.sy * nd.sz

/-- Granules of a node's team (R43): registers and scratchpad. -/
def GNode.regg (nd : GNode) : Nat := reggOf nd.threads (roundN nd.nreg)
@[inherit_doc GNode.regg] def GNode.scrg (nd : GNode) : Nat := (nd.scr + 65535) / 65536

/-- Does one team fit an empty core (R43, R87)? -/
def GNode.fitsEmpty (nd : GNode) : Bool :=
  (nd.threads + 31) / 32 ≤ 64 && nd.regg + nd.scrg + max 2 nd.l1g ≤ 24 && nd.acc ≤ 16

/-- The launch that an entry's 128 bytes describe (R50). -/
def launchOf (b : List Byte) (slice queue ring : Nat) (priv : Bool) : Launch :=
  let f := bytesAt b
  let r := recOf (b.take 32)
  let sh := f 40 4
  let (x, y, z) := shapeOf sh
  { live := true, slice := slice, queue := queue, ring := ring, priv := priv, rcd := r, ex := f 32 4 % 2 ^ 24 + 1,
    ey := f 36 2 + 1, ez := f 38 2 + 1,
    node0 := { code := hdrCode r.hdr, sx := x, sy := y, sz := z, nreg := f 44 1, l1g := f 45 1, stage := hdrStage r.hdr,
               idem := hdrIdem r.hdr, scr := f 48 4, budget := f 52 4, acc := f 46 1 },
    det := nbit sh 30, ser := nbit sh 31, done := f 56 8, stats := f 64 8, spill := f 72 8, spilln := f 80 4,
    lcoord := toW (f 84 4 % 2 ^ 24), phase := hdrStage r.hdr }

/-! Work graphs (R53, R54). -/

/-- A node entry. -/
def graphNode (b : List Byte) : GNode :=
  let f := bytesAt b
  let (x, y, z) := shapeOf (f 20 4)
  { qbase := f 0 8, qcap := f 8 4, code := f 12 8, sx := x, sy := y, sz := z, nreg := f 24 1, l1g := f 25 1, batch := f 26 1,
    stage := f 27 1 % 16, idem := nbit (f 27 1) 4, scr := f 28 4, budget := f 32 4, acc := f 36 1 }

/-- An edge entry. -/
def graphEdge (b : List Byte) : GEdge := ⟨bytesAt b 0 1, bytesAt b 1 1, bytesAt b 2 2⟩

/-- Is every field of a node entry but node 0's in its range, the reserved ones apart? -/
def nodeOk (b : List Byte) : Bool :=
  let nd := graphNode b
  nd.qbase % 32 == 0 && !isDomain nd.qbase && canonical nd.qbase && 1 ≤ nd.qcap && nd.qcap ≤ 2 ^ 24 && !isDomain nd.code
  && canonical nd.code && nd.threads ≤ 1024 && 1 ≤ nd.nreg && nd.nreg ≤ 64 && nd.l1g ≤ 8 && 1 ≤ nd.batch
  && nd.batch ≤ 32 && nd.batch ≤ nd.scr / 16 && nd.scr ≤ 2 ^ 20 && nd.acc ≤ 16

/-- Pieces of n bytes. -/
def chunksOf (n : Nat) : Nat → List Byte → List (List Byte)
  | 0, _ => []
  | k + 1, bs => bs.take n :: chunksOf n k (bs.drop n)

/-- Are the reserved fields of a node entry zero (R9)? Of node 0's entry nothing else but STAGE is looked at (R53). -/
def nodeZeros (b : List Byte) : Bool := bytesAt b 20 4 < 2 ^ 30 && bytesAt b 27 1 < 32 && (b.drop 37).all (· == 0)

/-- Check 6 of R51 on a graph block's header and entries: its nodes and edges, and whether it passes. -/
def graphOk (stage : Nat) (hd : List Byte) (nb eb : List (List Byte)) : Bool :=
  let ns := nb.map graphNode
  let es := eb.map graphEdge
  let st (k : Nat) : Nat := (ns.getD k {}).stage
  (hd.drop 4).all (· == 0) && nb.all nodeZeros && (nb.drop 1).all nodeOk && st 0 == stage
  && (eb.zip es).all (fun x => (x.1.drop 4).all (· == 0) && x.2.src < ns.length && x.2.dst < ns.length && x.2.dst != 0
    && 1 ≤ x.2.maxEmit && st x.2.src < st x.2.dst)
  && (ns.zipIdx.drop 1).all fun x => es.all fun e => e.dst != x.2 || e.maxEmit ≤ x.1.qcap

/-- Reads a graph block: nodes, edges, and whether check 6 passes; a block that cannot be read does not. -/
def State.readGraph (s : State) (l va stage : Nat) : State × List GNode × List GEdge × Bool :=
  match s.kReads l 3 va 16 with
  | (s, .error _) => (s, [], [], false)
  | (s, .ok hd) =>
    let m := bytesAt hd 0 2
    let e := bytesAt hd 2 2
    if m = 0 ∨ 256 < m ∨ 1024 < e then (s, [], [], false)
    else
      match s.kReads l 1024 (va + 16) (64 * m + 8 * e) with
      | (s, .error _) => (s, [], [], false)
      | (s, .ok b) =>
        let nb := chunksOf 64 m b
        let eb := chunksOf 8 e (b.drop (64 * m))
        (s, nb.map graphNode, eb.map graphEdge, graphOk stage hd nb eb)

/-! The checks of R51. -/

/-- An address that is 0 or local and canonical. -/
def zeroOrLocal (va : Nat) : Bool := va == 0 || (!isDomain va && canonical va)

/-- Check 1: reserved bits and KIND. -/
def entryCheck1 (b : List Byte) : Bool :=
  let f := bytesAt b
  let h := (recOf (b.take 32)).hdr.toNat
  !nbit h 127 && bits h 126 125 == 0 && f 32 4 < 2 ^ 24 && f 47 1 == 0 && f 84 4 < 2 ^ 24 && (b.drop 96).all (· == 0)

/-- Check 3, but for DONE's translation. -/
def entryCheck3 (b : List Byte) (ln : Launch) : Bool :=
  let nd := ln.node0
  nd.threads ≤ 1024 && ln.ex * ln.ey * ln.ez ≤ 2 ^ 32 && 1 ≤ nd.nreg && nd.nreg ≤ 64 && nd.l1g ≤ 8 && nd.acc ≤ 16
  && nd.scr ≤ 2 ^ 20 && zeroOrLocal ln.done && zeroOrLocal ln.stats && zeroOrLocal ln.spill && zeroOrLocal (bytesAt b 88 8)
  && ln.done % 8 == 0

/-- The number of the first check that an entry fails, 0 for none, and the launch as it then stands. -/
def State.checkEntry (s : State) (l : Nat) (b : List Byte) : State × Nat :=
  let ln := s.launch l
  let graph := bytesAt b 88 8
  let doneOk : Bool := ln.done == 0 || (match s.kettleAddr l .write ln.done with | .ok _ => true | .error _ => false)
  if !entryCheck1 b then (s, 1)
  else if !packetAddr ln.node0.code then (s, 2)
  else if !entryCheck3 b ln ∨ !doneOk then (s, 3)
  else
    let (s, ns, es, ok) : State × List GNode × List GEdge × Bool :=
      if graph = 0 then (s, [], [], true) else s.readGraph l graph ln.node0.stage
    let s := if graph = 0 then s else s.setLaunch l { s.launch l with hasGraph := true, nodes := ns, edges := es }
    if !ln.node0.fitsEmpty ∨ (ns.drop 1).any (fun nd => !nd.fitsEmpty) then (s, 4)
    else if ln.det ∧ (ln.spill = 0 ∨ ln.spilln = 0) then (s, 5)
    else if !ok then (s, 6)
    else (s, 0)

/-! The end of a launch (R52). -/

/-- Publishes every write of a slice's cores at system scope. -/
def State.publishSlice (s : State) (k : Nat) : State :=
  (s.coresOf k).foldl (fun s c => s.publish c 11 0 0) s

/-- Writes a launch's completion word and ends it; a word that cannot be written, its line poisoned included, goes into a KIND 7
entry (R52, R351). -/
def State.finishLaunch (s : State) (l status reason : Nat) : State :=
  let ln := s.launch l
  let word := status % 16 * 2 ^ 60 + reason % 4096 * 2 ^ 48 + ln.runs % 2 ^ 48
  let fail (s : State) (c : Cause) : State :=
    s.report ln.slice { kind := 7, launch := l, detail := causeOnly c + 2 ^ 29, addr := ln.done, word := word }
  let s :=
    if ln.done = 0 then s
    else if ln.done % 8 ≠ 0 then fail s .align
    else
      match s.kettleAddr l .write ln.done with
      | .error c => fail s c
      | .ok (s, pa, _) =>
        if s.poisoned pa then fail s .memUe else (s.performHome .write pa ln.done 8 word 0 11).1
  s.setLaunch l { s.launch l with live := false, st := status }

/-- Does an operation of an ended team of a launch's slice wait for its line (R366)? It is a write of a launch of the slice. -/
def State.opsLeft (s : State) (l : Nat) : Bool :=
  (s.atoms ++ s.scops).any fun p => !(s.team p.uid).live && s.lead p.slice == s.lead (s.launch l).slice

/-- Has Kettle a use for a launch still: teams to start, records, reservations, operations on their way (R52)? A caddy operation
of a team that has ended is one of them: it is a write of the launch (R301). -/
def State.launchBusy (s : State) (l : Nat) : Bool :=
  let ln := s.launch l
  (s.teams.any fun e => e.2.live && e.2.launch == l) || s.saved.any (fun (v : Saved) => v.team.launch == l)
  || ln.started < ln.ex * ln.ey * ln.ez || !ln.flushed.isEmpty
  || (ln.nodes.drop 1).any (fun nd => !nd.queue.isEmpty || nd.resv != 0)
  || s.recArrs.any (·.launch == l) || s.joinArrs.any (·.launch == l) || s.bufops.any (·.launch == l)
  || s.caddyOps.any (·.launch == l) || s.opsLeft l

/-- Is a write that a launch sent to another package unanswered (R52, R107)? A written line that left a cache is attributed to
no launch: one on its way for the launch's slice counts too (DESIGN CHOICE, log 62). -/
def State.launchSends (s : State) (l : Nat) : Bool :=
  s.remote.any fun (o : RemOp) =>
    !readsOnly o.req.kind && (o.launch == l || (o.launch == 0 && o.slice == s.lead (s.launch l).slice))

/-- EVENT LAUNCH_END (R52, R97): every write is published at system scope, the answers to those sent to other packages are
awaited, then the completion word is written. An aborted launch, which has no work left, ends so too, with its own STATUS
(R352). -/
def execLaunchEnd (l : Nat) (s : State) : Res :=
  let ln := s.launch l
  if !ln.live ∨ (ln.dying = none ∧ (s.launchBusy l ∨ (ln.det ∧ ln.phase < 16))) then .next s
  else
    let s := s.publishSlice ln.slice
    if s.launchSends l ∨ s.opsLeft l then .next s else .next (s.finishLaunch l (ln.dying.getD ln.st) 0)

/-! Copying entries (R48). -/

/-- The 128 bytes of a ring entry; none while its page does not translate or its line is poisoned. -/
def State.ringEntry (s : State) (slice va : Nat) : State × Option (List Byte) :=
  match s.walk slice va with
  | .error _ => (s, none)
  | .ok e =>
    if (permit e .read true false).isSome then (s, none)
    else if s.discarded e then (s, some (List.replicate 128 0))
    else
      match s.homeRead (e.paOf va) 64 with
      | (s, none) => (s, none)
      | (s, some a) =>
        match s.homeRead (e.paOf va + 64) 64 with
        | (s, none) => (s, none)
        | (s, some b) => (s, some (a ++ b))

/-- Does a launch queue hold an entry that Kettle may read? A slice that is switched out, or being switched, reads none. -/
def State.entryDue (s : State) (slice queue : Nat) : Bool :=
  let i := 4 * slice + queue
  let ctl := s.sysr 0x19 i
  slice < 8 && queue < 4 && nbit ctl 31 && s.lead slice == slice && !nbit (s.sysr 0x22 slice) 29 && !nbit (s.sysr 0x22 slice) 31
  && s.sysr 0x1B i != NMap.get 0 s.bells i % 2 ^ bits ctl 19 16

/-- EVENT LAUNCH_ENTRY (R48 to R51): Kettle copies the next entry of a queue, advances HEAD, and checks it: a refused
launch runs no team, and its completion word names the check. -/
def execLaunchEntry (slice queue : Nat) (s : State) : Res :=
  if !s.entryDue slice queue then .next s
  else
    let i := 4 * slice + queue
    let ctl := s.sysr 0x19 i
    let head := s.sysr 0x1B i
    match s.ringEntry slice (s.sysr 0x18 i + 128 * head) with
    | (_, none) => .next s
    | (s, some b) =>
      let l := s.nextLid
      let s := { s with nextLid := l + 1, ringLid := NMap.put s.ringLid (i * 65536 + head) l }
      let s := s.setSys 0x1B i ((head + 1) % 2 ^ bits ctl 19 16)
      let s := s.setLaunch l (launchOf b slice queue head (nbit ctl 29))
      match s.checkEntry l b with
      | (s, 0) => .next s
      | (s, n) => .next (s.finishLaunch l 1 n)

end Sys2Proof.Machine
end

