-- ==== Sys2Proof/Machine/SaveArea.lean ====
section
/-!
DEFINITION. The save area of a team (R70, R355 to R357): its size, its bytes, and what a resumed team takes from them.
-/

namespace Sys2Proof.Machine

/-- Threads of a team with a traversal in flight. -/
def State.travThreads (s : State) (u : Nat) : List Nat :=
  (List.range (s.team u).n).filter fun t => (s.thr u t).trav.isSome

/-- The offsets of the parts that follow one another (R355), for G gangs, N registers, a scratchpad rounded up to 256, `acc`
tiles and V traversals: registers, full/empty bits, uniform registers, scratchpad, tiles, barriers, arrivals, channels,
traversals, operand logs, loads, end. -/
def saveOffs (g n scr acc v : Nat) : List Nat :=
  let sizes := [256 + 512 * g, 128 * n * g, 4 * n * g, 128 * g, (scr + 255) / 256 * 256, 16384 * acc, 256, 64 * g, 1024,
    256 * v, 256 * g, 1024]
  (sizes.foldl (fun (acc : List Nat × Nat) x => (acc.1 ++ [acc.2 + x], acc.2 + x)) ([], 0)).1

/-- S of R70. -/
def State.saveSize (s : State) (u : Nat) : Nat :=
  let tm := s.team u
  (saveOffs tm.gangs tm.nreg tm.scr tm.acc (s.travThreads u).length).getD 11 0

/-- The four condition-code sets of a thread as CC (R357). -/
def State.ccWord (s : State) (u t : Nat) : Nat :=
  ((List.range 4).map fun c => (NMap.get 0 s.cc (cckey u t c)).toNat * 16 ^ c).sum

/-- A thread's record (R357). -/
def State.threadRec (s : State) (u t : Nat) : List Byte :=
  let th := s.thr u t
  let c := s.ccWord u t
  if th.exited then toBytes 16 0
  else toBytes 8 (c % 128 * 2 ^ 57 + th.pos % 2 ^ 57) ++ toBytes 8 (c / 128 % 128 * 2 ^ 57 + th.meet / 4 % 2 ^ 55 * 4 + c / 2 ^ 14)

/-- The first record of a team, as a stage record once it has executed PHASE (R38, R356). -/
def Team.firstRec (tm : Team) : Rec :=
  let r := tm.recs.headD ⟨0, 0⟩
  if tm.phased then
    let h := r.hdr.toNat
    ⟨BitVec.ofNat 128 (h - bits h 126 121 * 2 ^ 121 + 2 ^ 125 + tm.stage % 16 * 2 ^ 121), r.pay⟩
  else r

/-- The header (R356). -/
def State.saveHeader (s : State) (u : Nat) (reason : Nat) (fi : Option FaultInfo) (v : Nat) : List Byte :=
  let tm := s.team u
  let ln := s.launch tm.launch
  let b (x : Nat) : List Byte := toBytes 1 x
  tm.firstRec.bytes ++ toBytes 4 (ln.ring % 65536 + ln.queue * 65536) ++ toBytes 4 tm.lti
  ++ b tm.stage ++ b reason ++ b tm.regg ++ b tm.scrg ++ b tm.l1g ++ b tm.acc ++ b tm.nreg ++ b tm.gangs
  ++ toBytes 4 tm.n ++ toBytes 4 tm.scr ++ toBytes 4 tm.status.toNat ++ toBytes 4 tm.fpctl.toNat ++ toBytes 4 tm.skew0.toNat
  ++ toBytes 4 tm.skew1.toNat ++ toBytes 4 tm.area.toNat ++ toBytes 2 v ++ toBytes 2 0
  ++ toBytes 8 (fi.map (·.detail.toNat) |>.getD 0) ++ toBytes 8 (fi.map (·.addr.toNat) |>.getD 0)
  ++ toBytes 4 tm.tx ++ toBytes 4 tm.ty ++ toBytes 4 tm.tz ++ toBytes 4 tm.lcoord.toNat ++ toBytes 144 0

/-- A barrier's 16 bytes. -/
def State.barBytes (s : State) (u b : Nat) : List Byte :=
  let br := s.bar u b
  let live := s.liveThreads u
  let carve := match br.carve with
    | some (scrg, l1g) => 2 ^ 31 + l1g % 16 * 2 ^ 24 + scrg % 32 * 2 ^ 16
    | none => 0
  toBytes 2 br.phase ++ toBytes 2 (live.filter fun t => !br.arrived.contains t).length ++ toBytes 4 br.copies
    ++ toBytes 4 br.last.toNat ++ toBytes 4 carve

/-- The arrivals of a gang at a barrier, one bit a lane. -/
def State.arrivalWord (s : State) (u g b : Nat) : Nat :=
  (((s.bar u b).arrived.filter fun t => t / 32 == g).map fun t => 2 ^ (t % 32)).sum

/-- A channel's status (R223). -/
def chanStatus (c : Chan) : Nat :=
  (if c.err then 2 ^ 31 else 0) + (if (c.queue.headD default').fault then 2 ^ 30 else 0) + c.queue.length % 256
where
  /-- A copy that is not suspended, for an empty queue. -/
  default' : Copy :=
    { kind := .plain false 0, priv := false, skind := 0, dscr := false, src := ⟨0, 0, 0, [], []⟩, dst := ⟨0, 0, 0, [], []⟩,
      handle := 0, bar := none, done := none, at_ := 0, total := 0, started := false, fault := false, busy := 0, got := none }

/-- Bytes that the spec leaves to the unit, as free values for this step. -/
def State.unitBytes (s : State) (seed n : Nat) : List Byte :=
  (List.range n).map fun i => BitVec.ofNat 8 (Config.freeWord ((s.tick * 2 ^ 32 + seed) * 2 ^ 32 + i))

/-- The address that logged LDs hold for a lane: that of the first that has one. -/
def logAddr (ls : List OpLog) (lane : Nat) : Option Nat :=
  ls.findSome? fun l => (l.addrs.find? fun x => x.1 == lane).map (·.2)

/-- A slot of a gang's operand log (R357); the word index is that of the gang's first logged LD (log 68). -/
def State.logSlot (s : State) (u g lane : Nat) : Nat :=
  let ls := s.logs u g
  let a := logAddr ls lane
  let th := s.thr u (32 * g + lane)
  let w := if lane < 2 then (ls.head?.map fun l => bits l.word lane lane).getD 0 else 0
  (if a.isSome then 2 ^ 63 else 0) + (if th.exited then 0 else th.frag % 32 * 2 ^ 58) + w * 2 ^ 57 + a.getD 0 % 2 ^ 57

/-- The save area's bytes (R355). The contents of a traversal but for its thread, and of a channel's list address, are the
unit's own. -/
def State.saveBytes (s : State) (u reason : Nat) (fi : Option FaultInfo) : List Byte :=
  let tm := s.team u
  let g := tm.gangs
  let n := tm.nreg
  let vs := s.travThreads u
  let gangs := List.range g
  let r32 := List.range 32
  s.saveHeader u reason fi vs.length
  ++ ((List.range (32 * g)).map fun t => s.threadRec u t).flatten
  ++ (gangs.map fun k => ((List.range n).map fun r => (r32.map fun l => toBytes 4 (s.vAt u (32 * k + l) r).toNat).flatten).flatten).flatten
  ++ (gangs.map fun k => ((List.range n).map fun r =>
      toBytes 4 (r32.map fun l => if s.isEmpty u (32 * k + l) r then 0 else 2 ^ l).sum).flatten).flatten
  ++ (gangs.map fun k => (r32.map fun r => toBytes 4 (NMap.get 0 s.u (ukey u k r)).toNat).flatten).flatten
  ++ s.scrBytes u 0 ((tm.scr + 255) / 256 * 256)
  ++ ((List.range tm.acc).map fun t => (((NMap.get [] s.tiles (tilekey u t)) ++ List.replicate 4096 0).take 4096
      |>.map fun (w : Word) => toBytes 4 w.toNat).flatten).flatten
  ++ ((List.range 16).map fun b => s.barBytes u b).flatten
  ++ (gangs.map fun k => ((List.range 16).map fun b => toBytes 4 (s.arrivalWord u k b)).flatten).flatten
  ++ ((List.range 16).map fun c =>
      let ch := s.chan u c
      toBytes 8 ch.wp ++ toBytes 4 (chanStatus ch) ++ s.unitBytes (c + 1) 8 ++ toBytes 44 0).flatten
  ++ (vs.map fun t => toBytes 4 t ++ s.unitBytes (100 + t) 252).flatten
  ++ (gangs.map fun k => (r32.map fun l => toBytes 8 (s.logSlot u k l)).flatten).flatten
  ++ toBytes 8 tm.actld ++ ((List.range 64).map fun k => toBytes 8 (NMap.get 0 tm.mloads k)).flatten
  ++ ((List.range 16).map fun k => toBytes 8 (NMap.get 0 tm.smplds k)).flatten ++ toBytes 376 0

/-! Physical access of Kettle to the context area (R71). -/

/-- Writes bytes at a physical address; a line written whole loses its poison (R358). -/
def State.physPut (s : State) (pa : Nat) (bs : List Byte) : State :=
  { s with
    mem := memPuts s.mem pa bs,
    poison := s.poison.filter fun l => !(pa ≤ 64 * l && 64 * l + 64 ≤ pa + bs.length) }

/-- Is any line of a physical range poisoned? -/
def State.physBad (s : State) (pa n : Nat) : Bool := s.poison.any fun l => pa < 64 * l + 64 && 64 * l < pa + n

/-- The context area of a slice: its base (R71). -/
def State.ctxBase (s : State) (k : Nat) : Nat := bits (s.sysr 0x21 k) 56 21 * 2 ^ 21

/-- The save areas in use in a slice's context area, by address and size. -/
def State.areasOf (s : State) (k : Nat) : List (Nat × Nat) :=
  s.saved.filterMap fun (v : Saved) =>
    if s.lead v.team.slice = s.lead k then some (v.addr, (v.size + 255) / 256 * 256) else none

/-- The lowest 256-byte aligned address of an area at which n bytes fit beside the areas in use (R69). -/
def lowestFit (base : Nat) (areas : List (Nat × Nat)) (n : Nat) : Option Nat :=
  let starts := ((base + 4096) :: areas.map fun a => a.1 + a.2).mergeSort (· ≤ ·)
  starts.find? fun a =>
    base + 4096 ≤ a && a + n ≤ base + 2 ^ 26 && areas.all fun x => a + n ≤ x.1 || x.1 + x.2 ≤ a

/-- The place for a team's save area; none where it does not fit (R69), its buffered operations' spill room included (R68). -/
def State.saveRoom (s : State) (u : Nat) : Option Nat :=
  let tm := s.team u
  let k := s.lead tm.slice
  let held := s.bufops.countP fun b => b.uid == u && !b.spilled
  if (s.launch tm.launch).spilln * 32768 < s.spilledOf tm.launch + held then none
  else if !s.present (s.ctxBase k) (2 ^ 26) then none
  else lowestFit (s.ctxBase k) (s.areasOf k) (s.saveSize u)

/-! Restoring (R355 to R357, R68). -/

/-- A save area as it is read back. -/
structure Area where
  bytes : List Byte
  offs : List Nat

/-- A field of a part. -/
def Area.at_ (a : Area) (part off n : Nat) : Nat := bytesAt a.bytes ((if part = 0 then 256 else a.offs.getD (part - 1) 0) + off) n

/-- Sets a thread from its record. What a fault interrupted stays Kettle's own if its position is the one saved, and so does a wait
at PHASE or inside a macro, for which the area has no field (log 68). -/
def State.restoreThread (s : State) (a : Area) (u : Nat) (x : Nat × Thread) : State :=
  let t := x.1
  let p := a.at_ 0 (16 * t) 8
  let m := a.at_ 0 (16 * t + 8) 8
  let pos := p % 2 ^ 57
  let th := x.2
  let log := a.at_ 10 (256 * (t / 32) + 8 * (t % 32)) 8
  let meet := m % 2 ^ 57 / 4 * 4
  let w : Wait := if th.wait = .faulted ∨ (pos = th.pos ∧ (th.wait = .phase ∨ th.running.isSome)) then th.wait else .none
  let s := s.setThr u t
    { th with
      exited := pos == 0, pos := pos, meet := meet, wait := w, back := if pos = th.pos then th.back else none,
      frag := bits log 62 58, stamp := s.tick, sleep := false }
  let c := p / 2 ^ 57 + m / 2 ^ 57 * 128 + m % 4 * 2 ^ 14
  (List.range 4).foldl (fun s k => { s with cc := NMap.put s.cc (cckey u t k) (BitVec.ofNat 4 (c / 16 ^ k)) }) s

/-- A barrier from its 16 bytes and the arrival words. -/
def Area.bar (a : Area) (g b : Nat) (live : List Nat) (old : Bar) : Bar :=
  let cv := a.at_ 6 (16 * b + 12) 4
  let arr := (List.range (32 * g)).filter fun t => nbit (a.at_ 7 (64 * (t / 32) + 4 * b) 4) (t % 32) && live.contains t
  { old with
    phase := a.at_ 6 (16 * b) 2, arrived := arr, copies := a.at_ 6 (16 * b + 4) 4, last := toW (a.at_ 6 (16 * b + 8) 4),
    carve := if nbit cv 31 then some (bits cv 20 16, bits cv 27 24) else none }

/-- The barrier that a group waits at, with the register of its barrier word. -/
def barrierOf (l : List (Nat × Instr)) : Option (Nat × Nat) :=
  l.findSome? fun x => match x.2 with
    | .bar d n => some (n.toNat, d.toNat)
    | .barWait d n => some (n.toNat, d.toNat)
    | .carve d _ _ n => some (n.toNat, d.toNat)
    | _ => none

/-- A restored thread that stands at its meeting address is held; one that stands at a BAR, BAR.WAIT or CARVE group, with its
arrival bit set at the group's barrier, waits there (R357). A thread that waits already, or stands in a macro, is none. -/
def State.restoreWait (s : State) (u t : Nat) : State :=
  let th := s.thr u t
  if th.wait ≠ .none ∨ th.mwait ≠ .none ∨ th.running.isSome ∨ th.exited then s
  else if th.pos = th.meet then s.setThr u t { th with wait := .held }
  else
    match s.fetch u t (posPacket th.pos) with
    | (_, .error _) => s
    | (_, .ok line) =>
      match decodeAt (s.team u).nreg (fun _ => []) line th.pos with
      | .error _ => s
      | .ok (l, e) =>
        match barrierOf l with
        | none => s
        | some (b, d) =>
          if (s.bar u b).arrived.contains t then s.waitFor u t (posAfter (posPacket th.pos) e) (.barrier b d) else s

/-- The logged LDs of a gang with the addresses of their slots: a lane's slot belongs to the first that holds the lane. -/
def Area.logs (a : Area) (g : Nat) : List Nat → List OpLog → List OpLog
  | _, [] => []
  | seen, l :: ls =>
    let slot (lane : Nat) : Nat := a.at_ 10 (256 * g + 8 * lane) 8
    let mine := l.addrs.filterMap fun x =>
      if seen.contains x.1 then some x else if nbit (slot x.1) 63 then some (x.1, fullAddr (slot x.1 % 2 ^ 57)) else none
    let word := if seen.isEmpty then bits (slot 0) 57 57 + 2 * bits (slot 1) 57 57 else l.word
    { l with word := word, addrs := mine } :: a.logs g (seen ++ l.addrs.map (·.1)) ls

/-- Brings a saved team back: everything the save area holds is read from it, the rest from Kettle's and the units' own
state. `tm` is the team as placed. -/
def State.restoreTeam (s : State) (v : Saved) (tm : Team) : State :=
  let u := v.uid
  let g := tm.gangs
  let n := tm.nreg
  let a : Area := ⟨memBytes s.mem v.addr v.size, saveOffs g n tm.scr tm.acc (v.threads.countP fun x => x.2.trav.isSome)⟩
  let h (off k : Nat) : Nat := bytesAt a.bytes off k
  let tm := { tm with
    status := toW (h 56 4), fpctl := toW (h 60 4), skew0 := toW (h 64 4), skew1 := toW (h 68 4), area := toW (h 72 4),
    stage := h 40 1, lti := h 36 4, actld := a.at_ 11 0 8,
    mloads := (List.range 64).map fun k => (k, a.at_ 11 (8 + 8 * k) 8),
    smplds := (List.range 16).map fun k => (k, a.at_ 11 (520 + 8 * k) 8) }
  let s := v.threads.foldl (fun s x => s.restoreThread a u x) (s.setTeam u tm)
  let live := s.liveThreads u
  let s := (List.range 16).foldl (fun s b => s.setBar u b (a.bar g b live (s.bar u b))) s
  let s := (List.range 16).foldl (fun s c =>
    let ch := s.chan u c
    s.setChan u c { ch with wp := a.at_ 8 (64 * c) 8, err := nbit (a.at_ 8 (64 * c + 8) 4) 31 }) s
  let s := (List.range (g * n)).foldl (fun s k => (List.range 32).foldl (fun s l =>
    let t := 32 * (k / n) + l
    (s.putV u t (k % n) (toW (a.at_ 1 (4 * (32 * k + l)) 4))).setEmpty u t (k % n) (!nbit (a.at_ 2 (4 * k) 4) l)) s) s
  let s := (List.range (32 * g)).foldl (fun s k => s.putU u (k / 32) (k % 32) (toW (a.at_ 3 (4 * k) 4))) s
  let s := s.scrPuts u 0 ((a.bytes.drop (a.offs.getD 3 0)).take tm.scr)
  let s := (List.range tm.acc).foldl (fun s t =>
    { s with tiles := NMap.put s.tiles (tilekey u t) ((List.range 4096).map fun i => toW (a.at_ 5 (16384 * t + 4 * i) 4)) }) s
  let s := v.logs.foldl (fun s (x : Nat × List OpLog) => s.setLogs u x.1 (a.logs x.1 [] x.2)) s
  { s with routes := s.routes ++ v.routes.map fun (r : RouteOp) => { r with core := tm.core } }

/-- The waits of a restored team's threads, with their meetings and barriers tested (R357). -/
def State.restoreWaits (s : State) (u : Nat) : State :=
  let s := (s.liveThreads u).foldl (fun s t => s.restoreWait u t) s
  ((List.range (s.team u).gangs).foldl (fun s k => s.retestGang u k) s).retestBars u

/-- Performs a team's loads of images again (R355): the ACTLD, then the MLOADs, then the SMPLDs, in rising slot; an image that is not
valid leaves its slot unchanged. One that cannot be read suspends the load, with its entry (R358), and the team issues nothing
until that is answered (R171). -/
def State.replayLoads (s : State) (u : Nat) : State :=
  let tm := s.team u
  let one (s : State) (kind slot addr : Nat) : State :=
    if addr = 0 then s
    else
      let l : ImgLoad :=
        { kind := kind, core := tm.core, uid := u, slice := tm.slice, priv := tm.priv, gang := 0, lanes := [], d := 0,
          slot := slot, addr := addr, susp := true, replay := true }
      match s.engRead (l.ctx tm.launch) addr (imgBytes kind) with
      | (s, .ok bs) => s.finishImg l bs
      | (s, .error (x, a)) => State.suspend { s with imgs := s.imgs ++ [l] } (l.ctx tm.launch) x a false kind 0 slot
  let s := one s 1 0 tm.actld
  let s := (List.range 64).foldl (fun s k => one s 4 k (NMap.get 0 tm.mloads k)) s
  (List.range 16).foldl (fun s k => one s 2 k (NMap.get 0 tm.smplds k)) s

end Sys2Proof.Machine
end

