-- ==== Sys2Proof/Machine/Splat.lean ====
section
/-!
DEFINITION. Splat arithmetic (R243 to R247): SPROJ, SPLAT, BLEND, BLEND.BWD. TEAM.FPCTL does not apply.
-/

namespace Sys2Proof.Machine

/-- The value of an f32 word. -/
def val32 (x : Nat) : FVal := decodeF f32 x

/-- The numbers 255/256 and 2^−14. -/
def alphaMax : Nat := 0x3F7F0000
@[inherit_doc alphaMax] def tEnd : Nat := 0x38800000

/-- Is x below y, neither a NaN? -/
def lt32 (x y : Nat) : Bool := ltV (val32 x) (val32 y)

/-- Clamp (R243): +0 for a NaN, otherwise within 0 and 255/256. -/
def clamp32 (x : Nat) : Nat :=
  if isNan32 x ∨ !lt32 0 x then 0 else if lt32 alphaMax x then alphaMax else x

/-- The exact value 1 − x of a clamped x. -/
def oneMinus (x : Nat) : FVal :=
  let d := (Dy.mk 1 0).add (dy32 x).neg
  .fin (d.m < 0) d.m.natAbs d.e

/-- The key of SPROJ (R244). -/
def sprojKey (a b : Nat) : Nat :=
  let sd := if isNan32 b then 0xFFFFFFFF else if b = 0x80000000 then 0x80000000
    else if b < 2 ^ 31 then b + 2 ^ 31 else 2 ^ 32 - 1 - b
  if 2 ^ 24 ≤ a then 2 ^ 64 - 1 else a * 2 ^ 40 + sd * 2 ^ 8

/-- SPROJ (R244). -/
def execSproj (d a b : VReg) (s : State) : Res :=
  .next (s.lanes fun s l => s.setP l d.toNat (sprojKey (s.rv l a.toNat).toNat (s.rv l b.toNat).toNat))

/-- The alpha of SPLAT (R245). -/
def splatAlpha (a b c o dx dy : Nat) : Nat :=
  if [a, b, c, o, dx, dy].any fun x => !isFinite32 x then 0
  else
    let q := (((dy32 a).mul ((dy32 dx).mul (dy32 dx))).add ((Dy.mk 2 0).mul ((dy32 b).mul ((dy32 dx).mul (dy32 dy))))).add
      ((dy32 c).mul ((dy32 dy).mul (dy32 dy)))
    if q.m < 0 then 0
    else
      let p := roundDy f32 0 ⟨-q.m, q.e - 1⟩ true
      let g := exp2V (val32 (fMul f32 0 false p 0x3FB8AA3B))
      let al := fMul f32 0 false (clamp32 o) g
      if lt32 al 0x3B800000 then 0 else if lt32 alphaMax al then alphaMax else al

/-- SPLAT (R245). -/
def execSplat (d a b : VReg) (s : State) : Res :=
  .next (s.lanes fun s l =>
    let x (r : VReg) (k : Nat) := (s.rv l (r.toNat + k)).toNat
    s.setV l d.toNat (toW (splatAlpha (x a 0) (x a 1) (x a 2) (x a 3) (x b 0) (x b 1))))

/-- BLEND of one lane (R246): the colour sums and transmittance after it, and whether the lane contributed. -/
def blendStep (c : List Nat) (t : Nat) (col : List Nat) (alpha : Nat) : List Nat × Nat × Bool :=
  let al := clamp32 alpha
  if lt32 t tEnd ∨ al = 0 ∨ isNan32 t then (c, t, false)
  else
    let w := fMul f32 0 false al t
    (List.zipWith (fun c x => sumTerms f32 [val32 c, mulV (val32 w) (val32 x)]) c col,
      sumTerms f32 [mulV (val32 t) (oneMinus al)], true)

/-- BLEND (R246). -/
def execBlend (d a b : VReg) (s : State) : Res :=
  .next (s.lanes fun s l =>
    let x (r : VReg) (k : Nat) := (s.rv l (r.toNat + k)).toNat
    let (c, t, hit) := blendStep [x d 0, x d 1, x d 2] (x d 3) [x a 0, x a 1, x a 2] (x a 3)
    let s := if hit then ((c ++ [t]).zipIdx).foldl (fun s (w, k) => s.setV l (d.toNat + k) (toW w)) s else s
    s.setV l b.toNat (if hit then 1 else 0))

/-- BLEND.BWD of one lane (R247): the state T, H after it, and the gradients written. An alpha gradient that is exactly zero takes the sign
of the sum of its six products (log 34). -/
def blendBack (t : Nat) (h col : List Nat) (alpha : Nat) (g : List Nat) (contrib : Bool) : List Nat × List Nat :=
  let al := clamp32 alpha
  if !contrib ∨ al = 0 then (t :: h, [0, 0, 0, 0])
  else
    let om := oneMinus al
    let tb := match val32 t, om with
      | .fin n m e, .fin _ dm de =>
        let (p, q) := scaleBy m dm (de - e)
        roundQ f32 0 n p q
      | v, _ => roundV f32 0 v
    let w := fMul f32 0 false al tb
    let dc := g.map fun x => sumTerms f32 [mulV (val32 w) (val32 x)]
    let terms := (List.zipWith (fun x (p : Nat × Nat) =>
      let y := mulV (val32 tb) (val32 x)
      [mulV y (val32 p.1), mulV y (val32 p.2).negate]) g (col.zip h)).flatten
    let h' := List.zipWith (fun c x => sumTerms f32 [mulV (val32 al) (val32 c), mulV om (val32 x)]) col h
    (tb :: h', dc ++ [sumTerms f32 terms])

/-- BLEND.BWD (R247). -/
def execBlendBwd (d a b : VReg) (s : State) : Res :=
  .next (s.lanes fun s l =>
    let x (r : VReg) (k : Nat) := (s.rv l (r.toNat + k)).toNat
    let (st, gr) := blendBack (x d 0) [x d 1, x d 2, x d 3] [x a 0, x a 1, x a 2] (x a 3) [x b 0, x b 1, x b 2] (x b 3 != 0)
    let s := (st.zipIdx).foldl (fun s (w, k) => s.setV l (d.toNat + k) (toW w)) s
    (gr.zipIdx).foldl (fun s (w, k) => s.setV l (a.toNat + k) (toW w)) s)

end Sys2Proof.Machine
end

