-- ==== Sys2Proof/Machine/Trace.lean ====
section
/-!
DEFINITION. Ray traversal: TRACE and TRRES (R252 to R254), the hierarchy and the hit (R330 to R336), hit records (R253,
R337) and node errors (R338).
-/

namespace Sys2Proof.Machine

/-! Exact geometry. -/

/-- x / y rounded to f32 in a mode; an exact zero is +0. -/
def quot32 (mode : Nat) (x y : Dy) : Nat :=
  if x.m = 0 then 0
  else
    let (p, q) := scaleBy x.m.natAbs y.m.natAbs (y.e - x.e)
    roundQ f32 mode ((x.m < 0) != (y.m < 0)) p q

/-- The greatest, or least, of f32 words, from a first value. -/
def maxOf (x : Nat) (xs : List Nat) : Nat := xs.foldl (fun a b => if lt32 a b then b else a) x
@[inherit_doc maxOf] def minOf (x : Nat) (xs : List Nat) : Nat := xs.foldl (fun a b => if lt32 b a then b else a) x

/-- A vector of three f32 words as exact values. -/
def dys (xs : List Word) : List Dy := xs.map fun x => dy32 x.toNat

/-- The exact cross product, difference and dot product. -/
def crossDy (a b : List Dy) : List Dy :=
  let g (v : List Dy) (k : Nat) := v.getD k ⟨0, 0⟩
  let h (i j : Nat) := ((g a i).mul (g b j)).add ((g a j).mul (g b i)).neg
  [h 1 2, h 2 0, h 0 1]
@[inherit_doc crossDy] def subDy (a b : List Dy) : List Dy := List.zipWith (fun x y => x.add y.neg) a b
@[inherit_doc crossDy] def dotDy (a b : List Dy) : Dy := (List.zipWith Dy.mul a b).foldl Dy.add ⟨0, 0⟩

/-- The exact triangle test (R332): the determinant and the numerators of t, u and v; none for a miss. -/
def triTest (o d v0 v1 v2 : List Dy) : Option (Dy × Dy × Dy × Dy) :=
  let e1 := subDy v1 v0
  let e2 := subDy v2 v0
  let r := subDy o v0
  let pv := crossDy d e2
  let qv := crossDy r e1
  let det := dotDy e1 pv
  let un := dotDy r pv
  let vn := dotDy d qv
  let tn := dotDy e2 qv
  let sg (x : Dy) : Dy := if det.m < 0 then x.neg else x
  if det.m = 0 ∨ (sg un).m < 0 ∨ (sg vn).m < 0 ∨ (sg det).lt ((sg un).add (sg vn)) then none else some (det, tn, un, vn)

/-- A decompressed bound (R330): none where it is not finite. -/
def boundAt (org : Nat) (q : Nat) (ex : Int) (mode : Nat) : Option Nat :=
  if !isFinite32 org then none
  else
    let b := roundDy f32 mode ((dy32 org).add ⟨q, ex⟩) false
    if isFinite32 b then some b else none

/-- The slab distances of one axis: near rounded RDN, far RUP (R332); none for a miss. -/
def slab (o d lo hi : Nat) : Option (Nat × Nat) :=
  if (dy32 d).m = 0 then (if lt32 o lo ∨ lt32 hi o then none else some (0xFF800000, 0x7F800000))
  else
    let (a, b) := if (dy32 d).m < 0 then (hi, lo) else (lo, hi)
    let f (m x : Nat) := quot32 m ((dy32 x).add (dy32 o).neg) (dy32 d)
    some (f 2 a, f 3 b)

/-- The near distance of a box, if the box is entered (R332). -/
def boxNear (org dir : List Word) (lo hi : List (Option Nat)) (tmin lim : Nat) : Option Nat :=
  let ax := (List.range 3).map fun k =>
    match lo.getD k none, hi.getD k none with
    | some l, some h => slab (org.getD k 0).toNat (dir.getD k 0).toNat l h
    | _, _ => none
  if ax.any (·.isNone) then none
  else
    let ns := ax.filterMap fun x => x.map (·.1)
    let fs := ax.filterMap fun x => x.map (·.2)
    let n := maxOf 0xFF800000 ns
    let f := minOf 0x7F800000 fs
    if lt32 f n ∨ lt32 f tmin ∨ lt32 lim n then none else some n

/-! Nodes. -/

/-- A child of an interior node: kind, address, triangles, bounds. -/
structure Child where
  kind : Nat
  addr : Nat
  cnt : Nat
  lo : List (Option Nat)
  hi : List (Option Nat)

/-- Child k of an interior node. -/
def childOf (b : List Byte) (k : Nat) : Child :=
  let org (a : Nat) := bytesAt b (4 * a) 4
  let ex (a : Nat) := sext (bytesAt b (12 + a) 1) 8
  let q (i : Nat) := bytesAt b (16 + 12 * k + 2 * i) 2
  let p := bytesAt b (40 + 8 * k) 8
  { kind := bits (bytesAt b 15 1) (2 * k + 1) (2 * k), addr := fullAddr (p % 2 ^ 57), cnt := bits p 63 58 + 1,
    lo := (List.range 3).map fun a => boundAt (org a) (q a) (ex a) 2,
    hi := (List.range 3).map fun a => boundAt (org a) (q (3 + a)) (ex a) 3 }

/-- Is an interior node well formed (R331)? `top` says that it lies in the top level. -/
def interiorOk (b : List Byte) (top : Bool) : Bool :=
  bits (bytesAt b 15 1) 7 4 == 0 && bytesAt b 56 8 == 0
  && (List.range 2).all fun k =>
    let p := bytesAt b (40 + 8 * k) 8
    let kind := bits (bytesAt b 15 1) (2 * k + 1) (2 * k)
    !nbit p 57 && (kind == 1 || bits p 63 58 == 0)
    && (match kind with
      | 0 => p % 64 == 0
      | 1 => p % 16 == 0 && !top
      | 2 => p % 64 == 0 && top
      | _ => true)

/-- The ray as the node's level sees it. -/
def Trav.ray (v : Trav) (n : TNode) : List Word × List Word :=
  match n.inst with
  | some i => (i.org, i.dir)
  | none => (v.org, v.dir)

/-- The entered children of an interior node, in the order of R332. -/
def Trav.entered (v : Trav) (n : TNode) (b : List Byte) : List TNode :=
  let (o, d) := v.ray n
  let go (k : Nat) : Option TNode :=
    let c := childOf b k
    if c.kind = 3 then none
    else (boxNear o d c.lo c.hi v.tmin.toNat v.lim.toNat).map fun near =>
      { kind := c.kind, addr := c.addr, cnt := c.cnt, level := n.level + 1, near := toW near, inst := n.inst }
  match go 0, go 1 with
  | some a, some b => if lt32 b.near.toNat a.near.toNat then [b, a] else [a, b]
  | some a, none => [a]
  | none, some b => [b]
  | none, none => []

/-- An instance record entered by a ray (R332): none where it is not entered. -/
def Trav.enter (v : Trav) (n : TNode) (b : List Byte) : Option TNode :=
  let m (r c : Nat) := bytesAt b (16 * r + 4 * c) 4
  let x := (List.range 12).map fun k => bytesAt b (4 * k) 4
  let row (last : Bool) (p : List Word) (r : Nat) : Nat :=
    sumTerms f32 (((List.range 3).map fun c => mulV (val32 (m r c)) (val32 (p.getD c 0).toNat))
      ++ if last then [val32 (m r 3)] else [])
  let o := (List.range 3).map (row true v.org)
  let d := (List.range 3).map (row false v.dir)
  if v.mask &&& bytesAt b 62 1 = 0 ∨ !x.all isFinite32 ∨ !(o ++ d).all isFinite32 then none
  else some
    { kind := 0, addr := fullAddr (bytesAt b 48 8), cnt := 1, level := n.level + 1, near := n.near,
      inst := some { id := toW (bytesAt b 56 4), shader := bytesAt b 60 2, addr := n.addr, flags := bytesAt b 63 1,
                     org := o.map toW, dir := d.map toW } }

/-- Is a hit nearer by the order of R333? -/
def Hit.before (x y : Hit) : Bool :=
  if lt32 x.t.toNat y.t.toNat then true
  else if lt32 y.t.toNat x.t.toNat then false
  else if x.instIx ≠ y.instIx then x.instIx.toNat < y.instIx.toNat
  else if x.geom ≠ y.geom then x.geom.toNat < y.geom.toNat
  else if x.prim ≠ y.prim then x.prim.toNat < y.prim.toNat
  else x.addr < y.addr

/-- One triangle record tested (R332, R333): the hit, if accepted. -/
def Trav.tri (v : Trav) (n : TNode) (r : List Byte) : Option Hit :=
  let (o, d) := v.ray n
  let w := (List.range 9).map fun k => bytesAt r (4 * k) 4
  let flags := (n.inst.map (·.flags)).getD 0
  if !w.all isFinite32 then none
  else
    let p := w.map dy32
    match triTest (dys o) (dys d) (p.take 3) ((p.drop 3).take 3) (p.drop 6) with
    | none => none
    | some (det, tn, un, vn) =>
      let back := (det.m < 0 : Bool) != nbit flags 1
      let t := quot32 0 tn det
      if (v.cullb && back && !nbit flags 0) || lt32 t v.tmin.toNat || lt32 v.lim.toNat t then none
      else some
        { t := toW t, prim := toW (bytesAt r 36 4), geom := toW (bytesAt r 40 4), instIx := (n.inst.map (·.id)).getD 0,
          u := toW (quot32 0 un det), v := toW (quot32 0 vn det), shader := (n.inst.map (·.shader)).getD 0,
          addr := (n.inst.map (·.addr)).getD 0 }

/-- The triangles of a leaf in order; the second part says that FIRST ends the traversal. -/
def Trav.leaf (v : Trav) (n : TNode) : List (List Byte) → Trav × Bool
  | [] => (v, false)
  | r :: rs =>
    match v.tri n r with
    | none => v.leaf n rs
    | some h =>
      let better : Bool := match v.best with | some b => h.before b | none => true
      let v := { v with best := if better then some h else v.best, lim := h.t }
      if v.first then (v, true) else v.leaf n rs

/-- A deferred child on the short stack of 8; a full stack drops its oldest entry, of which the level is kept (R334). -/
def Trav.push (v : Trav) (n : TNode) : Trav :=
  let st := n :: v.stack
  { v with stack := st.take 8, drops := (st.drop 8).map (·.level) ++ v.drops }

/-- The top-level root. -/
def Trav.top (v : Trav) : TNode := { kind := 0, addr := v.root, cnt := 1, level := 1, near := 0xFF800000, inst := none }

/-- The next node: from the stack or, when dropped entries remain, the root, from which the traversal descends to the newest of them
again; the trail notes that the first child at that level is finished (R334). -/
def Trav.next (v : Trav) : Trav :=
  let mark (l : Nat) : Nat := v.trail % 2 ^ (l - 2) + 2 ^ (l - 2)
  match v.stack, v.drops with
  | n :: st, _ => { v with cur := some n, stack := st, trail := mark n.level }
  | [], l :: ls => { v with cur := some v.top, drops := ls, trail := mark l, redo := l }
  | [], [] => { v with cur := none }

/-- The end of the search: nothing is left to visit. -/
def Trav.finish (v : Trav) : Trav := { v with cur := none, stack := [], drops := [], redo := 0 }

/-- One level of a restart (R334): the second child where the trail's bit is set, else the first; instances are entered again. The
children stand in their order whatever the current tmax. -/
def Trav.descend (v : Trav) (n : TNode) (b : List Byte) : Trav :=
  let child : Option TNode := match n.kind with
    | 0 => (Trav.entered { v with lim := 0x7F800000 } n b)[if nbit v.trail (n.level - 1) then 1 else 0]?
    | 2 => v.enter n b
    | _ => none
  match child with
  | some a => { v with cur := some a, redo := if v.redo ≤ a.level then 0 else v.redo }
  | none => Trav.next { v with redo := 0 }

/-! Fetching nodes. -/

/-- The register TRAV.NODEUE of a core after one more node error (R338). -/
def nodeUeNext (r addr : Nat) : Nat :=
  let r := if nbit r 63 then r else 2 ^ 63 + bits addr 56 6 * 64
  r - r % 64 + min 63 (r % 64 + 1)

/-- A node fetch that met an uncorrectable error at an address: the cache line there is fenced on the core, TRAV.NODEUE records the
node, NODE_UE is reported (R338, R358). -/
def State.nodeUe (s : State) (u addr at_ : Nat) : State :=
  let tm := s.team u
  let s := { s with nodeFences := s.nodeFences ++ [(tm.core, at_ / 64)] }
  let s := s.setSys 0x38 tm.core (nodeUeNext (s.sysr 0x38 tm.core) addr)
  s.report tm.slice { kind := 5, launch := tm.launch, detail := causeOnly .nodeUe, addr := addr }

/-- The bytes of a node: an interior node or an instance record has 64, a leaf 48 a triangle. -/
def TNode.size (n : TNode) : Nat := if n.kind = 1 then 48 * n.cnt else 64

/-- Does a fence of the core cover a node (R338)? -/
def State.nodeFenced (s : State) (core : Nat) (n : TNode) : Bool :=
  s.nodeFences.any fun f => f.1 == core && n.addr / 64 ≤ f.2 && f.2 ≤ (n.addr + n.size - 1) / 64

/-- The copy of a node in the core's node cache; a free choice says whether it has been evicted (R335). -/
def State.cachedNode (s : State) (u : Nat) (n : TNode) : Option (List Byte) :=
  if Config.freeWord s.tick % 2 = 0 then none
  else
    (s.nodeCache.find? fun l => l.core == (s.team u).core && l.uid == u && l.addr == n.addr && l.data.length == n.size).map (·.data)

/-- Bytes that a core's node cache holds. -/
def nodeBytes (core : Nat) (ls : List NodeLine) : Nat := (ls.map fun l => if l.core = core then l.data.length else 0).sum

/-- The oldest nodes of a core leave until its cache of 64 KiB holds the others (R14, R335). -/
def trimNodes (core : Nat) : List NodeLine → List NodeLine
  | [] => []
  | n :: ns => if n.core = core ∧ 65536 < nodeBytes core (n :: ns) then trimNodes core ns else n :: trimNodes core ns

/-- Holds a node in the core's node cache. -/
def State.cacheNode (s : State) (u addr : Nat) (b : List Byte) : State :=
  let core := (s.team u).core
  let rest := s.nodeCache.filter fun n => !(n.core == core && n.uid == u && n.addr == addr)
  { s with nodeCache := trimNodes core (rest ++ [NodeLine.mk core u addr b]) }

/-- The child-pointer prefetcher fetches both entered children; what it meets is dropped (R335). -/
def State.prefetchNodes (s : State) (c : Ctx) (ns : List TNode) : State :=
  if ns.length < 2 then s
  else ns.foldl (fun s n =>
    match s.engRead c n.addr n.size with
    | (s', .ok b) => s'.cacheNode c.uid n.addr b
    | _ => s) s

/-! Completion. -/

/-- An atomic add of 1 at package scope to a counter of a shader table; one that faults is dropped (R253). -/
def State.bumpTable (s : State) (c : Ctx) (va : Nat) : State :=
  match s.engXlat c .write va with
  | .error _ => s
  | .ok e => if va % 8 ≠ 0 then s else (s.performLocal c.core c.uid 0 (.atom .add 2) e va 8 1 0 7).1

/-- A poisoned line of a shader table is a contained error (R253). -/
def State.tableUe (s : State) (c : Ctx) (x : Cause) (va : Nat) : State :=
  if x = .memUe then s.report c.slice { kind := 5, launch := c.launch, detail := causeOnly .memUe, addr := va } else s

/-- The hit record along an edge (R189, R253, R337): the team's writes go with it, and it is in memory when this is done. -/
def State.emitHit (s : State) (u t edge : Nat) (v : Trav) (h : Hit) : State :=
  let tm := s.team u
  let ln := s.launch tm.launch
  let e := ln.edges.getD edge ⟨0, 0, 0⟩
  let nd := ln.nodes.getD e.dst {}
  let pay := ofWords [h.t, h.prim, h.instIx, v.user]
  let r : RecArr :=
    { uid := u, launch := tm.launch, node := e.dst, rcd := ⟨mkHdr 2 nd.stage 0 0 nd.idem nd.code, BitVec.ofNat 128 pay⟩,
      plti := tm.lti, seq := v.seq, t := t, d := none }
  ((s.publish tm.core 7 u t).setTeam u
    { tm with acted := true, emitted := NMap.put tm.emitted edge (NMap.get 0 tm.emitted edge + 1) }).arriveRec r

/-- May team u emit one record along an edge (R190)? -/
def State.edgeFree (s : State) (u edge : Nat) : Bool :=
  let tm := s.team u
  let ln := s.launch tm.launch
  ln.hasGraph && match ln.edges[edge]? with
    | some e => e.src == tm.node && NMap.get 0 tm.emitted edge + 1 ≤ e.maxEmit
    | none => false

/-- What a hit with EMIT does (R253): the status bits it sets. -/
def State.shade (s : State) (u t : Nat) (v : Trav) (h : Hit) : State × Nat :=
  let c := s.ctxOf u v.priv
  match s.engRead c v.table 8 with
  | (s, .error (x, a)) => (s.tableUe c x a, 32)
  | (s, .ok hd) =>
    let ix := h.shader + v.rtype
    let tm := s.team u
    let past : Bool := bytesAt hd 0 4 ≤ ix
    let s := if past then s.setTeam u { tm with status := tm.status ||| 0x20000000 } else s
    let rg := if past then 16 else 0
    let r : State × Except (Cause × Nat) Nat :=
      if past then (s, .ok (bytesAt hd 4 4))
      else match s.engRead c (v.table + 32 + 4 * ix) 4 with
        | (s, .ok b) => (s, .ok (ofBytes b))
        | (s, .error x) => (s, .error x)
    match r with
    | (s, .error (x, a)) => ((s.tableUe c x a).bumpTable c (v.table + 16), rg + 32)
    | (s, .ok e) =>
      if e = 0xFFFFFFFF then (s.bumpTable c (v.table + 8), rg + 8)
      else if e < 1024 && s.edgeFree u e then (s.emitHit u t e v h, rg + 4)
      else (s.bumpTable c (v.table + 16), rg + 32)

/-- A traversal completes: its record, if any, then its results (R253, R254, R337). -/
def State.doneTrav (s : State) (u t : Nat) (v : Trav) : State :=
  let (s, r) : State × TravRes := match v.best with
    | none => (s, {})
    | some h =>
      let (s, fl) := if v.emit then s.shade u t v h else (s, 0)
      (s, { t := h.t, prim := h.prim, instIx := h.instIx, geom := h.geom, u := h.u, v := h.v, status := toW (1 + fl) })
  (s.endTrav u t r).engineDone u

/-- A poisoned traversal (R254, R338). -/
def State.poisonTrav (s : State) (u t : Nat) : State :=
  (s.endTrav u t { t := 0x7FC00000, status := 2 }).engineDone u

/-- A traversal meets a fault or a malformed node: it waits for a TRRES to report it. Where a TRRES waits already, which reports
nothing more, it comes to the hit that it was found to come to when that TRRES issued (log 25). A thread that has exited
drops it (R331). -/
def State.stopTrav (s : State) (u t : Nat) (v : Trav) (c : Cause) (addr : Nat) : State :=
  let th := s.thr u t
  if th.exited then (s.setThr u t { th with trav := none }).engineDone u
  else if th.trw = [] then s.setThr u t { th with trav := some { v with fault := some (c, addr), told := false } }
  else match v.sure with
    | some best => s.doneTrav u t { v with best := best }
    | none => s.poisonTrav u t

/-- A node's bytes, or what stopped its fetch. -/
def State.fetchNode (s : State) (c : Ctx) (n : TNode) : State × Except (Cause × Nat) (List Byte) :=
  match s.cachedNode c.uid n with
  | some b => (s, .ok b)
  | none => s.engRead c n.addr n.size

/-- Is a fetched node malformed (R331)? -/
def nodeBad (n : TNode) (b : List Byte) : Bool :=
  match n.kind with
  | 0 => !interiorOk b n.inst.isNone
  | 1 => (List.range n.cnt).any fun k => bytesAt b (48 * k + 44) 4 != 0
  | _ => bits (bytesAt b 63 1) 7 2 != 0 || bytesAt b 48 8 % 64 != 0 || 2 ^ 57 ≤ bytesAt b 48 8

/-- What a well-formed node does to a traversal. -/
def Trav.step (v : Trav) (n : TNode) (b : List Byte) : Trav :=
  if v.redo ≠ 0 then v.descend n b
  else
    match n.kind with
    | 0 =>
      match v.entered n b with
      | a :: rest => { rest.foldl Trav.push v with cur := some a }
      | [] => v.next
    | 1 =>
      match v.leaf n ((List.range n.cnt).map fun k => (b.drop (48 * k)).take 48) with
      | (v, true) => v.finish
      | (v, false) => v.next
    | _ =>
      match v.enter n b with
      | some a => { v with cur := some a }
      | none => v.next

/-- One node visit of a traversal. A deferred child is tested again against the current tmax; the nodes on the way of a restart are
not (R334). -/
def State.visitNode (s : State) (u t : Nat) (v : Trav) : State :=
  let put (s : State) (v : Trav) : State := s.setThr u t { s.thr u t with trav := some v }
  match v.cur with
  | none => s.doneTrav u t v
  | some n =>
    let c := s.ctxOf u v.priv
    if v.redo = 0 ∧ lt32 v.lim.toNat n.near.toNat then put s v.next
    else if 64 < n.level ∨ (n.level = 1 ∧ v.root % 64 ≠ 0) then s.stopTrav u t v .illegalField n.addr
    else if s.nodeFenced c.core n then s.poisonTrav u t
    else
      match s.fetchNode c n with
      | (s, .error (.memUe, a)) => (s.nodeUe u n.addr a).poisonTrav u t
      | (s, .error (x, _)) => s.stopTrav u t v x n.addr
      | (s, .ok b) =>
        if nodeBad n b then s.stopTrav u t v .illegalField n.addr
        else
          let s := s.cacheNode u n.addr b
          let s := if n.kind = 0 ∧ v.redo = 0 then s.prefetchNodes c (v.entered n b) else s
          put s (v.step n b)

/-- EVENT TRAVERSAL_NODE_VISIT (R65, R332 to R338): a thread's traversal visits its next node, or completes, unless its team has been
stopped. -/
def execTraversalNodeVisit (u t : Nat) (s : State) : Res :=
  match (s.thr u t).trav with
  | some v => .next (if v.fault.isNone && !s.halted u then s.visitNode u t v else s)
  | none => .next s

/-! Issue. -/

/-- Does a ray miss without a fetch (R332)? -/
def Trav.misses (v : Trav) : Bool :=
  (v.org ++ v.dir).any (fun x => !isFinite32 x.toNat) || isNan32 v.tmax.toNat || isNan32 v.tmin.toNat
  || lt32 v.tmax.toNat v.tmin.toNat

/-- Does an earlier traversal of a thread keep TRACE waiting (R252)? One that ended at a malformed node does not. -/
def State.travBusy (s : State) (u t : Nat) : Bool :=
  match (s.thr u t).trav with
  | some v => match v.fault with | some (.illegalField, _) => false | _ => true
  | none => false

/-- Starts the traversal of one lane. -/
def State.startTrav (s : State) (a : VReg) (w : TraceW) (b : List Byte) (l : Nat) : State :=
  let r (k : Nat) := s.rv l (a.toNat + k)
  let tm := s.cur
  let v : Trav :=
    { org := [r 0, r 1, r 2], user := r 3, dir := [r 4, r 5, r 6], tmax := r 7, tmin := toW (bytesAt b 16 4),
      root := bytesAt b 0 8, table := bytesAt b 8 8, priv := s.privL l, emit := w.emit, cullb := w.cullb, first := w.first,
      rtype := w.rtype.toNat, mask := w.mask.toNat, seq := tm.emSeq, lim := r 7, cur := none, stack := [], drops := [],
      trail := 0, redo := 0, best := none, fault := none, told := false, sure := none }
  let v := { v with cur := if v.misses then none else some v.top }
  let s := s.setTeam s.iss.uid { tm with emSeq := tm.emSeq + 1 }
  s.setThL l { s.thL l with trav := some v, trw := [], tres := {} }

/-- TRACE (R252). -/
def execTrace (a : VReg) (b : UReg) (w : TraceW) (s : State) : Res :=
  if s.iss.lanes.any fun l => s.travBusy s.iss.uid (s.tOf l) then stall s
  else
    match s.descCheck s.low (s.rup b.toNat) none with
    | (_, .error t) => raise t s
    | (s1, .ok bs) =>
      if bytesAt bs 20 44 ≠ 0 then raise (s.trapLow .illegalField 0 0) s
      else .next (s1.lanes fun s l => s.startTrav a w bs l)

/-- The fault of a lane's traversal that no TRRES has reported. -/
def State.newTravFault (s : State) (l : Nat) : Option Trap :=
  match (s.thL l).trav with
  | some v => match v.fault with
    | some (c, ad) => if v.told then none else some { cause := c, lane := l, addr := ad }
    | none => none
  | none => none

/-- More visits than any traversal makes: no path is more than 64 nodes deep, and no node has more than 16 children (R330, R331). -/
def travFuel : Nat := 16 ^ 80

/-- A thread's traversal taken on by itself until nothing is left to visit, at most `fuel` visits. -/
def State.runTrav : Nat → Nat → Nat → State → State
  | 0, _, _, s => s
  | fuel + 1, u, t, s =>
    match (s.thr u t).trav with
    | some v => if v.fault.isNone ∧ v.cur.isSome then State.runTrav fuel u t (s.visitNode u t v) else s
    | none => s

/-- The state in which the traversals of the issue's lanes, those whose fault a TRRES has told among them, have gone on until each
has ended or stopped. -/
def State.travAhead (s : State) : State := s.lanes fun s l =>
  let u := s.iss.uid
  let t := s.tOf l
  let told : Bool := match (s.thr u t).trav with | some v => v.told | none => false
  State.runTrav travFuel u t (if told then s.replayTrav u t else s)

/-- Has a lane's traversal something left to visit? -/
def State.travLeft (s : State) (l : Nat) : Bool :=
  match (s.thL l).trav with
  | some v => v.cur.isSome && v.fault.isNone
  | none => false

/-- One lane of a TRRES: its registers await the traversal, of which the state ahead, `s'`, says what it comes to; where an earlier TRRES
still waits, what that one found stands if the traversal would now stop. A thread without a traversal has its results already. -/
def State.awaitTrav (s s' : State) (d : VReg) (sel : Bool) (l : Nat) : State :=
  let u := s.iss.uid
  let t := s.tOf l
  let s := s.replayTrav u t
  let th := s.thL l
  let s := s.setThL l { th with trw := th.trw ++ [(d.toNat, sel)] }
  match th.trav with
  | some v =>
    let sure := match (s'.thL l).trav with | some w => some w.best | none => v.sure
    s.setThL l { s.thL l with trav := some { v with sure := sure } }
  | none => s.endTrav u t th.tres

/-- TRRES (R254, R331): reports the faults of its lanes' traversals with one trap, or marks its registers empty; they are
filled when each thread's own traversal completes. The trap is precise, so a traversal that would stop is taken to have stopped
before the TRRES issues, and one whose end cannot be told yet keeps the TRRES waiting (log 25). -/
def execTrres (d : VReg) (sel : Bool) (s : State) : Res :=
  let s' := s.travAhead
  match s'.iss.lanes.findSome? s'.newTravFault with
  | some tr =>
    raise tr (s'.lanes fun s l =>
      let th := s.thL l
      match th.trav with
      | some v => if v.fault.isSome then s.setThL l { th with trav := some { v with told := true } } else s
      | none => s)
  | none =>
    if s.iss.lanes.any s'.travLeft then stall s
    else .next ((s.markEmpty d.toNat 4).lanes fun s l => s.awaitTrav s' d sel l)

/-- A write to a core's TRAV.NODEUE (R338): V written as 1 is cleared and lifts the core's fences. -/
def State.writeNodeue (s : State) (core v : Nat) : State :=
  if nbit v 63 then
    let r := s.sysr 0x38 core
    { s.setSys 0x38 core (bits r 56 6 * 64) with nodeFences := s.nodeFences.filter fun f => f.1 != core }
  else s

/-- EVENT TRAV_NODEUE_CLEAR (R338). -/
def execTravNodeueClear (core : Nat) (v : BitVec 64) (s : State) : Res :=
  .next (if core < 192 ∧ !s.recovery then s.writeNodeue core v.toNat else s)

end Sys2Proof.Machine
end

