-- ==== Sys2Proof/Machine/Kettle.lean ====
section
/-!
DEFINITION. Kettle's choice and placement of teams (R39 to R43, R56, R58 to R60), phases of deterministic launches (R62,
R63, R188), and the waiting time of launches.
-/

namespace Sys2Proof.Machine

/-! Room on a core (R29, R43, R87). -/

/-- The teams on a core but for those named. -/
def State.teamsBut (s : State) (c : Nat) (gone : List Nat) : List Team :=
  (s.teams.filter fun e => e.2.live && e.2.core == c && !gone.contains e.1).map (·.2)

/-- Gangs that teams have on a quarter. -/
def gangsOn (ts : List Team) (q : Nat) : Nat :=
  (ts.map fun t => (List.range t.gangs).countP fun g => (t.q0 + g) % 4 == q).sum

/-- The quarter with the fewest gangs; ties to the lower (R29). -/
def quarterOf (ts : List Team) : Nat :=
  (List.range 4).foldl (fun b q => if gangsOn ts q < gangsOn ts b then q else b) 0

/-- What a team takes: gangs, granules of registers and scratchpad, L1 granules, tiles. -/
abbrev Need := Nat × Nat × Nat × Nat

/-- The need of a node's team, and of a saved team. -/
def GNode.need (nd : GNode) : Need := ((nd.threads + 31) / 32, nd.regg + nd.scrg, nd.l1g, nd.acc)
@[inherit_doc GNode.need] def Team.need (tm : Team) : Need := (tm.gangs, tm.regg + tm.scrg, tm.l1g, tm.acc)

/-- Does a team fit beside others on a core (R43)? -/
def fitsWith (ts : List Team) (n : Need) : Bool :=
  let g := n.1
  let q0 := quarterOf ts
  ts.length < 16 && (ts.map Team.gangs).sum + g ≤ 64
  && (List.range 4).all (fun q => gangsOn ts q + (List.range g).countP (fun k => (q0 + k) % 4 == q) ≤ 16)
  && (ts.map fun t => t.regg + t.scrg).sum + n.2.1 + max 2 ((ts.map fun t => t.l1g).sum + n.2.2.1) ≤ 24
  && (ts.map fun t => t.acc).sum + n.2.2.2 ≤ 16

/-- Free granules of a core (R43, R60). -/
def freeGranules (ts : List Team) : Nat := 24 - (ts.map fun t => t.regg + t.scrg).sum - max 2 (ts.map fun t => t.l1g).sum

/-- The core of a slice with the most free granules that a team fits; ties to the lower core (R60). -/
def State.coreFor (s : State) (k : Nat) (n : Need) : Option Nat :=
  ((s.coresOf k).filter fun c => fitsWith (s.teamsOn c) n).foldl (fun b c =>
    match b with
    | none => some c
    | some d => if freeGranules (s.teamsOn d) < freeGranules (s.teamsOn c) then some c else some d) none

/-- The lowest free team slot of a core (R43). -/
def State.freeTeamSlot (s : State) (c : Nat) : Nat :=
  ((List.range 16).find? fun k => !((s.teamsOn c).any fun t => t.slot == k)).getD 0

/-! Records of node queues (R39, R41, R55, R63). -/

/-- The JOIN counter of a queued record; none where it cannot be read. -/
def State.recJoin (s : State) (l : Nat) (nd : GNode) (slot : Nat) : Option Nat :=
  match (s.kRead l (slotAddr nd slot + 8) 8).2 with
  | .ok bs => some (bits (ofBytes bs) 56 45)
  | .error _ => none

/-- Is a record poppable? One that cannot be read is, so that it is reported. -/
def State.poppable (s : State) (l : Nat) (nd : GNode) (slot : Nat) : Bool := (s.recJoin l nd slot).getD 0 == 0

/-- The slots of the next batch of a node: in a deterministic phase the first fixed batch whose records are all poppable,
with its index; else the next poppable records in queue order. -/
def State.nextBatch (s : State) (l node : Nat) : List Nat × Nat :=
  let ln := s.launch l
  let nd := ln.nodes.getD node {}
  if ln.det then
    match (ln.phTeams.filter fun p => p.node == node).find? fun p => p.slots.all fun k => s.poppable l nd k with
    | some p => (p.slots, p.lti)
    | none => ([], 0)
  else (((nd.queue.filter fun q => s.poppable l nd q.slot).take nd.batch).map (·.slot), 0)

/-- Takes records out of a queue. -/
def State.dropRecs (s : State) (l node : Nat) (slots : List Nat) : State :=
  let ln := s.launch l
  let nd := ln.nodes.getD node {}
  let s := s.setLaunch l { ln with phTeams := ln.phTeams.filter fun p => !(p.node == node && p.slots == slots) }
  s.setNode l node { nd with queue := nd.queue.filter fun q => !slots.contains q.slot }

/-- The record in a slot; none where it cannot be read. -/
def State.queuedRec (s : State) (l : Nat) (nd : GNode) (slot : Nat) : Except Cause Rec :=
  match (s.kRead l (slotAddr nd slot) 32).2 with
  | .ok bs => .ok (recOf bs)
  | .error c => .error c

/-- Does a popped record pass R41? -/
def recOk (r : Rec) : Bool := !nbit r.hdr.toNat 127 && 2 ≤ hdrKind r.hdr && packetAddr (hdrCode r.hdr)

/-! Candidates (R59). -/

/-- A candidate: its launch; 0 a saved team, 1 a launch team, 2 a batch; the team's uid, `%team.lin` or the node; its sort
keys. -/
structure Cand where
  launch : Nat
  kind : Nat
  arg : Nat
  key : List Nat
  deriving DecidableEq, Repr

/-- Lists of keys in order. -/
def keysLe : List Nat → List Nat → Bool
  | [], _ => true
  | _ :: _, [] => false
  | a :: as, b :: bs => if a = b then keysLe as bs else a < b

/-- The effective priority of a launch (R59). -/
def State.effPrio (s : State) (l : Nat) : Nat :=
  let ln := s.launch l
  min 3 (s.sysr 0x19 (4 * ln.slice + ln.queue) % 4 + ln.wait)

/-- May a launch not start yet: an earlier launch of its queue has not, or, with SER, the previous one has not completed
(R48, R50)? -/
def State.mustWait (s : State) (l : Nat) : Bool :=
  let ln := s.launch l
  let before := s.launches.filter fun e => e.1 < l && e.2.slice == ln.slice && e.2.queue == ln.queue
  ln.rank == 0 && (before.any (fun e => e.2.live && e.2.rank == 0)
    || (ln.ser && match before.getLast? with | some e => e.2.live | none => false))

/-- The candidates of a launch. The spec orders neither two node queues of one stage among themselves nor saved teams of one stage
that were started from records in a launch that is not deterministic: the model takes the lower node number, and the team saved
first (DESIGN CHOICE, log 63). -/
def State.candsOf (s : State) (l : Nat) : List Cand :=
  let ln := s.launch l
  let head := [3 - s.effPrio l, ln.rank, ln.queue, l]
  let saved := (s.saved.filter fun (v : Saved) => v.team.launch == l && v.team.open_.isEmpty).map fun v =>
    Cand.mk l 0 v.uid (head ++ [0, 15 - v.team.stage, 0, v.team.lti])
  let lin := ln.flushed.foldl min ln.started
  let mine := (!ln.det || ln.phase == ln.node0.stage) && lin < ln.ex * ln.ey * ln.ez
  let team := if mine then [Cand.mk l 1 lin (head ++ [1, 15 - ln.node0.stage, 0, lin])] else []
  let recs := (ln.nodes.zipIdx.drop 1).filterMap fun (nd, i) =>
    if (!ln.det || nd.stage == ln.phase) && !(s.nextBatch l i).1.isEmpty then
      some (Cand.mk l 2 i (head ++ [1, 15 - nd.stage, 1, i])) else none
  if !ln.live ∨ ln.dying.isSome ∨ s.mustWait l then [] else saved ++ team ++ recs

/-- The launches of a slice or slice group. -/
def State.launchesOf (s : State) (k : Nat) : List Nat :=
  (s.launches.filter fun e => e.2.live && s.lead e.2.slice == s.lead k).map (·.1)

/-- The candidates of a slice in the order of R59. -/
def State.cands (s : State) (k : Nat) : List Cand :=
  ((s.launchesOf k).flatMap s.candsOf).mergeSort fun a b => keysLe a.key b.key

/-- The need of a candidate. -/
def State.candNeed (s : State) (c : Cand) : Need :=
  let ln := s.launch c.launch
  match c.kind with
  | 0 => match s.saved.find? fun (v : Saved) => v.uid == c.arg with | some v => v.team.need | none => (0, 0, 0, 0)
  | 1 => ln.node0.need
  | _ => (ln.nodes.getD c.arg {}).need

/-- Are the slots that a node's team must reserve free (R56)? Edges into one queue count together. -/
def State.admits (s : State) (l node : Nat) : Bool :=
  let ln := s.launch l
  (ln.nodes.zipIdx).all fun (nd, i) =>
    let want := (ln.edges.map fun (e : GEdge) => if e.src = node ∧ e.dst = i then e.maxEmit else 0).sum
    want == 0 || nd.queue.length + nd.resv + want ≤ nd.qcap

/-- May a candidate be placed now (R43, R56)? -/
def State.placeable (s : State) (k : Nat) (c : Cand) : Bool :=
  (s.coreFor k (s.candNeed c)).isSome && (c.kind == 0 || s.admits c.launch (if c.kind = 1 then 0 else c.arg))

/-! Starting a team (R29, R39, R40). -/

/-- A launch's record of a placement: the rotation of R59, and its waiting time restarts. -/
def State.served (s : State) (l : Nat) : State :=
  let s := { s with rankNo := s.rankNo + 1 }
  s.setLaunch l { s.launch l with rank := s.rankNo, wait := 0 }

/-- Reserves the slots of a node's out-edges (R56). -/
def State.reserve (s : State) (l node : Nat) : State :=
  (s.launch l).edges.foldl (fun s (e : GEdge) => if e.src = node then s.addResv l e.dst fun r => r + e.maxEmit else s) s

/-- Starts a team on a core in the state of R40; lines leave the L1 that gives it granules (R43, R86). -/
def State.startTeam (s : State) (l node c lti : Nat) (nd : GNode) (recs : List Rec) (co : Nat × Nat × Nat) (lin : Nat) : State :=
  let ln := s.launch l
  let u := s.nextUid
  let r := recs.headD ⟨0, 0⟩
  let n := nd.threads
  let tm : Team :=
    { live := true, core := c, slot := s.freeTeamSlot c, q0 := quarterOf (s.teamsOn c), slice := ln.slice, launch := l, node := node,
      lti := lti, recs := recs, tx := co.1, ty := co.2.1, tz := co.2.2, tlin := lin, stage := hdrStage r.hdr, sx := nd.sx,
      sy := nd.sy, sz := nd.sz, n := n, nreg := roundN nd.nreg, regg := nd.regg, scrg := nd.scrg, l1g := nd.l1g, acc := nd.acc,
      scr := nd.scr, priv := ln.priv, det := ln.det, idem := hdrIdem r.hdr, lcoord := ln.lcoord, budget := nd.budget,
      since := s.tick }
  let s := ({ s with nextUid := u + 1 }.setTeam u tm).trimL1 c
  let pos := hdrCode r.hdr
  let s := (List.range n).foldl (fun s t => s.setThr u t { exited := false, pos := pos, frag := 0, stamp := s.tick }) s
  let pay := toWords 4 r.pay.toNat
  let frame := hdrFrame r.hdr
  let us := pay ++ [toW frame, toW (frame / 2 ^ 32), toW recs.length]
  let s := (List.range tm.gangs).foldl (fun s g => (us.zipIdx).foldl (fun s (x, k) => s.putU u g k x) s) s
  let bytes := ((recs.map fun r => toBytes 16 r.pay.toNat).flatten).take nd.scr
  (s.scrPuts u 0 bytes).reserve l node

/-- Places a launch team (R39). -/
def State.placeLin (s : State) (l lin c : Nat) : State :=
  let ln := s.launch l
  let co := (lin % ln.ex, lin / ln.ex % ln.ey, lin / (ln.ex * ln.ey))
  let ln' := if ln.flushed.contains lin then { ln with flushed := ln.flushed.erase lin } else { ln with started := ln.started + 1 }
  ((s.setLaunch l ln').startTeam l 0 c lin ln.node0 [ln.rcd] co lin).served l

/-- Places a batch of records, each of which must pass R41: one that does not is not started but reported (KIND 3; KIND 5
where its line is poisoned). -/
def State.placeBatch (s : State) (l node c : Nat) : State :=
  let ln := s.launch l
  let nd := ln.nodes.getD node {}
  let (slots, lti) := s.nextBatch l node
  let bad := slots.filterMap fun k =>
    match s.queuedRec l nd k with
    | .ok r => if recOk r then none else some (k, Cause.illegalField)
    | .error x => some (k, x)
  if bad.isEmpty then
    let recs := slots.filterMap fun k => (s.queuedRec l nd k).toOption
    ((s.dropRecs l node slots).startTeam l node c lti nd recs (0, 0, 0) 0).served l
  else
    let keep := slots.filter fun k => !(bad.any fun b => b.1 == k)
    let s := s.dropRecs l node slots
    let s := s.setNode l node { nd with queue := nd.queue.filter fun q => !(bad.any fun b => b.1 == q.slot) }
    let s := if ln.det && !keep.isEmpty then
        s.setLaunch l { s.launch l with phTeams := ⟨lti, node, keep⟩ :: (s.launch l).phTeams } else s
    let s := bad.foldl (fun s b => s.report ln.slice
      { kind := if b.2 = .memUe then 5 else 3, launch := l, detail := causeOnly b.2, addr := slotAddr nd b.1 }) s
    if (s.candsOf l).isEmpty then s.setLaunch l { s.launch l with wait := 0 } else s

/-- Ends the stop that a fault caused (R350, R354): faulted threads go on, meetings are tested again (R35), logged LDs are taken up
again. -/
def State.unfault (s : State) (u : Nat) : State :=
  let ts := (s.liveThreads u).filter fun t => (s.thr u t).wait == .faulted
  let s := ts.foldl (fun s t =>
    let th := s.thr u t
    let s := s.setThr u t { th with wait := .none, back := none }
    match th.back with
    | some b => s.goBack u t b
    | none => s) s
  ((ts.map (· / 32)).eraseDups.foldl (fun s g => s.retestGang u g) s).replayLds u ts

/-- Places a saved team: it takes its area back into the core and the area is freed (R68, R69); a stop for faults that
have all been answered ends, and its threads wait where R357 says. The copies that it brings may take the core's above 128, the limit
that an issue sees (R14; DESIGN CHOICE, log 74). -/
def State.placeSaved (s : State) (v : Saved) (c : Nat) : State :=
  let tm := { v.team with
    core := c, slot := s.freeTeamSlot c, q0 := quarterOf (s.teamsOn c), stop := none, drain := false, code := [], since := s.tick }
  let s := { s with
    saved := s.saved.filter fun (x : Saved) => x.uid != v.uid, clocks := NMap.put s.clocks c (max (NMap.get 0 s.clocks c) v.clock) }
  let s := (((s.restoreTeam v tm).trimL1 c).replayLoads v.uid).unfault v.uid
  ((s.restoreWaits v.uid).served v.team.launch).testEnd v.uid

/-! Contained errors in Kettle's own memory (R358). -/

/-- Drops collectives in flight, with their chunks that are queued; one that has completed goes on sending. -/
def State.dropColls (s : State) (p : Coll → Bool) : State :=
  let gone (c : Coll) : Bool := p c && c.fate == 0
  { s with
    colls := s.colls.filter fun c => !gone c,
    sendQ := s.sendQ.filter fun (q : QMsg) => match q.coll with
      | some (id, _) => !(s.colls.any fun (c : Coll) => c.id == id && gone c)
      | none => true }

/-- What a remote operation of a discarded team is still good for: its answer is awaited (R52), and a line on its way arrives
(log 46). -/
def RemOp.orphan (r : RemOp) : RemOp :=
  match r.act with
  | .fill _ _ => r
  | _ => { r with act := .flags }

/-- Removes what engines and queues hold for a team. -/
def State.dropOps (s : State) (u : Nat) : State :=
  { s.dropColls (fun c => c.uid == u) with
    atoms := s.atoms.filter fun (x : Pend) => x.uid != u, scops := s.scops.filter fun (x : Pend) => x.uid != u,
    bufops := s.bufops.filter fun (x : BufOp) => x.uid != u, caddyOps := s.caddyOps.filter fun (x : CaddyOp) => x.uid != u,
    mops := s.mops.filter fun (x : MOp) => x.uid != u, imgs := s.imgs.filter fun (x : ImgLoad) => x.uid != u,
    samples := s.samples.filter fun (x : SampJob) => x.uid != u, routes := s.routes.filter fun (x : RouteOp) => x.uid != u,
    cisAdds := s.cisAdds.filter fun (x : CisAdd) => x.uid != u, sorts := s.sorts.filter fun (x : SortJob) => x.uid != u,
    rasts := s.rasts.filter fun (x : RastJob) => x.uid != u,
    rastFls := s.rastFls.filter fun (x : RastFl) => x.uid != u,
    parts := s.parts.filter fun (x : EngPart) => x.uid != u, fins := s.fins.filter fun (x : Nat × Nat × EngFin) => x.1 != u,
    remote := s.remote.map fun (x : RemOp) => if x.uid = u then x.orphan else x,
    heads := s.heads.map fun (k, h) => (k, { h with pend := h.pend.filter fun (p : PresOp) => p.uid != u }) }

/-- Returns the nodes reserved for a team's buffered CREDs (R228). -/
def State.freeCreds (s : State) (u : Nat) : State :=
  (s.bufops.filter fun (b : BufOp) => b.uid == u).foldl (fun s b =>
    match b.kind with
    | .cred _ line _ _ need => s.unreserve line need
    | _ => s) s

/-- Discards a team, resident or saved, with all its operations. -/
def State.discardTeam (s : State) (u : Nat) : State :=
  let s := ((s.freeCreds u).dropOps u).dropTeam u
  { s with saved := s.saved.filter fun (v : Saved) => v.uid != u }

/-- Ends a launch by abort (R352): its teams and queued records are discarded, its other entries answered. Its completion word is
written once the writes that it has sent to other packages have been answered, and operations of teams that had ended performed (R52). -/
def State.abortLaunch (s : State) (l status : Nat) : State :=
  let ln := s.launch l
  let us := (s.teams.filter fun e => e.2.launch == l).map (·.1)
    ++ (s.saved.filter fun (v : Saved) => v.team.launch == l).map (·.uid)
  let s := (us.foldl State.discardTeam s).dropColls fun c => c.launch == l
  let s := { s with
    recArrs := s.recArrs.filter fun (r : RecArr) => r.launch != l, joinArrs := s.joinArrs.filter fun (j : JoinArr) => j.launch != l,
    bufops := s.bufops.filter fun (b : BufOp) => b.launch != l, caddyOps := s.caddyOps.filter fun (o : CaddyOp) => o.launch != l,
    entries := s.entries.map fun (e : FEntry) => if e.launch = l then { e with answered := true } else e }
  let s := s.setLaunch l { s.launch l with
    nodes := ln.nodes.map fun (nd : GNode) => { nd with queue := [], resv := 0 }, phTeams := [], flushed := [], started := ln.ex * ln.ey * ln.ez }
  let s := s.publishSlice ln.slice
  if s.launchSends l || s.opsLeft l then s.setLaunch l { s.launch l with dying := some status } else s.finishLaunch l status 0

/-- Fences a slice whose Kettle state or context area is poisoned: every launch ends with STATUS 2, a KIND 6 entry is posted,
and the slice is out until it is restored (R358). -/
def State.fenceSlice (s : State) (k addr : Nat) : State :=
  let s := (s.launchesOf k).foldl (fun s l => s.abortLaunch l 2) s
  let s := { s with saved := s.saved.filter fun (v : Saved) => s.lead v.team.slice != k }
  (s.setSysBit 0x22 k 29).report k { kind := 6, detail := causeOnly .memUe, addr := addr }

/-- Places a candidate on the core that R60 gives. -/
def State.placeCand (s : State) (k : Nat) (c : Cand) : State :=
  match s.coreFor k (s.candNeed c) with
  | none => s
  | some core =>
    match c.kind with
    | 0 => match s.saved.find? fun (v : Saved) => v.uid == c.arg with
      | some v => if s.physBad v.addr v.size then s.fenceSlice k v.addr else s.placeSaved v core
      | none => s
    | 1 => s.placeLin c.launch c.arg core
    | _ => s.placeBatch c.launch c.arg core

/-! Waiting time (R59). -/

/-- EVENT AGING_QUANTUM (R58, R59): a launch with a candidate has waited another whole quantum. -/
def execAgingQuantum (l : Nat) (s : State) : Res :=
  let ln := s.launch l
  .next (if ln.live && !(s.candsOf l).isEmpty then s.setLaunch l { ln with wait := ln.wait + 1 } else s)

/-! Phases (R62, R63, R188). -/

/-- Has a resident team ended its part of a phase: every thread has executed PHASE, every engine operation is complete? -/
def State.teamPhased (s : State) (u : Nat) : Bool :=
  let ts := s.liveThreads u
  !ts.isEmpty && ts.all (fun t => (s.thr u t).wait == .phase) && !s.engineBusy u && (s.team u).stop.isNone
  && (s.team u).open_.isEmpty

/-- Has phase p of a deterministic launch ended but for its flush point? A record that a continued team emits into a node of its phase or
an earlier one is queued and never batched: its phase, or its launch, does not end (DESIGN CHOICE, log 75). -/
def State.phaseOver (s : State) (l : Nat) : Bool :=
  let ln := s.launch l
  let p := ln.phase
  (s.teams.all fun e => !(e.2.live && e.2.launch == l) || s.teamPhased e.1)
  && !(s.saved.any fun (v : Saved) => v.team.launch == l)
  && (ln.node0.stage != p || (ln.flushed.isEmpty && ln.ex * ln.ey * ln.ez ≤ ln.started))
  && (ln.nodes.drop 1).all (fun nd => nd.stage != p || nd.queue.isEmpty)
  && !(s.recArrs.any (·.launch == l)) && !(s.joinArrs.any (·.launch == l)) && !(s.caddyOps.any (·.launch == l))

/-- The records of a phase in the order of R63, as node, producer, sequence and slot. Records that R63 does not tell apart, whose
producers of different phases have one logical index and one emission sequence, keep the order of their queue (DESIGN CHOICE,
log 63). -/
def phaseRecs (ln : Launch) (p : Nat) : List (Nat × Nat × Nat × Nat) :=
  ((ln.nodes.zipIdx.drop 1).flatMap fun (nd, i) =>
    if nd.stage = p then nd.queue.map fun q => (i, q.plti, q.seq, q.slot) else []).mergeSort fun a b =>
      keysLe [a.1, a.2.1, a.2.2.1] [b.1, b.2.1, b.2.2.1]

/-- Batches of one node's ranked records. -/
def batchesOf (node batch : Nat) : Nat → List (Nat × Nat) → List PhTeam
  | 0, _ => []
  | _, [] => []
  | fuel + 1, rs =>
    ⟨(rs.headD (0, 0)).1, node, (rs.take batch).map (·.2)⟩ :: batchesOf node batch fuel (rs.drop batch)

/-- The teams of a phase that are to start, with their logical indices: ranks after the C continued teams (R63, R188). -/
def phaseTeams (ln : Launch) (p c : Nat) : List PhTeam :=
  let rs := (phaseRecs ln p).zipIdx
  (List.range ln.nodes.length).flatMap fun i =>
    let mine := (rs.filter fun x => x.1.1 == i).map fun x => (c + x.2, x.1.2.2.2)
    batchesOf i (max 1 (ln.nodes.getD i {}).batch) (mine.length + 1) mine

/-- The next phase begins: continued teams first, in the order of their former indices; without them, the least later stage
that has records; else none (16). -/
def State.nextPhase (s : State) (l : Nat) : State :=
  let ln := s.launch l
  let cont := ((s.teams.filter fun e => e.2.live && e.2.launch == l).map fun e => (e.2.lti, e.1)).mergeSort fun a b => a.1 ≤ b.1
  let later := (ln.nodes.drop 1).filterMap fun nd => if ln.phase < nd.stage && !nd.queue.isEmpty then some nd.stage else none
  let np := if cont.isEmpty then later.foldl min 16 else ln.phase + 1
  let s := s.setLaunch l { ln with phase := np, phTeams := phaseTeams ln np cont.length }
  (cont.zipIdx).foldl (fun s x =>
    let u := x.1.2
    let tm := s.team u
    let s := s.setTeam u { tm with stage := np, lti := x.2, since := s.tick }
    let ts := s.liveThreads u
    let s := ts.foldl (fun s t => s.setThr u t { s.thr u t with wait := .none }) s
    s.letGo u ts) s

/-- EVENT PHASE_FLUSH_POINT (R62 to R64, R188): the teams of the phase have ended; what they buffered is applied, and when
the last operation has been answered the next phase begins. -/
def execPhaseFlushPoint (l : Nat) (s : State) : Res :=
  let ln := s.launch l
  if !ln.live ∨ ln.dying.isSome ∨ !ln.det ∨ 16 ≤ ln.phase ∨ !s.phaseOver l then .next s
  else
    let s := (s.publishSlice ln.slice).flushBufs fun b => b.launch == l
    .next (if s.bufops.any fun (b : BufOp) => b.launch == l then s else s.nextPhase l)

end Sys2Proof.Machine
end

