-- ==== Sys2Proof/Machine/Preempt.lean ====
section
/-!
DEFINITION. Taking teams off their cores: pre-emption (R61, R65 to R69), saves, the slice context switch (R71, R72), and
the placement event (R59).
-/

namespace Sys2Proof.Machine

/-! Choice of what to do with a team (R66). Times are in units of 1/5.12 ps, so that S bytes of n teams take S × n. -/

/-- One µs. -/
def usec : Nat := 5120000

/-- May a team be flushed: IDEM is set, it has built or joined no record (R66), and its records find room in their queue (DESIGN
CHOICE, log 45)? -/
def State.flushFits (s : State) (u : Nat) : Bool :=
  let tm := s.team u
  let nd := (s.launch tm.launch).nodes.getD tm.node {}
  tm.idem && !tm.acted && (tm.node == 0 || nd.queue.length + nd.resv + tm.recs.length ≤ nd.qcap)

/-- The choices of R66 that a team has, each with its latency, none where unbounded, and its cost: 0 drain, 1 save, 2 flush. How
long the wait of R65 will take and how long the team has run are free values: time is not modelled. -/
def State.choices (s : State) (u n : Nat) : List (Nat × Option Nat × Nat) :=
  let tm := s.team u
  let free (k : Nat) : Nat := Config.freeWord ((s.tick * 2 ^ 32 + u) * 4 + k)
  let ew : Option Nat := if s.samples.any (fun (j : SampJob) => j.uid == u && j.susp) then none else some (free 1)
  let run := free 2
  let size := s.saveSize u * n
  let drain : Option Nat := if tm.budget = 0 ∨ tm.budget * usec < run then none else some (tm.budget * usec - run)
  [(0, drain, 0)] ++ (if (s.saveRoom u).isSome then [(1, ew.map (· + size), 2 * size)] else [])
    ++ (if s.flushFits u then [(2, ew, run)] else [])

/-- Is a latency within a bound in µs? Is one less than another? -/
def withinBound (bound : Nat) (o : Option Nat) : Bool := match o with | some x => x ≤ bound * usec | none => false
@[inherit_doc withinBound] def lessTime (a b : Option Nat) : Bool := match a, b with
  | some x, some y => x < y
  | some _, none => true
  | none, _ => false

/-- The choice of R66, and whether it is a drain for want of one that meets the bound where no save is allowed (R69). -/
def State.choose (s : State) (u bound n : Nat) : Nat × Bool :=
  let all := s.choices u n
  match all.filter fun x => withinBound bound x.2.1 with
  | x :: xs => ((xs.foldl (fun b y => if y.2.2 < b.2.2 then y else b) x).1, false)
  | [] =>
    if (s.saveRoom u).isSome then
      ((all.foldl (fun b y => if lessTime y.2.1 b.2.1 then y else b) (all.headD (0, none, 0))).1, false)
    else (0, true)

/-- Sets KETTLE.CTXSW.LATE. -/
def State.setLate (s : State) (k : Nat) : State := s.setSysBit 0x22 k 28

/-- Whether a pre-emption took longer than its bound is a free value. -/
def State.maybeLate (s : State) (k u : Nat) : State :=
  if Config.freeWord ((s.tick * 2 ^ 32 + u) * 4 + 3) % 2 = 1 then s.setLate k else s

/-- Starts the pre-emption of a team under a bound, one of n in the request: its issue is to stop, and the choice is made then. -/
def State.preemptTeam (s : State) (u bound n : Nat) : State :=
  s.setTeam u { s.team u with stop := some { reason := 1, flush := false, faults := [], bound := bound, n := n } }

/-- Kettle's choice for a team whose issue has stopped (R66, R69): a drain lets it go on. -/
def State.decide (s : State) (k u : Nat) (st : Stop) : State :=
  let tm := s.team u
  match s.choose u st.bound st.n with
  | (0, late) => (if late then s.setLate k else s).setTeam u { tm with stop := none, drain := true }
  | (m, _) => s.setTeam u { tm with stop := some { st with flush := m == 2, chosen := true } }

/-- Does a need fit some core of a slice without the teams named? -/
def State.fitsWithout (s : State) (k : Nat) (n : Need) (gone : List Nat) : Bool :=
  (s.coresOf k).any fun c => fitsWith (s.teamsBut c gone) n

/-- The teams to pre-empt, of the lowest effective priority first, until a need fits; none where it never does. Among teams
of equal priority the choice is free. -/
def State.victims (s : State) (k : Nat) (n : Need) : Nat → List Nat → List Nat → List Nat → Option (List Nat)
  | 0, _, _, _ => none
  | fuel + 1, gone, vic, pool =>
    if s.fitsWithout k n (gone ++ vic) then some vic
    else
      let low := pool.foldl (fun m u => min m (s.effPrio (s.team u).launch)) 3
      let ties := pool.filter fun u => s.effPrio (s.team u).launch == low
      match ties[Config.freeChoice (s.tick * 2 ^ 32 + vic.length + 1) % (max 1 ties.length)]? with
      | none => none
      | some u => s.victims k n fuel gone (vic ++ [u]) (pool.filter (· != u))

/-- Pre-empts teams for a candidate of effective priority 3 that has no room (R61). -/
def State.preemptFor (s : State) (k : Nat) (n : Need) : State :=
  let bound := bits (s.sysr 0x20 k) 31 16
  let on := s.teams.filter fun e => e.2.live && s.lead e.2.slice == k
  let gone := (on.filter fun e => e.2.drain || e.2.stop.isSome).map (·.1)
  let pool := (on.filter fun e => !e.2.drain && e.2.stop.isNone && e.2.open_.isEmpty && s.effPrio e.2.launch < 3).map (·.1)
  if bound = 0 then s
  else
    match s.victims k n (pool.length + 1) gone [] pool with
    | none => s
    | some vic => vic.foldl (fun s u => s.preemptTeam u bound vic.length) s

/-- EVENT TEAM_PLACEMENT (R56, R59 to R61): Kettle places the first candidate that can be placed; for the first of effective
priority 3 that finds no room it pre-empts. A slice that is out, or being switched, places none. -/
def execTeamPlacement (slice : Nat) (s : State) : Res :=
  let c := s.sysr 0x22 slice
  if 8 ≤ slice ∨ s.lead slice ≠ slice ∨ nbit c 29 ∨ nbit c 31 then .next s
  else
    let cs := s.cands slice
    let s := match cs.find? fun x => x.key.headD 3 == 0 && (s.coreFor slice (s.candNeed x)).isNone with
      | some x => s.preemptFor slice (s.candNeed x)
      | none => s
    .next (match cs.find? fun x => s.placeable slice x with
      | some x => s.placeCand slice x
      | none => s)

/-! The stop of a team (R65, R68, R349, R350). -/

/-- Has everything ended that a save waits for: matrix and accumulator operations, remote operations, Strainer and sampler
jobs (R65), and every other operation that still has a register of the team to fill or an effect to make? A ROUTE is none: it
is suspended and saved as a copy is (R239). -/
def State.opsStopped (s : State) (u : Nat) : Bool :=
  !(s.mops.any fun (x : MOp) => x.uid == u) && !(s.remote.any fun (x : RemOp) => x.uid == u)
  && !(s.sorts.any fun (x : SortJob) => x.uid == u) && !(s.samples.any fun (x : SampJob) => x.uid == u)
  && !(s.imgs.any fun (x : ImgLoad) => x.uid == u)
  && !(s.rasts.any fun (x : RastJob) => x.uid == u) && !(s.rastFls.any fun (x : RastFl) => x.uid == u)
  && !(s.loads.any fun (x : Fill) => x.uid == u) && !(s.scrLoads.any fun (x : Fill) => x.uid == u)
  && !(s.lates.any fun (x : Fill) => x.uid == u) && !(s.atoms.any fun (x : Pend) => x.uid == u)
  && !(s.scops.any fun (x : Pend) => x.uid == u) && !(s.recArrs.any fun (x : RecArr) => x.uid == u)
  && !(s.joinArrs.any fun (x : JoinArr) => x.uid == u) && !(s.caddyOps.any fun (x : CaddyOp) => x.uid == u)
  && !(s.cisAdds.any fun (x : CisAdd) => x.uid == u)
  && !(s.parts.any fun (x : EngPart) => x.uid == u) && !(s.fins.any fun (x : Nat × Nat × EngFin) => x.1 == u)
  && (List.range (s.team u).gangs).all fun g => (s.logs u g).all (·.deferred)

/-- Posts a stopped team's faults in the order in which they were found, and gives the entries' numbers. A contained error has
triggered its snapshot when it was found. -/
def State.postFaults (s : State) (u : Nat) (tm : Team) (addr : Nat) (fs : List FaultInfo) : State × List Nat :=
  fs.foldl (fun (acc : State × List Nat) fi =>
    let s := acc.1
    let k := s.lead tm.slice
    let seq := NMap.get 0 s.fseq k
    let kind := if 16 ≤ fi.detail.toNat % 256 then 5 else 1
    (s.report k { kind := kind, launch := tm.launch, uid := u, detail := fi.detail.toNat, addr := fi.addr.toNat, save := addr,
                  pos := fi.pos, quiet := kind == 5 }, acc.2 ++ [seq])) (s, [])

/-- Spills what a team has buffered in a deterministic launch (R68). -/
def State.spillTeam (s : State) (u : Nat) : State :=
  let mine (b : BufOp) : Bool := b.uid == u && !b.spilled
  (List.range (s.bufops.countP mine)).foldl (fun s _ => s.spillFirst mine) s

/-- Saves a stopped team at an address of the context area and frees its core (R68): its buffered operations are spilled, its
statistics added (R125), its ROUTEs kept with it (R239). -/
def State.saveTeam (s : State) (u addr : Nat) (st : Stop) : State :=
  let s := (s.spillTeam u).addStats u
  let tm := s.team u
  let s := s.physPut addr (s.saveBytes u st.reason st.faults.head?)
  let ts := (List.range (32 * tm.gangs)).map fun t => (t, s.thr u t)
  let logs := (List.range tm.gangs).map fun g => (g, s.logs u g)
  let mine (r : RouteOp) : Bool := r.uid == u
  let routes := s.routes.filter mine
  let size := s.saveSize u
  let (s, es) := (State.dropTeam { s with routes := s.routes.filter fun r => !mine r } u).postFaults u tm addr st.faults
  { s with saved := s.saved ++ [Saved.mk u addr size { tm with stop := none, open_ := tm.open_ ++ es } ts logs routes (NMap.get 0 s.clocks tm.core)] }

/-- Flushes a stopped team (R67): its records go back to the head of their queue, its reservations and buffered operations
are dropped. -/
def State.flushTeam (s : State) (u : Nat) : State :=
  let tm := s.team u
  let l := tm.launch
  let s := (s.freeCreds u).releaseResv u
  let s := (s.dropOps u).dropTeam u
  if tm.node = 0 then
    let ln := s.launch l
    s.setLaunch l { ln with flushed := ln.flushed ++ [tm.tlin] }
  else
    let r := tm.recs.reverse.foldl (fun (acc : State × List Nat) (r : Rec) =>
      let s := acc.1
      let nd := (s.launch l).nodes.getD tm.node {}
      let k := (freeSlot nd).getD 0
      let s := match s.kWrite l (slotAddr nd k) r.bytes with
        | .ok s => s
        | .error _ => s
      (s.setNode l tm.node { nd with queue := ⟨k, tm.lti, 0⟩ :: nd.queue }, k :: acc.2)) (s, [])
    let s := r.1
    let ln := s.launch l
    if ln.det then s.setLaunch l { ln with phTeams := ln.phTeams ++ [⟨tm.lti, tm.node, r.2⟩] } else s

/-- A team that is stopped for its faults and finds no room for a save stays on its core (R69, R350). -/
def State.keepTeam (s : State) (u : Nat) (st : Stop) : State :=
  let tm := s.team u
  let (s, es) := (s.setTeam u { tm with stop := none }).postFaults u tm 0 st.faults
  s.setTeam u { s.team u with open_ := (s.team u).open_ ++ es }

/-- What Kettle does with a team whose wait is over and whose writes are published: flushed, saved, or kept. A choice that has become
impossible is made again (R66, R69); a team that a context switch finds no room for drains (log 45). -/
def State.takeOff (s : State) (k u : Nat) (st : Stop) : State :=
  if st.flush then (if s.flushFits u then (s.flushTeam u).maybeLate k u else s.decide k u st)
  else
    match s.saveRoom u with
    | some a => if st.reason = 1 then (s.saveTeam u a st).maybeLate k u else s.saveTeam u a st
    | none =>
      if st.faults ≠ [] then s.keepTeam u st
      else if st.reason = 1 then s.decide k u st
      else s.setTeam u { s.team u with stop := none, drain := true }

/-- EVENT PREEMPTION_WAIT_END (R65 to R69, R350): a part of the wait for a stopping team ends. Its issue has stopped, and Kettle
chooses what a pre-emption does with it; then what R65 waits for has ended too, its writes are published, and it leaves its
core. -/
def execPreemptionWaitEnd (u : Nat) (s : State) : Res :=
  let tm := s.team u
  let k := s.lead tm.slice
  match tm.stop with
  | none => .next s
  | some st =>
    if !tm.live ∨ !s.issueStopped u then .next s
    else if st.reason = 1 ∧ !st.chosen then .next (s.decide k u st)
    else if !s.opsStopped u then .next s
    else
      let s := s.publish tm.core 7 u 0
      .next (if s.remote.any fun (x : RemOp) => x.uid == u then s else s.takeOff k u st)

/-! The slice context switch (R71, R72). -/

/-- The teams resident on a slice. -/
def State.residents (s : State) (k : Nat) : List Nat :=
  (s.teams.filter fun e => e.2.live && s.lead e.2.slice == k).map (·.1)

/-- Would every resident team fit the context area (R69)? -/
def State.allFit (s : State) (k : Nat) : Bool :=
  let base := s.ctxBase k
  let r := (s.residents k).foldl (fun (acc : Option (List (Nat × Nat))) u =>
    match acc with
    | none => none
    | some areas =>
      let n := s.saveSize u
      (lowestFit base areas n).map fun a => areas ++ [(a, (n + 255) / 256 * 256)]) (some (s.areasOf k))
  let spill (l : Nat) : Bool :=
    s.spilledOf l + s.bufops.countP (fun (b : BufOp) => b.launch == l && !b.spilled) ≤ (s.launch l).spilln * 32768
  s.present base (2 ^ 26) && r.isSome && (s.launchesOf k).all spill

/-- A write to KETTLE.CTXSW (R71): W1C bits, then the command. -/
def State.writeCtxsw (s : State) (k v : Nat) : State :=
  let s := if nbit v 30 then s.clrSysBit 0x22 k 30 else s
  let s := if nbit v 28 then s.clrSysBit 0x22 k 28 else s
  let c := s.sysr 0x22 k
  let cmd := v % 4
  let k' := s.lead k
  if cmd = 0 ∨ cmd = 3 ∨ k' ≠ k then s
  else if nbit c 31 then s.setSysBit 0x22 k 30
  else if cmd = 1 then
    if nbit c 29 ∨ !s.allFit k then s.setSysBit 0x22 k 30
    else
      let s := { s.setSysBit 0x22 k 31 with ctx := NMap.put s.ctx k 1 }
      (s.residents k).foldl (fun s u =>
        let tm := s.team u
        let st : Stop := tm.stop.getD { reason := 2, flush := false, faults := [] }
        s.setTeam u { tm with stop := some { st with reason := if st.faults = [] then 2 else st.reason, flush := false } }) s
  else if !nbit c 29 then s.setSysBit 0x22 k 30
  else { s.setSysBit 0x22 k 31 with ctx := NMap.put s.ctx k 2 }

/-- EVENT KETTLE_CTXSW_SAVE (R72). -/
def execKettleCtxswSave (slice : Nat) (s : State) : Res := .next (if slice < 8 ∧ !s.recovery then s.writeCtxsw slice 1 else s)

/-- EVENT KETTLE_CTXSW_RESTORE (R72). -/
def execKettleCtxswRestore (slice : Nat) (s : State) : Res := .next (if slice < 8 ∧ !s.recovery then s.writeCtxsw slice 2 else s)

/-- EVENT CTXSW_SAVE_DONE (R72): every team is saved, the slice's Strainer jobs and collectives are complete; the slice state
is written in a form of Kettle's own, and OUT is set. -/
def execCtxswSaveDone (slice : Nat) (s : State) : Res :=
  let k := slice
  if NMap.get 0 s.ctx k ≠ 1 ∨ !(s.residents k).isEmpty ∨ s.sorts.any (fun (j : SortJob) => s.lead j.slice == k)
      ∨ s.colls.any (fun (c : Coll) => s.lead c.slice == k && c.fate == 0) then .next s
  else
    let s := { s with ctx := NMap.put s.ctx k 0 }
    let s := s.physPut (s.ctxBase k) (s.unitBytes 7 4096)
    .next ((s.setSysBit 0x22 k 29).clrSysBit 0x22 k 31)

end Sys2Proof.Machine
end

