-- ==== Sys2Proof/Machine/Raster.lean ====
section
/-!
DEFINITION. Triangles: RAST, the fixed rasteriser and RAST.FLUSH (R258 to R261).
-/

namespace Sys2Proof.Machine

/-- x × 256 rounded to an integer in RNE; none where x is not finite. -/
def snap (x : Nat) : Option Int :=
  match decodeF f32 x with
  | .fin n m e =>
    let (p, q) := scaleBy m 1 (-(e + 8))
    let k := roundDiv 0 n p q
    some (if n then -(k : Int) else k)
  | _ => none

/-- A triangle as the rasteriser works on it: snapped x and y, z, and the orientation (R259, R260). -/
structure Tri where
  xs : List Int
  ys : List Int
  zs : List Nat
  cr : Int

/-- The triangle of a record; none where it is rejected (result 3). -/
def triOf (r : List Byte) : Option Tri :=
  let w (k c : Nat) := bytesAt r (12 * k + 4 * c) 4
  let xs := (List.range 3).filterMap fun k => snap (w k 0)
  let ys := (List.range 3).filterMap fun k => snap (w k 1)
  if xs.length ≠ 3 ∨ ys.length ≠ 3 ∨ (xs ++ ys).any (fun x => 2 ^ 23 ≤ x.natAbs) then none
  else
    let x (k : Nat) := xs.getD k 0
    let y (k : Nat) := ys.getD k 0
    some { xs := xs, ys := ys, zs := (List.range 3).map fun k => w k 2,
           cr := (x 1 - x 0) * (y 2 - y 0) - (y 1 - y 0) * (x 2 - x 0) }

/-- The class of a triangle (R259). -/
def rastClass (r : List Byte) (limit : Nat) : Nat :=
  match triOf r with
  | none => 3
  | some t => if t.cr = 0 then 2 else if t.cr.natAbs < 512 * limit then 0 else 1

/-- The triangle with vertices 1 and 2 swapped where cr is negative. -/
def Tri.orient (t : Tri) : Tri :=
  let sw {α : Type} (l : List α) : List α := match l with | [a, b, c] => [a, c, b] | l => l
  if t.cr < 0 then { xs := sw t.xs, ys := sw t.ys, zs := sw t.zs, cr := -t.cr } else t

/-- An edge function at a point, and whether the edge is inclusive (R260). -/
def Tri.edge (t : Tri) (a b : Nat) (px py : Int) : Int × Bool :=
  let x (k : Nat) := t.xs.getD k 0
  let y (k : Nat) := t.ys.getD k 0
  ((x b - x a) * (py - y a) - (y b - y a) * (px - x a), 0 < y b - y a || (y b == y a && x b - x a < 0))

/-- The z of a covered pixel, if it is drawn (R260). -/
def Tri.pixel (t : Tri) (px py : Nat) : Option Nat :=
  let qx : Int := 256 * px + 128
  let qy : Int := 256 * py + 128
  let e := [t.edge 1 2 qx qy, t.edge 2 0 qx qy, t.edge 0 1 qx qy]
  if !e.all (fun x => 0 < x.1 || (x.1 == 0 && x.2)) || !t.zs.all isFinite32 then none
  else
    let z := quot32 0 ((List.zipWith (fun (x : Int × Bool) zk => (Dy.mk x.1 0).mul (dy32 zk)) e t.zs).foldl Dy.add ⟨0, 0⟩) ⟨t.cr, 0⟩
    if isFinite32 z && lt32 0 z then some z else none

/-- The pixels that a triangle can cover within the target, row by row. -/
def Tri.pixels (t : Tri) (b : List Byte) : List (Nat × Nat) :=
  let f := bytesAt b
  let lo (ps : List Int) (s : Nat) : Nat := max s ((ps.foldl min (ps.getD 0 0) - 128) / 256).toNat
  let hi (ps : List Int) (s n : Nat) : Nat := min (min s n) ((ps.foldl max (ps.getD 0 0) + 256) / 256).toNat
  let span (a b : Nat) : List Nat := (List.range (b - a)).map (a + ·)
  let xs := span (lo t.xs (f 20 2)) (hi t.xs (f 24 2) (f 8 4))
  (span (lo t.ys (f 22 2)) (hi t.ys (f 26 2) (f 12 4))).flatMap fun y => xs.map fun x => (x, y)

/-- Checks 4 to 6 of RAST on its target (R259). -/
def State.targetCheck (s : State) (b : List Byte) : Option Trap :=
  let f := bytesAt b
  if f 28 36 ≠ 0 then some (s.trapLow .illegalField 4 0)
  else if f 0 8 % 8 ≠ 0 then some (s.trapLow .align 5 (f 0 8))
  else if f 8 4 < 1 ∨ 16384 < f 8 4 ∨ f 12 4 < 1 ∨ 16384 < f 12 4 ∨ f 16 4 % 8 ≠ 0 ∨ f 16 4 < 8 * f 8 4 then
    some (s.trapLow .illegalField 6 0)
  else none

/-- The check of R200 on a lane's triangle record of 48 bytes. -/
def State.triCheck (s : State) (a : VReg) (l : Nat) : Option Trap :=
  let va := s.rp l a.toNat
  let bad (c : Cause) (n ad : Nat) : Option Trap := some { cause := c, lane := l, check := n, addr := ad }
  if va % 16 ≠ 0 then bad .align 1 va
  else if isDomain va ∨ !canonical va then bad .access 2 va
  else
    match s.rangeOk ⟨s.cur.core, s.cur.slice, s.privL l, s.iss.uid, s.cur.launch⟩ .read va 48 with
    | .error (c, x) => bad c (if c = .memUe then 0 else 3) x
    | .ok _ => none

/-- The lanes' triangle records, read one after another; the first failure in lane order. -/
def State.readTris (s : State) (a : VReg) : List Nat → State × Except Trap (List (Nat × List Byte))
  | [] => (s, .ok [])
  | l :: ls =>
    match s.engRead ⟨s.cur.core, s.cur.slice, s.privL l, s.iss.uid, s.cur.launch⟩ (s.rp l a.toNat) 48 with
    | (_, .error (c, x)) => (s, .error { cause := c, lane := l, check := if c = .memUe then 0 else 3, addr := x })
    | (s1, .ok r) =>
      match s1.readTris a ls with
      | (s2, .ok rs) => (s2, .ok ((l, r) :: rs))
      | e => e

/-- RAST (R259): once every lane's record has passed its check (R200), classifies each lane's triangle and queues those of class 1 at the
die's rasteriser. The target's R229 steps come first, then the records, then the target's fields (DESIGN CHOICE, log 78). -/
def execRast (d a : VReg) (b : UReg) (s : State) : Res :=
  match s.descCheck s.low (s.rup b.toNat) none with
  | (_, .error t) => raise t s
  | (s1, .ok bs) =>
    match s.iss.lanes.findSome? (s.triCheck a) with
    | some t => raise t s
    | none =>
      match s1.readTris a s.iss.lanes with
      | (_, .error t) => raise t s
      | (s2, .ok rs) =>
        match s.targetCheck bs with
        | some t => raise t s
        | none =>
          let lim := s.cur.area.toNat % 2 ^ 24
          let jobs := (rs.filter fun x => rastClass x.2 lim == 1).map fun x =>
            RastJob.mk s.iss.uid (coreDie s.cur.core) s.cur.core s.cur.slice (s.privL x.1) x.2 bs 0 false
          .next (rs.foldl (fun s x => s.setV x.1 d.toNat (toW (rastClass x.2 lim))) { s2 with rasts := s2.rasts ++ jobs })

/-- The visibility atomic of one pixel: the state, and the cause and address of its fault (R260). -/
def State.visAtomic (s : State) (j : RastJob) (px py z : Nat) : State × Option (Cause × Nat) :=
  let f := bytesAt j.target
  let va := f 0 8 + py * f 16 4 + 8 * px
  let c : Ctx := ⟨j.core, j.slice, j.priv, j.uid, (s.team j.uid).launch⟩
  match s.engXlat c .write va with
  | .error x => (s, some (x, va))
  | .ok e =>
    match s.performLocal j.core j.uid 0 (.atom .max 2) e va 8 (z * 2 ^ 32 + bytesAt j.tri 36 4) 0 7 with
    | (s, some _) => (s, none)
    | (s, none) => (s, some (.memUe, va))

/-- Draws pixels in order from number k on: the state, and where a fault stopped it. -/
def State.drawGo (s : State) (j : RastJob) (t : Tri) : List (Nat × Nat) → Nat → State × Option (Nat × Cause × Nat)
  | [], _ => (s, none)
  | (px, py) :: ps, k =>
    match t.pixel px py with
    | none => s.drawGo j t ps (k + 1)
    | some z =>
      match s.visAtomic j px py z with
      | (s, none) => s.drawGo j t ps (k + 1)
      | (s, some (x, a)) => (s, some (k, x, a))

/-- One of a team's triangles is drawn: its waiting flushes count it (R261). -/
def State.drawnOne (s : State) (u : Nat) : State :=
  let fl := s.rastFls.map fun (x : RastFl) => if x.uid = u then { x with ahead := x.ahead - 1 } else x
  let done := fl.filter fun x => x.uid == u && x.ahead == 0
  let s := { s with rastFls := fl.filter fun x => !(x.uid == u && x.ahead == 0) }
  (done.foldl (fun s x => s.fillLanes x.uid x.gang x.lanes x.d 0) s).engineDone u

/-- EVENT RASTERISE_TRIANGLE (R260): a die's rasteriser draws its oldest triangle of a team that no fault entry holds up. -/
def execRasteriseTriangle (die : Nat) (s : State) : Res :=
  let held (u : Nat) : Bool := s.rasts.any fun j => j.uid == u && j.susp
  match s.rasts.findIdx? fun j => j.die == die && !held j.uid with
  | none => .next s
  | some i =>
    match s.rasts[i]? with
    | none => .next s
    | some j =>
      match triOf j.tri with
      | none => .next ({ s with rasts := s.rasts.eraseIdx i }.drawnOne j.uid)
      | some t =>
        let t := t.orient
        match s.drawGo j t ((t.pixels j.target).drop j.pix) j.pix with
        | (s, none) => .next ({ s with rasts := s.rasts.eraseIdx i }.drawnOne j.uid)
        | (s, some (k, x, a)) =>
          let c : Ctx := ⟨j.core, j.slice, j.priv, j.uid, (s.team j.uid).launch⟩
          .next ({ s with rasts := s.rasts.set i { j with pix := k, susp := true } }.suspend c x a true 5 0 j.uid)

/-- RAST.FLUSH (R261). -/
def execRastFlush (d : VReg) (s : State) : Res :=
  let u := s.iss.uid
  let n := s.rasts.countP (·.uid == u)
  let m := s.markEmpty d.toNat 1
  .next (if n = 0 then { m with lates := m.lates ++ s.iss.lanes.map fun l => { uid := u, t := s.tOf l, vals := [(d.toNat, 0)], uni := false } }
    else { m with rastFls := m.rastFls ++ [RastFl.mk u s.iss.gang s.iss.lanes d.toNat n] })

end Sys2Proof.Machine
end

