-- ==== Sys2Proof/Machine/Sampler.lean ====
section
/-!
DEFINITION. The sampler: SAMPLE and its jobs (R255, R257, R340).
-/

namespace Sys2Proof.Machine

/-- Bytes of a texel by format. -/
def texelBytes (fmt : Nat) : Nat := [1, 4, 2, 8, 4, 16].getD fmt 1

/-- Is a texture descriptor in range (R257)? -/
def texOk (b : List Byte) : Bool :=
  let f := bytesAt b
  let sz := texelBytes (f 20 1)
  f 20 1 ≤ 5 && f 0 8 % sz == 0 && 1 ≤ f 8 4 && f 8 4 ≤ 16384 && 1 ≤ f 12 4 && f 12 4 ≤ 16384 && f 16 4 % sz == 0
  && f 21 1 % 4 ≤ 2 && f 21 1 / 4 ≤ 2 && f 22 8 == 0 && f 30 2 == 0 && f 48 16 == 0

/-- A texel's four channels as f32 words, from its bytes. -/
def texelOf (fmt : Nat) (b : List Byte) : List Nat :=
  let ch (n : Nat) (f : Nat → Nat) : List Nat := (List.range n).map f ++ (List.range 4).filterMap fun k =>
    if n ≤ k then some (if k = 3 then 0x3F800000 else 0) else none
  let un (k : Nat) := roundQ f32 0 false (bytesAt b k 1) 255
  let h (k : Nat) := encV f32 (decodeF f16 (bytesAt b (2 * k) 2))
  let w (k : Nat) := bytesAt b (4 * k) 4
  match fmt with
  | 0 => ch 1 un
  | 1 => ch 4 un
  | 2 => ch 1 h
  | 3 => ch 4 h
  | 4 => ch 1 w
  | _ => ch 4 w

/-- A coordinate under an address mode: none where the texel is the border. -/
def texCoord (mode n : Nat) (x : Int) : Option Nat :=
  match mode with
  | 0 => some (sat x 0 (n - 1 : Nat)).toNat
  | 1 => some (x % (n : Int)).toNat
  | _ => if 0 ≤ x ∧ x < n then some x.toNat else none

/-- The weight function of a basis at a fraction (R255). -/
def basis (wsrc k : Nat) (f : Dy) : Dy :=
  let c (n : Int) : Dy := ⟨n, 0⟩
  let f2 := f.mul f
  let f3 := f2.mul f
  let sum (xs : List Dy) : Dy := xs.foldl Dy.add ⟨0, 0⟩
  let half (x : Dy) : Dy := ⟨x.m, x.e - 1⟩
  if wsrc = 0 then c 1
  else if wsrc = 2 then (if k = 0 then (c 1).add f.neg else f)
  else match k with
    | 0 => half (sum [f3.neg, (c 2).mul f2, f.neg])
    | 1 => half (sum [(c 3).mul f3, (c (-5)).mul f2, c 2])
    | 2 => half (sum [(c (-3)).mul f3, (c 4).mul f2, f])
    | _ => half (sum [f3, f2.neg])

/-- The weight of a tap, rounded once. -/
def tapWeight (t : Tap) (fx fy : Dy) : Nat :=
  let w := (basis t.wsrc t.bx fx).mul (basis t.wsrc t.by_ fy)
  roundV f32 0 (mulV (decodeF f16 t.wt.toNat) (.fin (w.m < 0) w.m.natAbs w.e))

/-- floor(x − 1/2) and the fraction. -/
def texSplit (x : Nat) : Int × Dy :=
  let y := (dy32 x).add ⟨-1, -1⟩
  let n : Int := if 0 ≤ y.e then y.m * 2 ^ y.e.toNat else y.m / 2 ^ (-y.e).toNat
  (n, y.add ⟨-n, 0⟩)

/-- One texel read by the sampler; the cause and address of a fault. -/
def State.texel (s : State) (c : Ctx) (b : List Byte) (x y : Int) : State × Except (Cause × Nat) (List Nat) :=
  let f := bytesAt b
  match texCoord (f 21 1 % 4) (f 8 4) x, texCoord (f 21 1 / 4 % 4) (f 12 4) y with
  | some i, some j =>
    let sz := texelBytes (f 20 1)
    match s.engRead c (f 0 8 + j * f 16 4 + i * sz) sz with
    | (s, .ok bs) => (s, .ok (texelOf (f 20 1) bs))
    | (s, .error e) => (s, .error e)
  | _, _ => (s, .ok ((List.range 4).map fun k => f (32 + 4 * k) 4))

/-- The taps of one lane, accumulated in order. -/
def State.tapsGo (s : State) (c : Ctx) (b : List Byte) (ox oy : Int) (fx fy : Dy) (ref : Nat) :
    List Tap → List Nat → State × Except (Cause × Nat) (List Nat)
  | [], acc => (s, .ok acc)
  | t :: ts, acc =>
    match s.texel c b (ox + t.dx) (oy + t.dy) with
    | (s, .error e) => (s, .error e)
    | (s, .ok tx) =>
      let w := val32 (tapWeight t fx fy)
      let t0 := tx.getD 0 0
      let le : Bool := !isNan32 t0 && !isNan32 ref && !lt32 ref t0
      let v := if t.op = 1 then List.replicate 4 (if le then 0x3F800000 else 0) else tx
      s.tapsGo c b ox oy fx fy ref ts (List.zipWith (fun a x => addV f32 0 (mulV w (val32 x)) (val32 a)) acc v)

/-- The four channels of one lane (R257). -/
def State.sampleLane (s : State) (c : Ctx) (b : List Byte) (taps : List Tap) (u v ref : Nat) :
    State × Except (Cause × Nat) (List Nat) :=
  let far (x : Nat) : Bool := !isFinite32 x || !lt32 (x % 2 ^ 31) 0x4B800000
  if far u || far v || !isFinite32 ref then (s, .ok (List.replicate 4 f32.cnan))
  else
    let (ox, fx) := texSplit u
    let (oy, fy) := texSplit v
    s.tapsGo c b ox oy fx fy ref taps [0, 0, 0, 0]

/-- SAMPLE (R257). -/
def execSample (d a : VReg) (b : UReg) (slot : BitVec 4) (s : State) : Res :=
  match s.descCheck s.low (s.rup b.toNat) none with
  | (_, .error t) => raise t s
  | (s1, .ok bs) =>
    if !texOk bs then raise (s.trapLow .illegalField 0 0) s
    else
      match NMap.find s.filters (slotKey s.cur.core slot.toNat) with
      | none => raise (s.trapLow .illegalOp 0 0) s
      | some taps =>
        let j : SampJob :=
          { id := s.tick, uid := s.iss.uid, core := s.cur.core, slice := s.cur.slice, priv := s.privL s.low, d := d.toNat,
            lanes := s.iss.lanes.map fun l => (s.tOf l, s.rv l a.toNat, s.rv l (a.toNat + 1), s.rv l (a.toNat + 2)),
            desc := bs, slot := slot.toNat, taps := taps, susp := false }
        .next ({ s1 with samples := s1.samples ++ [j] }.markEmpty d.toNat 4)

/-- The registers of a sampler result. -/
def sampleVals (d : Nat) (xs : List Nat) : List (Nat × Word) := ((List.range 4).map (d + ·)).zip (xs.map toW)

/-- EVENT SAMPLE_JOB (R257): the k-th job's next lane; a texel fault suspends the job with a KIND 2 entry. -/
def execSampleJob (k : Nat) (s : State) : Res :=
  match s.samples[k]? with
  | none => .next s
  | some j =>
    if j.susp then .next s
    else
      match j.lanes with
      | [] => .next ({ s with samples := s.samples.eraseIdx k }.engineDone j.uid)
      | (t, u, v, ref) :: rest =>
        let c : Ctx := ⟨j.core, j.slice, j.priv, j.uid, (s.team j.uid).launch⟩
        match s.sampleLane c j.desc j.taps u.toNat v.toNat ref.toNat with
        | (s, .ok xs) =>
          let s := s.fillRegs j.uid t (sampleVals j.d xs)
          if rest = [] then .next ({ s with samples := s.samples.eraseIdx k }.engineDone j.uid)
          else .next { s with samples := s.samples.set k { j with lanes := rest } }
        | (s, .error (x, a)) =>
          .next ({ s with samples := s.samples.set k { j with susp := true } }.suspend c x a false 3 0 j.id)

end Sys2Proof.Machine
end

