-- ==== Sys2Proof/Machine/Host.lean ====
section
/-!
DEFINITION. What the host and the module do to the device: commands of the fault queue (R352), carves and slice groups (R17,
R24), invalidation (R81), snapshots (R359), power (R365), firmware and attachments (R361 to R364), errors (R358), reset.
-/

namespace Sys2Proof.Machine

/-! Fault-queue commands (R352). -/

/-- The entry of a slice with a number. -/
def State.entryOf (s : State) (k seq : Nat) : Option FEntry := s.entries.find? fun e => e.slice == k && e.seq == seq

/-- Marks an entry answered. -/
def State.answered (s : State) (k seq : Nat) : State :=
  { s with entries := s.entries.map fun (e : FEntry) => if e.slice = k ∧ e.seq = seq then { e with answered := true } else e }

/-- A refused command (R352). -/
def State.refuseFault (s : State) (k : Nat) : State := s.setSysBit 0x25 k 30

/-- SPILLN after resolution, as the host wrote it into the entry of a DET_SPILL (R351). -/
def State.spillnOf (s : State) (k : Nat) (e : FEntry) : Option Nat :=
  match s.walk k (e.at_ + 48) with
  | .error _ => none
  | .ok tr =>
    match (s.homeRead (tr.paOf (e.at_ + 48)) 4).2 with
    | some bs => some (ofBytes bs)
    | none => none

/-- RESUME of a team (R350, R352): once its last entry is answered it is a candidate, or goes on in place. -/
def State.resumeTeam (s : State) (k : Nat) (e : FEntry) : State :=
  let s := s.answered k e.seq
  let s := if bytesAt e.body 8 1 = Cause.detSpill.code ∧ e.posted then
      match s.spillnOf k e with
      | some n => if n = 0 then s else s.setLaunch e.launch { s.launch e.launch with spilln := n }
      | none => s
    else s
  let s := { s with saved := s.saved.map fun (v : Saved) =>
    if v.uid = e.uid then { v with team := { v.team with open_ := v.team.open_.erase e.seq } } else v }
  let tm := s.team e.uid
  if !tm.live ∨ tm.open_.isEmpty then s
  else
    let tm := { tm with open_ := tm.open_.erase e.seq }
    let s := s.setTeam e.uid tm
    if tm.open_.isEmpty then (s.unfault e.uid).testEnd e.uid else s

/-- The channel of a saved team, and the saved team with it replaced. -/
def Saved.chan (v : Saved) (ch : Nat) : Chan := NMap.get {} v.team.chans ch
@[inherit_doc Saved.chan] def Saved.setChan (v : Saved) (ch : Nat) (c : Chan) : Saved :=
  { v with team := { v.team with chans := NMap.put v.team.chans ch c } }

/-- Replaces what Kettle holds of a saved team. -/
def State.setSaved (s : State) (v : Saved) : State :=
  { s with saved := s.saved.map fun (x : Saved) => if x.uid = v.uid then v else x }

/-- RESUME of a copy (R109), of a resident or a saved team: it is suspended no longer. -/
def State.resumeCopy (s : State) (u ch : Nat) : State :=
  match s.saved.find? fun (v : Saved) => v.uid == u with
  | some v =>
    let cn := v.chan ch
    s.setSaved (v.setChan ch { cn with queue := cn.queue.take 1 |>.map (fun c => { c with fault := false }) |>.append (cn.queue.drop 1) })
  | none => match (s.chan u ch).queue with
    | c :: _ => s.setCopyHead u ch { c with fault := false }
    | [] => s

/-- RESUME of a suspended engine operation (R109, R169, R193, R256, R257, R260). -/
def State.resumeOp (s : State) (e : FEntry) : State :=
  let u := e.uid
  match e.eng / 16 with
  | 0 => s.resumeCopy u e.ref
  | 3 => { s with samples := s.samples.map fun (j : SampJob) => if j.id = e.ref ∧ j.uid = u then { j with susp := false } else j }
  | 5 => { s with rasts := s.rasts.map fun (j : RastJob) => if j.uid = u then { j with susp := false } else j }
  | k => { s with imgs := s.imgs.map fun (l : ImgLoad) =>
      if l.uid = u ∧ l.kind = k ∧ l.slot = e.ref then { l with susp := false } else l }

/-- A saved team's area after the copy at the head of a channel was aborted: the write pointer and status, and the copies that the
bound barrier still waits for (R355). -/
def State.abortArea (s : State) (v : Saved) (ch : Nat) (cn : Chan) (b : Option Nat) : State :=
  let offs := saveOffs v.team.gangs v.team.nreg v.team.scr v.team.acc (v.threads.countP fun x => x.2.trav.isSome)
  let s := s.physPut (v.addr + offs.getD 7 0 + 64 * ch) (toBytes 8 cn.wp ++ toBytes 4 (chanStatus cn))
  match b with
  | some b =>
    let a := v.addr + offs.getD 5 0 + 16 * b + 4
    s.physPut a (toBytes 4 (ofBytes (memBytes s.mem a 4) - 1))
  | none => s

/-- ABORT of the copy at the head of a saved team's channel (R109): the pointer takes its remaining bytes, the barrier or the channel
notes the error, the completion word says so. -/
def State.abortSaved (s : State) (v : Saved) (ch : Nat) : State :=
  let cn := v.chan ch
  match cn.queue with
  | [] => s
  | c :: rest =>
    let cn := { cn with wp := (cn.wp + (c.total - c.at_)) % 2 ^ 64, queue := rest, err := cn.err || c.bar.isNone }
    let v' := v.setChan ch cn
    let bars := match c.bar with
      | some b => NMap.put v.team.bars b { NMap.get {} v.team.bars b with error := true }
      | none => v.team.bars
    let s := (s.setSaved { v' with team := { v'.team with bars := bars } }).abortArea v ch cn c.bar
    match c.done with
    | some (va, scope) => s.writeCw ⟨v.team.core, v.team.slice, c.priv, v.uid, v.team.launch⟩ va scope (2 * 2 ^ 62 + c.total % 2 ^ 48)
    | none => s

/-- ABORT of a copy (R109), of a resident or a saved team. -/
def State.abortCopy (s : State) (u ch : Nat) : State :=
  match s.saved.find? fun (v : Saved) => v.uid == u with
  | some v => s.abortSaved v ch
  | none => match (s.chan u ch).queue with
    | c :: _ =>
      let cn := s.chan u ch
      (s.setChan u ch { cn with wp := (cn.wp + (c.total - c.at_)) % 2 ^ 64 }).finishCopy u ch true
    | [] => s

/-- ABORT of a suspended engine operation: a copy ends as R109 says, a sampler job fills its remaining lanes with NaN (R257),
the rasteriser goes on with the next fragment (R260), and a load leaves its slot and fills a free value. -/
def State.abortOp (s : State) (e : FEntry) : State :=
  let u := e.uid
  match e.eng / 16 with
  | 0 => s.abortCopy u e.ref
  | 3 => match s.samples.find? fun j => j.id == e.ref && j.uid == u with
    | some j =>
      let s := { s with samples := s.samples.erase j }
      (j.lanes.foldl (fun s l => s.fillRegs u l.1 (sampleVals j.d (List.replicate 4 f32.cnan))) s).engineDone u
    | none => s
  | 5 => { s with rasts := s.rasts.map fun (j : RastJob) =>
      if j.uid = u ∧ j.susp then { j with susp := false, pix := j.pix + 1 } else j }
  | k => match s.imgs.find? fun l => l.uid == u && l.kind == k && l.slot == e.ref with
    | some l =>
      let s := { s with imgs := s.imgs.erase l }
      (s.fillLanes u l.gang l.lanes l.d (toW (Config.freeWord (s.tick * 2 ^ 32)))).engineDone u
    | none => s

/-- Carries out a command of KETTLE.FAULT on a slice. -/
def State.faultCmd (s : State) (k cmd queue seq : Nat) : State :=
  if cmd = 5 then
    match NMap.find s.ringLid ((4 * k + queue) * 65536 + seq % 65536) with
    | none => s.refuseFault k
    | some l =>
      if 65536 ≤ seq ∨ !(s.launch l).live ∨ (s.launch l).dying.isSome then s.refuseFault k
      else s.abortLaunch l (if (s.launch l).posted then 2 else 3)
  else if cmd = 0 ∨ 5 < cmd then s
  else
    match s.entryOf k seq with
    | none => s.refuseFault k
    | some e =>
      let fits := match cmd with
        | 1 => e.kind == 1
        | 2 => e.kind != 6 && e.launch != 0
        | _ => e.kind == 2
      if e.answered ∨ !fits then s.refuseFault k
      else
        match cmd with
        | 1 => s.resumeTeam k e
        | 2 => let s := s.answered k seq
          if (s.launch e.launch).live ∧ (s.launch e.launch).dying.isNone then
              s.abortLaunch e.launch (if (s.launch e.launch).posted then 2 else 3)
            else s
        | 3 => (s.answered k seq).resumeOp e
        | _ => (s.answered k seq).abortOp e

/-- A write to KETTLE.FAULT: while the slice is out it takes effect at restore; a slice that is not its group's lead has no
effect (R24). -/
def State.writeFault (s : State) (k v : Nat) : State :=
  if s.lead k ≠ k then s
  else if nbit (s.sysr 0x22 k) 29 then { s with lateCmds := s.lateCmds ++ [(k, BitVec.ofNat 64 v)] }
  else s.faultCmd k (bits v 63 60) (bits v 33 32) (v % 2 ^ 32)

/-- One command as a write by the host. -/
def hostFault (k cmd queue : Nat) (seq : BitVec 32) (s : State) : Res :=
  .next (if k < 8 ∧ !s.recovery then s.writeFault k (cmd * 2 ^ 60 + queue % 4 * 2 ^ 32 + seq.toNat) else s)

/-- EVENT RESUME (R352). -/
def execResume (slice : Nat) (seq : BitVec 32) (s : State) : Res := hostFault slice 1 0 seq s
/-- EVENT ABORT_LAUNCH (R352). -/
def execAbortLaunch (slice : Nat) (seq : BitVec 32) (s : State) : Res := hostFault slice 2 0 seq s
/-- EVENT RESUME_OPERATION (R352). -/
def execResumeOperation (slice : Nat) (seq : BitVec 32) (s : State) : Res := hostFault slice 3 0 seq s
/-- EVENT ABORT_OPERATION (R352). -/
def execAbortOperation (slice : Nat) (seq : BitVec 32) (s : State) : Res := hostFault slice 4 0 seq s
/-- EVENT ABORT_LAUNCH_BY_SEQ (R352). -/
def execAbortLaunchBySeq (slice : Nat) (queue : BitVec 2) (seq : BitVec 32) (s : State) : Res := hostFault slice 5 queue.toNat seq s

/-- A write to FAULTQ.CTL (R351): entries that waited are written as far as they fit. -/
def State.writeFaultqCtl (s : State) (k v : Nat) : State :=
  let old := s.sysr 0x25 k
  let keep (b : Nat) : Nat := if nbit v b then 0 else bits old b b * 2 ^ b
  let s := s.setSys 0x25 k (bits v 31 31 * 2 ^ 31 + keep 30 + keep 29 + bits v 21 16 * 2 ^ 16 + old % 64)
  if s.lead k = k then s.postAll k else s

/-- EVENT FAULTQ_CTL_WRITE (R351). -/
def execFaultqCtlWrite (slice : Nat) (v : BitVec 32) (s : State) : Res :=
  .next (if slice < 8 ∧ !s.recovery then s.writeFaultqCtl slice v.toNat else s)

/-- EVENT CTXSW_RESTORE_DONE (R72, R358): the slice state is read back, OUT is cleared, and the commands written while the
slice was out take effect; a poisoned slice state fences the slice. -/
def execCtxswRestoreDone (slice : Nat) (s : State) : Res :=
  let k := slice
  if NMap.get 0 s.ctx k ≠ 2 then .next s
  else
    let s := { s with ctx := NMap.put s.ctx k 0 }
    let s := s.clrSysBit 0x22 k 31
    if s.physBad (s.ctxBase k) 4096 then .next (s.fenceSlice k (s.ctxBase k))
    else
      let s := s.clrSysBit 0x22 k 29
      let cmds := s.lateCmds.filter fun c => c.1 == k
      let s := { s with lateCmds := s.lateCmds.filter fun c => c.1 != k }
      .next (cmds.foldl (fun s c => s.faultCmd k (bits c.2.toNat 63 60) (bits c.2.toNat 33 32) (c.2.toNat % 2 ^ 32)) s)

/-! Carves and slice groups. -/

/-- A write to DIE.CARVE (R17, R249): the die's Cistern lines leave first. Which lines of the cache's own new carves displace is not stated:
every copy that the die's cache holds is written back and dropped (DESIGN CHOICE, log 73). -/
def State.writeCarve (s : State) (d v : Nat) : State :=
  let old := s.sysr 0x10 d
  let busy := s.teams.any fun e => e.2.live && coreDie e.2.core == d
  if 32 < bits v 13 8 ∨ 32 < v % 64 ∨ busy ∨ s.dieFlits d ≠ 0 then s.setSysBit 0x10 d 31
  else
    let ls := (s.cistern.filter fun c => c.home / 32 == d).map (·.line)
    let s := (ls.foldl (fun s l => s.cisEvict l) s).evictAll (192 + d) (fun _ => true) 0 0
    let err := if nbit v 31 then 0 else bits old 31 31 * 2 ^ 31
    s.setSys 0x10 d (err + bits v 13 8 * 2 ^ 8 + v % 64)

/-- EVENT DIE_CARVE_WRITE (R17). -/
def execDieCarveWrite (die : Nat) (v : BitVec 32) (s : State) : Res :=
  .next (if die < 2 ∧ !s.recovery then s.writeCarve die v.toNat else s)

/-- A write to SLICE.GROUP (R24, R343): refused unless every slice whose group changes is out and holds no saved team. What a slice
that joins has queued or awaits is its lead's from then on: a group has one set of queues and one cap (log 70). -/
def State.writeGroup (s : State) (v : Nat) : State :=
  let old := s.sysr 0x41 0
  let err := if nbit v 31 then 0 else bits old 31 31 * 2 ^ 31
  let s' := s.setSys 0x41 0 (err + v % 128)
  let changed := (List.range 8).filter fun k => s.members k != s'.members k
  let ok := changed.all fun k => nbit (s.sysr 0x22 (s.lead k)) 29 && !(s.saved.any fun (x : Saved) => s.lead x.team.slice == s.lead k)
  if !ok then s.setSysBit 0x41 0 31
  else { s' with
    sendQ := s'.sendQ.map fun (q : QMsg) => { q with slice := s'.lead q.slice },
    remote := s'.remote.map fun (r : RemOp) => { r with slice := s'.lead r.slice },
    heads := s'.heads.map fun (k, h) => (k, if changed.contains k then { h with encRef := none } else h) }

/-- EVENT SLICE_GROUP_WRITE (R24). -/
def execSliceGroupWrite (v : BitVec 32) (s : State) : Res := .next (if s.recovery then s else s.writeGroup v.toNat)

/-! Invalidation (R81). -/

/-- Does a translation belong to an invalidation: of a page, or of all (0; else the address plus one)? -/
def invalHit (x : Nat) (e : Tlb) : Bool := x == 0 || (e.va ≤ x - 1 && x - 1 < e.va + e.size)

/-- The faults that a Sluice holds back for copies of a slice's teams go with the translations (R81, R83). -/
def State.dropMet (s : State) (k : Nat) : State :=
  let old (tm : Team) : Team :=
    { tm with chans := tm.chans.map fun (c : Nat × Chan) =>
        (c.1, { c.2 with queue := c.2.queue.map fun (c : Copy) => { c with met := [] } }) }
  { s with teams := s.teams.map fun (e : Nat × Team) => if s.lead e.2.slice = k then (e.1, old e.2) else e }

/-- A write to XLAT.INVAL. One with MODE 0 or 3 asks for nothing, so BUSY does not refuse it and ERR is not set (DESIGN CHOICE,
log 64). -/
def State.writeInval (s : State) (k v : Nat) : State :=
  let s := if nbit v 62 then s.clrSysBit 0x29 k 62 else s
  let mode := v % 4
  if mode = 0 ∨ mode = 3 ∨ s.lead k ≠ k then s
  else if nbit (s.sysr 0x29 k) 63 then s.setSysBit 0x29 k 62
  else
    let x := if mode = 1 then bits v 56 12 * 4096 + 1 else 0
    let s := ((s.setSysBit 0x29 k 63).dropTlb k (invalHit x)).dropMet k
    { s with invals := s.invals ++ [(k, x)] }

/-- EVENT XLAT_INVAL_PAGE (R81). -/
def execXlatInvalPage (slice va : Nat) (s : State) : Res :=
  .next (if slice < 8 ∧ !s.recovery then s.writeInval slice (bits va 56 12 * 4096 + 1) else s)

/-- EVENT XLAT_INVAL_ALL (R81). -/
def execXlatInvalAll (slice : Nat) (s : State) : Res :=
  .next (if slice < 8 ∧ !s.recovery then s.writeInval slice 2 else s)

/-- Is an access still on its way that used a removed translation, or a walk begun before the write (R81)? -/
def State.invalBusy (s : State) (k x : Nat) : Bool :=
  let hit (tr : Option Tlb) : Bool := match tr with
    | some e => e.slice == k && invalHit x e
    | none => false
  let mine (u : Nat) : Bool := s.lead (s.team u).slice == k
  let rel (th : Thread) : Bool := match th.mwait with
    | .rel _ _ tr _ => hit tr
    | _ => false
  s.atoms.any (fun p => hit p.tr) || s.scops.any (fun p => hit p.tr) || s.cisAdds.any (fun (a : CisAdd) => mine a.uid)
  || s.loads.any (fun (f : Fill) => hit (f.src.bind (·.tr))) || s.parts.any (fun (p : EngPart) => hit (some p.tr))
  || s.servings.any (fun (v : Serving) => hit (some v.tr)) || s.threads.any (fun e => rel e.2)
  || s.caddyOps.any (fun (o : CaddyOp) => s.lead o.slice == k)
  || s.oplogs.any (fun g => g.2.any (fun l => !l.deferred) && mine (g.1 / 32))

/-- EVENT XLAT_INVAL_DONE (R81): BUSY clears. -/
def execXlatInvalDone (slice : Nat) (s : State) : Res :=
  match s.invals.find? fun i => i.1 == slice with
  | none => .next s
  | some i =>
    if s.invalBusy slice i.2 then .next s
    else .next { s.clrSysBit 0x29 slice 63 with invals := s.invals.erase i }

/-! Snapshots and power. -/

/-- A write to SNAP.CTL (R359). -/
def State.writeSnap (s : State) (v : Nat) : State :=
  let r := s.sysr 0x40 0
  let valid := if nbit v 28 then 0 else bits r 28 28 * 2 ^ 28
  let s := s.setSys 0x40 0 (bits v 30 29 * 2 ^ 29 + valid + r % 2 ^ 16)
  if nbit v 31 then s.trigger else s

/-- EVENT SNAP_TRIGGER (R359). -/
def execSnapTrigger (s : State) : Res := .next (if s.recovery then s else s.trigger)

/-- A write to POWER.CAP (R365). -/
def State.writePowerCap (s : State) (v : Nat) : State :=
  let old := s.sysr 0x50 0
  if v % 65536 < 500 ∨ 4000 < v % 65536 then s.setSysBit 0x50 0 30
  else s.setSys 0x50 0 (bits v 31 31 * 2 ^ 31 + (if nbit v 30 then 0 else bits old 30 30 * 2 ^ 30) + v % 65536)

/-- EVENT POWER_CAP_WRITE (R365). -/
def execPowerCapWrite (v : BitVec 32) (s : State) : Res := .next (if s.recovery then s else s.writePowerCap v.toNat)

/-- EVENT FSTEP_ADJUST (R26, R365): firmware takes in the mean draw and moves FSTEP one step. -/
def execFstepAdjust (watts : BitVec 16) (s : State) : Res :=
  let cap := s.sysr 0x50 0
  let f := bits (s.sysr 0x51 0) 23 16
  let past := nbit cap 31 && cap % 65536 < watts.toNat
  let f' := if past then max 12 (f - 1) else min 36 (f + 1)
  .next (s.setSys 0x51 0 (f' * 2 ^ 16 + watts.toNat))

/-! Firmware (R363, R364). -/

/-- The physical address of a host address. -/
def hostPa (a : Nat) : Nat := 2 ^ 56 + a % 2 ^ 56

/-- Firmware writes bytes to host memory. -/
def State.fwPut (s : State) (a : Nat) (bs : List Byte) : State := s.physPut (hostPa a) bs

/-- Does an image pass the boot ROM's checks (R363): its key is the fused one, its signature holds, its version is not below the
fused counter? -/
def State.imageOk (s : State) (img : List Byte) : Bool :=
  Config.sha3 (Config.imageKey img) == Config.fusedKey && Config.imageSigned img (Config.imageKey img)
  && s.rollback ≤ Config.imageVersion img

/-- The image that a reset loads, and the one that runs. -/
def State.bootImage (s : State) : List Byte := s.fwImage.getD (s.fwRun.getD Config.ownImage)
@[inherit_doc State.bootImage] def State.runImage (s : State) : List Byte := s.fwRun.getD Config.ownImage

/-- The values of the identity registers (R345, R360). -/
def State.idRegs (s : State) : List Nat :=
  [s.sysr 0x48 0] ++ (List.range 3).map (s.sysr 0x49) ++ [s.sysr 0x4A 0, s.sysr 0x4B 0] ++ (List.range 8).map (s.sysr 0x4C)

/-- A write to FW.MBOX: a command while another runs is refused at once. -/
def State.writeMbox (s : State) (v : Nat) : State :=
  let cmd := bits v 63 56
  let buf := v % 2 ^ 56 / 4096 * 4096
  let s := s.setSys 0x58 0 v
  match s.fwBusy with
  | some _ => { s.fwPut buf (toBytes 4 0xFFFFFFFF) with out := s.out ++ [Out.msix 9] }
  | none => if 1 ≤ cmd ∧ cmd ≤ 3 then { s with fwBusy := some (cmd, buf) } else s

/-- EVENT FW_ATTEST (R364). -/
def execFwAttest (buf : Nat) (s : State) : Res := .next (s.writeMbox (2 ^ 56 + buf % 2 ^ 56))
/-- EVENT FW_STAGE (R364). -/
def execFwStage (buf : Nat) (s : State) : Res := .next (s.writeMbox (2 * 2 ^ 56 + buf % 2 ^ 56))
/-- EVENT FW_STATUS (R364). -/
def execFwStatus (buf : Nat) (s : State) : Res := .next (s.writeMbox (3 * 2 ^ 56 + buf % 2 ^ 56))

/-- What firmware writes after the result word of a command (R364): the report over the nonce at buffer + 64, nothing for STAGE, the
versions and the rollback counter. -/
def State.fwAnswer (s : State) (cmd buf : Nat) : List Byte :=
  match cmd with
  | 1 => Config.report s.measures s.idRegs (Config.imageVersion s.runImage) (memBytes s.mem (hostPa (buf + 64)) 32)
  | 2 => []
  | _ => Config.statusForm (Config.imageVersion s.runImage) s.rollback

/-- EVENT FW_MBOX_RESULT (R364): firmware finishes the command: it writes the result word and raises vector 9. The result word and
the forms of the answers are free values (log 29). STAGE keeps an image that passes the checks of R363. -/
def execFwMboxResult (s : State) : Res :=
  match s.fwBusy with
  | none => .next s
  | some (cmd, buf) =>
    let img := memBytes s.mem (hostPa buf) Config.imageSize
    let s1 := s.fwPut buf (toBytes 4 (Config.freeWord (s.tick * 2 ^ 64)) ++ s.fwAnswer cmd buf)
    .next { s1 with
      fwBusy := none, out := s1.out ++ [Out.msix 9], fwImage := if cmd = 2 ∧ s.imageOk img then some img else s1.fwImage }

/-- The measurement registers after a stage extends one of them, which the spec does not name, with the hash of an image (R363,
log 67). -/
def extendMeas (k : Nat) (ms : List Nat) (img : List Byte) : List Nat :=
  ms.set k (Config.sha3 (toBytes 32 (ms.getD k 0) ++ toBytes 32 (Config.sha3 img)))

/-- The measurements after a boot: each stage that is loaded, the image first, extends one register (R363). -/
def bootMeas (tick : Nat) (img : List Byte) : List Nat :=
  ((img :: Config.nextStages img).zipIdx).foldl (fun ms x => extendMeas (Config.freeChoice (tick * 2 ^ 64 + x.2) % 8) ms x.1)
    (List.replicate 8 0)

/-- EVENT RESET (R363): the boot ROM checks the image that it is to load, the staged one if there is one, else the one that ran, and loads
and measures it. `ok` says whether the checks pass for an image of the module's own, which the model does not see. Memory, the
part's identity and the fused counter stay; a failure leaves the device in recovery. -/
def execReset (ok : Bool) (s : State) : Res :=
  let id := s.sys.filter fun e => 0x4800 ≤ e.1 && e.1 < 0x5000 && e.1 != 0x4A00
  let pass : Bool := match s.fwImage.or s.fwRun with
    | some img => s.imageOk img
    | none => ok
  .next { State.reset with
    agenda := s.agenda, tick := s.tick, out := s.out, mem := s.mem, poison := s.poison, sys := id, pcieWidth := s.pcieWidth,
    pcieRate := s.pcieRate, recovery := !pass, rollback := s.rollback,
    fwRun := if pass ∧ s.fwImage.isSome then s.fwImage else s.fwRun,
    measures := if pass then bootMeas s.tick s.bootImage else List.replicate 8 0 }

/-! Attachments (R361, R362). -/

/-- EVENT HOST_LINK_TRAINING (R361): the trained width, 1 to 16 lanes, and rate in GT/s. -/
def execHostLinkTraining (width rate : Nat) (s : State) : Res :=
  .next (if [1, 2, 4, 8, 16].contains width ∧ 0 < rate ∧ rate ≤ 128 then { s with pcieWidth := width, pcieRate := rate } else s)

/-- EVENT CXL_LINK_UP (R362): a device of a capacity in GiB. -/
def execCxlLinkUp (gib : Nat) (s : State) : Res :=
  .next (s.setSys 0x4A 0 (s.sysr 0x4A 0 % 2 ^ 17 + 2 ^ 17 + min gib 16383 * 2 ^ 18))

/-- Does a pending operation name CXL memory? -/
def pendCxl (p : Pend) : Bool := match p.tr with
  | some e => inCxl (e.paOf p.va)
  | none => false

/-- EVENT CXL_LINK_DOWN (R362): the operations already on their way to the range are performed, and the range is absent. -/
def execCxlLinkDown (s : State) : Res :=
  let now := s.atoms.filter pendCxl ++ s.scops.filter pendCxl
  let s := now.foldl State.perform { s with
    atoms := s.atoms.filter (fun p => !pendCxl p), scops := s.scops.filter (fun p => !pendCxl p) }
  .next (s.setSys 0x4A 0 (s.sysr 0x4A 0 % 2 ^ 17))

/-! Errors (R358). -/

/-- Counts an error of a die in the low or high half of ERR.COUNT, saturating. -/
def State.countErr (s : State) (d : Nat) (uncorrected : Bool) : State :=
  let x := s.sysr 0x11 d
  let lo := x % 65536
  let hi := x / 65536 % 65536
  if uncorrected then s.setSys 0x11 d (lo + 65536 * min 65535 (hi + 1)) else s.setSys 0x11 d (min 65535 (lo + 1) + 65536 * hi)

/-- EVENT LINE_POISONED (R358, R362): an uncorrectable error marks a line poisoned at its home slice; vector 8 tells of it (R361,
log 66). -/
def execLinePoisoned (line : Nat) (s : State) : Res :=
  if !s.present (64 * line) 64 then .next s
  else
    let s := s.countErr (homeDie (64 * line)) true
    let s := { s with out := s.out ++ [Out.msix 8] }
    .next (if s.poison.contains line then s else { s with poison := line :: s.poison })

/-- EVENT CORRECTED_ERROR (R358). -/
def execCorrectedError (die : Nat) (s : State) : Res := .next (if die < 2 then s.countErr die false else s)

end Sys2Proof.Machine
end

