-- ==== Sys2Proof/Machine/Lane.lean ====
section
/-!
DEFINITION. Gang-collective lane operations (R162 to R167), the vector and uniform exchange (R173) and the uniform
operations (R174).
-/

namespace Sys2Proof.Machine

/-- The LANE instructions: `f L c` is the source lane, none where it lies outside 0 to 31 (R162). -/
def laneOp (f : Nat → Nat → Option Nat) (d a b : VReg) (s : State) : Res :=
  .next (s.lanes fun s l =>
    let c := (s.rv l b.toNat).toNat % 32
    s.setV l d.toNat (match f l c with
      | some k => if s.iss.lanes.contains k then s.rv k a.toNat else s.rv l a.toNat
      | none => s.rv l a.toNat))

def execLanePick (d a b : VReg) (s : State) : Res := laneOp (fun _ c => some c) d a b s
def execLaneRise (d a b : VReg) (s : State) : Res := laneOp (fun l c => if c ≤ l then some (l - c) else none) d a b s
def execLaneFall (d a b : VReg) (s : State) : Res := laneOp (fun l c => if l + c < 32 then some (l + c) else none) d a b s
def execLaneSwap (d a b : VReg) (s : State) : Res := laneOp (fun l c => some (l ^^^ c)) d a b s

/-- One value for every active lane. -/
def toAll (x : Word) (d : VReg) (s : State) : Res := .next (s.lanes fun s l => s.setV l d.toNat x)

/-- The values of a register over the active lanes, in ascending lane order. -/
def State.column (s : State) (a : VReg) : List Word := s.iss.lanes.map fun l => s.rv l a.toNat

def execPollSome (d a : VReg) (s : State) : Res := toAll (if (s.column a).any (· != 0) then 1 else 0) d s
def execPollEvery (d a : VReg) (s : State) : Res := toAll (if (s.column a).all (· != 0) then 1 else 0) d s
/-- POLL.MASK: bit L for each active lane whose predicate holds (R163). -/
def execPollMask (d a : VReg) (s : State) : Res :=
  toAll (s.iss.lanes.foldl (fun m l => if s.rv l a.toNat != 0 then m ||| toW (2 ^ l) else m) 0) d s

/-- A fold of the active lanes' values, from the lowest lane's. -/
def foldWith (f : Word → Word → Word) (a : VReg) (s : State) : Word :=
  match s.column a with
  | [] => 0
  | x :: xs => xs.foldl f x

def execFoldAddI32 (d a : VReg) (s : State) : Res := toAll (foldWith (· + ·) a s) d s
def execFoldMinI32 (d a : VReg) (s : State) : Res := toAll (foldWith minI a s) d s
def execFoldMaxI32 (d a : VReg) (s : State) : Res := toAll (foldWith maxI a s) d s

/-- One level of the tree of FOLD.FADD.F32 (R164): pairs are added, an absent partner passes the other on. -/
def fadLevel (ftz : Bool) : List (Option Nat) → List (Option Nat)
  | x :: y :: rest =>
    (match x, y with
      | x, none => x
      | none, y => y
      | some a, some b => some (fAdd f32 0 ftz a b)) :: fadLevel ftz rest
  | l => l

/-- The tree's root over 32 lanes. -/
def fadTree (ftz : Bool) (l : List (Option Nat)) : Option Nat :=
  ((fadLevel ftz (fadLevel ftz (fadLevel ftz (fadLevel ftz (fadLevel ftz l))))).head?).join

/-- A source of FOLD.FADD.F32 as the tree takes it: flushed under FTZ32 (R116), a NaN canonical (R112), since one that meets no partner
is the result. -/
def foldSrc (ftz : Bool) (x : Nat) : Nat := if isNan32 x then f32.cnan else flushF f32 ftz x

/-- FOLD.FADD.F32 (R164), with FTZ32 applied. -/
def execFoldFaddF32 (d a : VReg) (s : State) : Res :=
  let t := (List.range 32).map fun l =>
    if s.iss.lanes.contains l then some (foldSrc s.ftz32 (s.rv l a.toNat).toNat) else none
  toAll (toW ((fadTree s.ftz32 t).getD 0)) d s

/-- SCAN.ADD.I32: lane L receives the sum over the active lanes up to L (R164). -/
def execScanAddI32 (d a : VReg) (s : State) : Res :=
  .next (s.lanes fun s l =>
    s.setV l d.toNat (s.iss.lanes.foldl (fun acc k => if k ≤ l then acc + s.rv k a.toNat else acc) 0))

/-! BSORT (R165). -/

/-- The order of f32 keys as a number: −∞ up to +∞, then NaN; zeros equal, NaNs equal. -/
def f32Rank (x : Word) : Nat :=
  if isNan32 x.toNat then 2 ^ 33
  else if x.toNat % 2 ^ 31 = 0 then 2 ^ 32
  else if x.msb then 2 ^ 32 - x.toNat % 2 ^ 31
  else 2 ^ 32 + x.toNat % 2 ^ 31

/-- Inserts a pair behind those that do not come after it, so that equal keys keep their order. -/
def insBy {α : Type} (before : α → α → Bool) (x : α) : List α → List α
  | [] => [x]
  | y :: ys => if before x y then x :: y :: ys else y :: insBy before x ys

/-- A stable sort: `before x y` says x must come before y. -/
def sortBy {α : Type} (before : α → α → Bool) (l : List α) : List α := l.foldl (fun acc x => insBy before x acc) []

/-- BSORT (R165). -/
def execBsort (d : VReg) (a : UReg) (s : State) : Res :=
  let mode := (s.ru a.toNat).toNat
  let count := bits mode 14 8
  if bits mode 31 15 ≠ 0 ∨ bits mode 7 2 ≠ 0 ∨ count = 0 ∨ 64 < count then
    raise { cause := .illegalField, lane := s.low } s
  else
    let poss := (List.range count).filter fun k => s.iss.lanes.contains (k % 32)
    let pairs := poss.map fun k => (s.rv (k % 32) (d.toNat + k / 32), s.rv (k % 32) (d.toNat + 2 + k / 32))
    let rank (x : Word) : Nat := if nbit mode 0 then f32Rank x else x.toNat
    let before (x y : Word × Word) : Bool := if nbit mode 1 then rank y.1 < rank x.1 else rank x.1 < rank y.1
    let out := sortBy before pairs
    .next ((poss.zip out).foldl (fun s (k, kp) =>
      (s.setV (k % 32) (d.toNat + k / 32) kp.1).setV (k % 32) (d.toNat + 2 + k / 32) kp.2) s)

/-! INTERSECT (R166). -/

/-- The list of a register: lanes from 0 up to the first that is not active or holds all ones. -/
def laneList (s : State) (r : VReg) : List Nat :=
  ((List.range 32).takeWhile fun l => s.iss.lanes.contains l && s.rv l r.toNat != 0xFFFFFFFF).map
    fun l => (s.rv l r.toNat).toNat

/-- The walk of R166: the advances of both lists and the matches, newest last. -/
def walk : Nat → List Nat → List Nat → Nat → Nat → List (Nat × Nat) → Nat × Nat × List (Nat × Nat)
  | fuel + 1, x :: xs, y :: ys, i, j, p =>
    if x < y then walk fuel xs (y :: ys) (i + 1) j p
    else if y < x then walk fuel (x :: xs) ys i (j + 1) p
    else walk fuel xs ys (i + 1) (j + 1) (p ++ [(i, j)])
  | _, _, _, i, j, p => (i, j, p)

def execIntersect (d a b : VReg) (s : State) : Res :=
  let (i, j, p) := walk 64 (laneList s a) (laneList s b) 0 0 []
  .next (s.lanes fun s l =>
    let m := match p[l]? with
      | some (x, y) => toW (x + 2 ^ 16 * y)
      | none => 0xFFFFFFFF
    (s.setV l d.toNat m).setV l (d.toNat + 1) (toW (i + 2 ^ 8 * j + 2 ^ 16 * p.length)))

/-- The order of saliencies of PRUNE (R167): a NaN above +∞, −0 equal to +0. -/
def salRank (x : Nat) : Nat := if isNan32 x then 2 ^ 32 else x % 2 ^ 31

/-- PRUNE (R167). -/
def execPrune (d a b : VReg) (m : BitVec 6) (logn : BitVec 3) (s : State) : Res :=
  let sal (l : Nat) : Nat := salRank (fMul f32 0 s.ftz32 (s.rv l a.toNat).toNat (s.rv l b.toNat).toNat)
  let n := 2 ^ logn.toNat
  .next (s.lanes fun s' l =>
    let rank := s.iss.lanes.countP fun k => k / n == l / n && (sal l < sal k || (sal k == sal l && k < l))
    s'.setV l d.toNat (if rank < m.toNat then s.rv l a.toNat else 0))

/-! Exchange and uniform operations. -/

/-- VTOS: the lowest active lane's value (R173). -/
def execVtos (d : UReg) (a : VReg) (s : State) : Res := .next (s.setU d.toNat (s.rv s.low a.toNat))
/-- STOV: the uniform value to every active lane. -/
def execStov (d : VReg) (a : UReg) (s : State) : Res := toAll (s.ru a.toNat) d s

/-- A uniform operation on s[A] and the operand o, once per issue (R174). -/
def uni (f : Word → Word → Word) (d a : UReg) (o : Word) (s : State) : Res := .next (s.setU d.toNat (f (s.ru a.toNat) o))

/-- SExt(IMM9, 9) modulo 2^32. -/
def imm9 (i : BitVec 9) : Word := i.signExtend 32

def execUadd (d a b : UReg) (s : State) : Res := uni (· + ·) d a (s.ru b.toNat) s
def execUaddImm (d a : UReg) (i : BitVec 9) (s : State) : Res := uni (· + ·) d a (imm9 i) s
def execUsub (d a b : UReg) (s : State) : Res := uni (· - ·) d a (s.ru b.toNat) s
def execUsubImm (d a : UReg) (i : BitVec 9) (s : State) : Res := uni (· - ·) d a (imm9 i) s
def execUand (d a b : UReg) (s : State) : Res := uni (· &&& ·) d a (s.ru b.toNat) s
def execUandImm (d a : UReg) (i : BitVec 9) (s : State) : Res := uni (· &&& ·) d a (imm9 i) s
def execUor (d a b : UReg) (s : State) : Res := uni (· ||| ·) d a (s.ru b.toNat) s
def execUorImm (d a : UReg) (i : BitVec 9) (s : State) : Res := uni (· ||| ·) d a (imm9 i) s
def execUxor (d a b : UReg) (s : State) : Res := uni (· ^^^ ·) d a (s.ru b.toNat) s
def execUxorImm (d a : UReg) (i : BitVec 9) (s : State) : Res := uni (· ^^^ ·) d a (imm9 i) s
def execUshl (d a b : UReg) (s : State) : Res := uni shlW d a (s.ru b.toNat) s
def execUshlImm (d a : UReg) (i : BitVec 9) (s : State) : Res := uni shlW d a (imm9 i) s
def execUshr (d a b : UReg) (s : State) : Res := uni shrN d a (s.ru b.toNat) s
def execUshrImm (d a : UReg) (i : BitVec 9) (s : State) : Res := uni shrN d a (imm9 i) s
def execUmov (d b : UReg) (s : State) : Res := .next (s.setU d.toNat (s.ru b.toNat))
def execUmovImm (d : UReg) (i : BitVec 9) (s : State) : Res := .next (s.setU d.toNat (imm9 i))

end Sys2Proof.Machine
end

