-- ==== Sys2Proof/Machine/SysRegs.lean ====
section
/-!
DEFINITION. System registers as threads and the host reach them (R9, R197, R344, R345): RDSYS, WRSYS and the host's writes to
registers that have no event of their own.
-/

namespace Sys2Proof.Machine

/-- A write to register n, instance i, in its privileged view: each register takes its writable fields, refuses what its own rule
refuses, and does what its rule says a write does. Read-only registers ignore it (R9). -/
def State.writeSys (s : State) (n i v : Nat) : State :=
  match n with
  | 0x10 => s.writeCarve i v
  | 0x11 => s.setSys 0x11 i (s.sysr 0x11 i - (s.sysr 0x11 i &&& v))
  | 0x18 => s.writeLqBase i v
  | 0x19 => s.writeLqCtl i v
  | 0x1A => s.doorbell i v
  | 0x20 => s.setSys 0x20 i (v % 2 ^ 32)
  | 0x21 => s.setSys 0x21 i (bits v 56 21 * 2 ^ 21)
  | 0x22 => s.writeCtxsw i v
  | 0x23 => s.writeFault i v
  | 0x24 => s.setSys 0x24 i (bits v 56 12 * 2 ^ 12)
  | 0x25 => s.writeFaultqCtl i v
  | 0x28 => s.setSys 0x28 i (bits v 56 12 * 2 ^ 12 + v % 2)
  | 0x29 => s.writeInval i v
  | 0x2A => s.setSys 0x2A i (bits v 56 6 * 64)
  | 0x2B => s.setSys 0x2B i (bits v 15 1 * 2)
  | 0x30 => s.writeFabricCtl v
  | 0x31 =>
    if nbit (s.sysr 0x30 0) 31 then s.setSysBit 0x30 0 30
    else s.setSys 0x31 0 (bits v 26 16 * 2 ^ 16 + v % 2 ^ 10)
  | 0x32 => if nbit (s.sysr 0x30 0) 31 then s.setSysBit 0x30 0 30 else s.setSys 0x32 0 (bits v 56 6 * 64)
  | 0x33 => s.setSys 0x33 i (v % 2 ^ 20)
  | 0x34 => s.setSys 0x34 i (v % 2)
  | 0x35 => s.setSys 0x35 0 (s.sysr 0x35 0 - (s.sysr 0x35 0 &&& v))
  | 0x38 => s.writeNodeue i v
  | 0x39 => s.writeDispCtl i v
  | 0x40 => s.writeSnap v
  | 0x41 => s.writeGroup v
  | 0x50 => s.writePowerCap v
  | 0x58 => s.writeMbox v
  | _ => s

/-- A register's value in its privileged view: write-only registers read as zero (R9). -/
def State.readSys (s : State) (n i : Nat) : Nat := if n = 0x1A ∨ n = 0x23 then 0 else s.sysr n i

/-- What a register of 32 bits, or of 64, shows of a value. -/
def regPart (w64 : Bool) (x : Nat) : Nat := if w64 then x % 2 ^ 64 else x % 2 ^ 32

/-- What a read by the host of BAR0 at a register's offset, or at that of its snapshot copy, answers (R344, R359, R361): team and
thread registers, and numbers that name no register, read as zero. In recovery only the identity registers and FW.MBOX answer
(R363); none elsewhere. -/
def State.hostRead (s : State) (off : Nat) : Option Nat :=
  let r := off / 8 % 2 ^ 16
  let n := r / 256
  let i := r % 256
  if s.recovery ∧ !((0x48 ≤ n ∧ n ≤ 0x4C) ∨ n = 0x58) then none
  else
    match sregInfo n with
    | none => some 0
    | some (w64, k) =>
      if k ≤ i ∨ n < 0x10 then some 0
      else if off < 0x80000 then some (regPart w64 (s.readSys n i))
      else some (regPart w64 (NMap.get (sysReset r) s.snap r).toNat)

/-- Does a privileged thread of a team reach this register's privileged view (R344)? -/
def State.privView (s : State) (u n i : Nat) : Bool :=
  let mine (k : Nat) : Bool := s.lead k == s.lead (s.team u).slice
  if 0x18 ≤ n ∧ n ≤ 0x1B then mine (i / 4)
  else if (0x20 ≤ n ∧ n ≤ 0x25) ∨ (0x28 ≤ n ∧ n ≤ 0x2B) ∨ n = 0x33 ∨ n = 0x34 ∨ n = 0x39 then mine i
  else 0x48 ≤ n && n ≤ 0x4C

/-- Registers whose unprivileged view reads as the privileged one: DIE.CARVE (R17), TRAV.NODEUE (R338) and the identity
registers (R360). -/
def readsAlike (n : Nat) : Bool := n == 0x10 || n == 0x38 || (0x48 ≤ n && n ≤ 0x4C)

/-- What RDSYS reads for thread t of team u. -/
def State.rdsysVal (s : State) (u t n i : Nat) : Nat :=
  let tm := s.team u
  let th := s.thr u t
  match n with
  | 0x01 => tm.status.toNat
  | 0x02 => tm.fpctl.toNat
  | 0x03 => tm.skew0.toNat
  | 0x04 => tm.skew1.toNat
  | 0x05 => tm.area.toNat
  | 0x06 => tm.lcoord.toNat
  | 0x08 => th.epc.toNat
  | 0x09 => th.detail.toNat
  | 0x0A => th.taddr.toNat
  | _ => if readsAlike n || (s.privOf u t && s.privView u n i) then s.readSys n i else 0

/-- What WRSYS of a value does for thread t of team u. TEAM.STATUS takes writes of one to its flags (R215), TEAM.FPCTL two bits
(R116), the skew registers [31:7] (R85), RAST.AREA_LIMIT 24 bits (R258), TRAP.EPC its position (R349). -/
def State.wrsysVal (s : State) (u t n i v : Nat) : State :=
  let tm := s.team u
  let th := s.thr u t
  match n with
  | 0x01 => s.setTeam u { tm with status := tm.status &&& ~~~(toW v &&& 0xE0000000) }
  | 0x02 => s.setTeam u { tm with fpctl := toW (v % 4) }
  | 0x03 => s.writeSkew u false (toW v)
  | 0x04 => s.writeSkew u true (toW v)
  | 0x05 => s.setTeam u { tm with area := toW (v % 2 ^ 24) }
  | 0x08 => s.setThr u t { th with epc := BitVec.ofNat 64 (v % 2 ^ 57) }
  | _ => if s.privOf u t && s.privView u n i then s.writeSys n i v else s

/-- Is register n one of a thread's, and is some active lane outside handler mode (R344)? The lowest such lane. -/
def State.sysTrap (s : State) (n : Nat) : Option Nat :=
  if 0x08 ≤ n ∧ n ≤ 0x0A then s.iss.lanes.find? fun l => !(s.thL l).handler else none

/-- RDSYS (R197). -/
def execRdsys (d : VReg) (w64 : Bool) (sreg : BitVec 16) (s : State) : Res :=
  let n := sreg.toNat / 256
  let i := sreg.toNat % 256
  match s.sysTrap n with
  | some l => raise { cause := .access, lane := l } s
  | none => .next (s.lanes fun s l =>
      let x := s.rdsysVal s.iss.uid (s.tOf l) n i
      if w64 then s.setP l d.toNat x else s.setV l d.toNat (toW x))

/-- WRSYS (R197): once for each active lane, in ascending order. A write of a skew register waits until the team has no
scratchpad access in flight (R85), those of its own group apart (R132). -/
def execWrsys (a : VReg) (w64 : Bool) (sreg : BitVec 16) (s : State) : Res :=
  let n := sreg.toNat / 256
  let i := sreg.toNat % 256
  match s.sysTrap n with
  | some l => raise { cause := .access, lane := l, write := true } s
  | none =>
    if (n = 0x03 ∨ n = 0x04) ∧ !s.iss.judged ∧ s.scrBusy s.iss.uid then stall s
    else .next (s.lanes fun s l =>
      s.wrsysVal s.iss.uid (s.tOf l) n i (if w64 then s.rp l a.toNat else (s.rv l a.toNat).toNat))

/-- EVENT SYSREG_WRITE (R344): the host writes a register through BAR0. Team and thread registers ignore it, and in recovery only
FW.MBOX takes a write (R363). -/
def execSysregWrite (sreg : BitVec 16) (v : BitVec 64) (s : State) : Res :=
  let n := sreg.toNat / 256
  let i := sreg.toNat % 256
  match sregInfo n with
  | none => .next s
  | some (w64, k) =>
    if k ≤ i ∨ n < 0x10 ∨ (s.recovery ∧ n ≠ 0x58) then .next s
    else .next (s.writeSys n i (if w64 then v.toNat else v.toNat % 2 ^ 32))

end Sys2Proof.Machine
end

