-- ==== Sys2Proof/Machine/Dispatch.lean ====
section
/-!
DEFINITION. The meaning of every instruction and event: one arm per row of the opcode table, one direct call each.
-/

namespace Sys2Proof.Machine

open Sys2Proof

def exec (i : Instr) (s : State) : Host.Outcome State Fault Refusal :=
  match i with
  | .iadd d a b _ _ => Sys2Proof.Machine.execIadd d a b s
  | .isub d a b _ _ => Sys2Proof.Machine.execIsub d a b s
  | .iaddx d a b _ _ => Sys2Proof.Machine.execIaddx d a b s
  | .isubx d a b _ _ => Sys2Proof.Machine.execIsubx d a b s
  | .imul d a b _ _ => Sys2Proof.Machine.execImul d a b s
  | .imulhI32 d a b _ _ => Sys2Proof.Machine.execImulhI32 d a b s
  | .imulhN32 d a b _ _ => Sys2Proof.Machine.execImulhN32 d a b s
  | .iminI32 d a b _ _ => Sys2Proof.Machine.execIminI32 d a b s
  | .iminN32 d a b _ _ => Sys2Proof.Machine.execIminN32 d a b s
  | .imaxI32 d a b _ _ => Sys2Proof.Machine.execImaxI32 d a b s
  | .imaxN32 d a b _ _ => Sys2Proof.Machine.execImaxN32 d a b s
  | .iaddsI32 d a b _ _ => Sys2Proof.Machine.execIaddsI32 d a b s
  | .iaddCc c d a b _ _ => Sys2Proof.Machine.execIaddCc c d a b s
  | .isubCc c d a b _ _ => Sys2Proof.Machine.execIsubCc c d a b s
  | .iaddxCc c d a b _ _ => Sys2Proof.Machine.execIaddxCc c d a b s
  | .isubxCc c d a b _ _ => Sys2Proof.Machine.execIsubxCc c d a b s
  | .imulCc c d a b _ _ => Sys2Proof.Machine.execImulCc c d a b s
  | .imulhI32Cc c d a b _ _ => Sys2Proof.Machine.execImulhI32Cc c d a b s
  | .imulhN32Cc c d a b _ _ => Sys2Proof.Machine.execImulhN32Cc c d a b s
  | .iminI32Cc c d a b _ _ => Sys2Proof.Machine.execIminI32Cc c d a b s
  | .iminN32Cc c d a b _ _ => Sys2Proof.Machine.execIminN32Cc c d a b s
  | .imaxI32Cc c d a b _ _ => Sys2Proof.Machine.execImaxI32Cc c d a b s
  | .imaxN32Cc c d a b _ _ => Sys2Proof.Machine.execImaxN32Cc c d a b s
  | .iaddsI32Cc c d a b _ _ => Sys2Proof.Machine.execIaddsI32Cc c d a b s
  | .icmp c a b _ _ => Sys2Proof.Machine.execIcmp c a b s
  | .fcmpF32 c a b _ _ => Sys2Proof.Machine.execFcmpF32 c a b s
  | .iadd64 d a b _ _ => Sys2Proof.Machine.execIadd64 d a b s
  | .isub64 d a b _ _ => Sys2Proof.Machine.execIsub64 d a b s
  | .addr d a b _ _ => Sys2Proof.Machine.execAddr d a b s
  | .and d a b _ _ => Sys2Proof.Machine.execAnd d a b s
  | .or d a b _ _ => Sys2Proof.Machine.execOr d a b s
  | .xor d a b _ _ => Sys2Proof.Machine.execXor d a b s
  | .shl d a b _ _ => Sys2Proof.Machine.execShl d a b s
  | .shrN32 d a b _ _ => Sys2Proof.Machine.execShrN32 d a b s
  | .shrI32 d a b _ _ => Sys2Proof.Machine.execShrI32 d a b s
  | .popc d a _ => Sys2Proof.Machine.execPopc d a s
  | .clz d a _ => Sys2Proof.Machine.execClz d a s
  | .bfx d a b _ _ => Sys2Proof.Machine.execBfx d a b s
  | .bfi d a b _ _ => Sys2Proof.Machine.execBfi d a b s
  | .iaddi d a imm => Sys2Proof.Machine.execIaddi d a imm s
  | .andi d a imm => Sys2Proof.Machine.execAndi d a imm s
  | .ori d a imm => Sys2Proof.Machine.execOri d a imm s
  | .xori d a imm => Sys2Proof.Machine.execXori d a imm s
  | .shli d a imm => Sys2Proof.Machine.execShli d a imm s
  | .shri d a imm => Sys2Proof.Machine.execShri d a imm s
  | .movi d imm => Sys2Proof.Machine.execMovi d imm s
  | .faddF32 r d a b _ _ => Sys2Proof.Machine.execFaddF32 r d a b s
  | .fsubF32 r d a b _ _ => Sys2Proof.Machine.execFsubF32 r d a b s
  | .fmulF32 r d a b _ _ => Sys2Proof.Machine.execFmulF32 r d a b s
  | .ffmaF32 r d a b _ _ => Sys2Proof.Machine.execFfmaF32 r d a b s
  | .faddF16x2 r d a b _ _ => Sys2Proof.Machine.execFaddF16x2 r d a b s
  | .fmulF16x2 r d a b _ _ => Sys2Proof.Machine.execFmulF16x2 r d a b s
  | .ffmaF16x2 r d a b _ _ => Sys2Proof.Machine.execFfmaF16x2 r d a b s
  | .faddBf16x2 r d a b _ _ => Sys2Proof.Machine.execFaddBf16x2 r d a b s
  | .fmulBf16x2 r d a b _ _ => Sys2Proof.Machine.execFmulBf16x2 r d a b s
  | .ffmaBf16x2 r d a b _ _ => Sys2Proof.Machine.execFfmaBf16x2 r d a b s
  | .fminF32 d a b _ _ => Sys2Proof.Machine.execFminF32 d a b s
  | .fmaxF32 d a b _ _ => Sys2Proof.Machine.execFmaxF32 d a b s
  | .fabsF32 d a _ => Sys2Proof.Machine.execFabsF32 d a s
  | .fnegF32 d a _ => Sys2Proof.Machine.execFnegF32 d a s
  | .fclassF32 d a _ => Sys2Proof.Machine.execFclassF32 d a s
  | .fminF16x2 d a b _ _ => Sys2Proof.Machine.execFminF16x2 d a b s
  | .fmaxF16x2 d a b _ _ => Sys2Proof.Machine.execFmaxF16x2 d a b s
  | .mov d a _ => Sys2Proof.Machine.execMov d a s
  | .rcpF32 d a _ => Sys2Proof.Machine.execRcpF32 d a s
  | .rsqrtF32 d a _ => Sys2Proof.Machine.execRsqrtF32 d a s
  | .sqrtF32 d a _ => Sys2Proof.Machine.execSqrtF32 d a s
  | .exp2F32 d a _ => Sys2Proof.Machine.execExp2F32 d a s
  | .log2F32 d a _ => Sys2Proof.Machine.execLog2F32 d a s
  | .sinF32 d a _ => Sys2Proof.Machine.execSinF32 d a s
  | .cosF32 d a _ => Sys2Proof.Machine.execCosF32 d a s
  | .tanhF32 d a _ => Sys2Proof.Machine.execTanhF32 d a s
  | .fdivF32 d a b _ _ => Sys2Proof.Machine.execFdivF32 d a b s
  | .cvt d a _ ftz ovf rnd dst src => Sys2Proof.Machine.execCvt d a ftz ovf rnd dst src s
  | .pack d a _ ovf rnd qtype fmt => Sys2Proof.Machine.execPack d a ovf rnd qtype fmt s
  | .unpack d a _ fmt => Sys2Proof.Machine.execUnpack d a fmt s
  | .sel d a b _ _ cond set => Sys2Proof.Machine.execSel d a b cond set s
  | .lanePick d a b _ _ => Sys2Proof.Machine.execLanePick d a b s
  | .laneRise d a b _ _ => Sys2Proof.Machine.execLaneRise d a b s
  | .laneFall d a b _ _ => Sys2Proof.Machine.execLaneFall d a b s
  | .laneSwap d a b _ _ => Sys2Proof.Machine.execLaneSwap d a b s
  | .pollSome d a _ => Sys2Proof.Machine.execPollSome d a s
  | .pollEvery d a _ => Sys2Proof.Machine.execPollEvery d a s
  | .pollMask d a _ => Sys2Proof.Machine.execPollMask d a s
  | .foldAddI32 d a _ => Sys2Proof.Machine.execFoldAddI32 d a s
  | .foldMinI32 d a _ => Sys2Proof.Machine.execFoldMinI32 d a s
  | .foldMaxI32 d a _ => Sys2Proof.Machine.execFoldMaxI32 d a s
  | .foldFaddF32 d a _ => Sys2Proof.Machine.execFoldFaddF32 d a s
  | .scanAddI32 d a _ => Sys2Proof.Machine.execScanAddI32 d a s
  | .bsort d a => Sys2Proof.Machine.execBsort d a s
  | .intersect d a b _ _ => Sys2Proof.Machine.execIntersect d a b s
  | .prune d a b _ _ m logn => Sys2Proof.Machine.execPrune d a b m logn s
  | .act d a _ tbl => Sys2Proof.Machine.execAct d a tbl s
  | .actld d a => Sys2Proof.Machine.execActld d a s
  | .amax d a _ u size scope => Sys2Proof.Machine.execAmax d a u size scope s
  | .vtos d a _ => Sys2Proof.Machine.execVtos d a s
  | .stov d a => Sys2Proof.Machine.execStov d a s
  | .uadd d a b => Sys2Proof.Machine.execUadd d a b s
  | .uaddImm d a imm => Sys2Proof.Machine.execUaddImm d a imm s
  | .usub d a b => Sys2Proof.Machine.execUsub d a b s
  | .usubImm d a imm => Sys2Proof.Machine.execUsubImm d a imm s
  | .uand d a b => Sys2Proof.Machine.execUand d a b s
  | .uandImm d a imm => Sys2Proof.Machine.execUandImm d a imm s
  | .uor d a b => Sys2Proof.Machine.execUor d a b s
  | .uorImm d a imm => Sys2Proof.Machine.execUorImm d a imm s
  | .uxor d a b => Sys2Proof.Machine.execUxor d a b s
  | .uxorImm d a imm => Sys2Proof.Machine.execUxorImm d a imm s
  | .ushl d a b => Sys2Proof.Machine.execUshl d a b s
  | .ushlImm d a imm => Sys2Proof.Machine.execUshlImm d a imm s
  | .ushr d a b => Sys2Proof.Machine.execUshr d a b s
  | .ushrImm d a imm => Sys2Proof.Machine.execUshrImm d a imm s
  | .umov d b => Sys2Proof.Machine.execUmov d b s
  | .umovImm d imm => Sys2Proof.Machine.execUmovImm d imm s
  | .bra off => Sys2Proof.Machine.execBra off s
  | .call off => Sys2Proof.Machine.execCall off s
  | .brc a _ cond set rz off => Sys2Proof.Machine.execBrc a cond set rz off s
  | .meet clr off => Sys2Proof.Machine.execMeet clr off s
  | .bar d n => Sys2Proof.Machine.execBar d n s
  | .barArrive n => Sys2Proof.Machine.execBarArrive n s
  | .barWait d n => Sys2Proof.Machine.execBarWait d n s
  | .carve d l1g scrg n => Sys2Proof.Machine.execCarve d l1g scrg n s
  | .phase => Sys2Proof.Machine.execPhase s
  | .spawn d a b _ _ fr join edge => Sys2Proof.Machine.execSpawn d a b fr join edge s
  | .emit d a b _ _ fr join edge => Sys2Proof.Machine.execEmit d a b fr join edge s
  | .join d a _ => Sys2Proof.Machine.execJoin d a s
  | .finish a _ => Sys2Proof.Machine.execFinish a s
  | .mcall p3 p2 p1 p0 slot => Sys2Proof.Machine.execMcall p3 p2 p1 p0 slot s
  | .mload d a slot => Sys2Proof.Machine.execMload d a slot s
  | .trap code => Sys2Proof.Machine.execTrap code s
  | .svc code => Sys2Proof.Machine.execSvc code s
  | .eret => Sys2Proof.Machine.execEret s
  | .rdsys d w64 sreg => Sys2Proof.Machine.execRdsys d w64 sreg s
  | .wrsys a _ w64 sreg => Sys2Proof.Machine.execWrsys a w64 sreg s
  | .jmp a _ => Sys2Proof.Machine.execJmp a s
  | .callr d a _ => Sys2Proof.Machine.execCallr d a s
  | .ret a _ => Sys2Proof.Machine.execRet a s
  | .exit => Sys2Proof.Machine.execExit s
  | .nop => Sys2Proof.Machine.execNop s
  | .yield => Sys2Proof.Machine.execYield s
  | .elect d => Sys2Proof.Machine.execElect d s
  | .sprd d sel => Sys2Proof.Machine.execSprd d sel s
  | .spwr b _ => Sys2Proof.Machine.execSpwr b s
  | .ldN8 t a u => Sys2Proof.Machine.execLdN8 t a u s
  | .ldI8 t a u => Sys2Proof.Machine.execLdI8 t a u s
  | .ldN16 t a u => Sys2Proof.Machine.execLdN16 t a u s
  | .ldI16 t a u => Sys2Proof.Machine.execLdI16 t a u s
  | .ldN32 t a u => Sys2Proof.Machine.execLdN32 t a u s
  | .ldN64 t a u => Sys2Proof.Machine.execLdN64 t a u s
  | .ldN32x4 t a u => Sys2Proof.Machine.execLdN32x4 t a u s
  | .stN8 t a u => Sys2Proof.Machine.execStN8 t a u s
  | .stN16 t a u => Sys2Proof.Machine.execStN16 t a u s
  | .stN32 t a u => Sys2Proof.Machine.execStN32 t a u s
  | .stN64 t a u => Sys2Proof.Machine.execStN64 t a u s
  | .stN32x4 t a u => Sys2Proof.Machine.execStN32x4 t a u s
  | .uldN32 t a u => Sys2Proof.Machine.execUldN32 t a u s
  | .uldN64 t a u => Sys2Proof.Machine.execUldN64 t a u s
  | .ustN32 t a u => Sys2Proof.Machine.execUstN32 t a u s
  | .ustN64 t a u => Sys2Proof.Machine.execUstN64 t a u s
  | .ldsN32 t a u => Sys2Proof.Machine.execLdsN32 t a u s
  | .ldsN64 t a u => Sys2Proof.Machine.execLdsN64 t a u s
  | .ldsN32x4 t a u => Sys2Proof.Machine.execLdsN32x4 t a u s
  | .stsN32 t a u => Sys2Proof.Machine.execStsN32 t a u s
  | .stsN64 t a u => Sys2Proof.Machine.execStsN64 t a u s
  | .stsN32x4 t a u => Sys2Proof.Machine.execStsN32x4 t a u s
  | .gather t a sz => Sys2Proof.Machine.execGather t a sz s
  | .scatter t a sz => Sys2Proof.Machine.execScatter t a sz s
  | .atomAdd t a scope sc ty => Sys2Proof.Machine.execAtomAdd t a scope sc ty s
  | .atomMin t a scope sc ty => Sys2Proof.Machine.execAtomMin t a scope sc ty s
  | .atomMax t a scope sc ty => Sys2Proof.Machine.execAtomMax t a scope sc ty s
  | .atomAnd t a scope sc ty => Sys2Proof.Machine.execAtomAnd t a scope sc ty s
  | .atomOr t a scope sc ty => Sys2Proof.Machine.execAtomOr t a scope sc ty s
  | .atomXor t a scope sc ty => Sys2Proof.Machine.execAtomXor t a scope sc ty s
  | .atomXchg t a scope sc ty => Sys2Proof.Machine.execAtomXchg t a scope sc ty s
  | .atomCas t a scope sc ty => Sys2Proof.Machine.execAtomCas t a scope sc ty s
  | .redAdd t a scope sc ty => Sys2Proof.Machine.execRedAdd t a scope sc ty s
  | .redMin t a scope sc ty => Sys2Proof.Machine.execRedMin t a scope sc ty s
  | .redMax t a scope sc ty => Sys2Proof.Machine.execRedMax t a scope sc ty s
  | .scld t a scope sz => Sys2Proof.Machine.execScld t a scope sz s
  | .scst t a scope sz => Sys2Proof.Machine.execScst t a scope sz s
  | .acq t a scope => Sys2Proof.Machine.execAcq t a scope s
  | .rel a scope => Sys2Proof.Machine.execRel a scope s
  | .bind t a => Sys2Proof.Machine.execBind t a s
  | .fenceAll scope => Sys2Proof.Machine.execFenceAll scope s
  | .copy d a b w => Sys2Proof.Machine.execCopy d a b w s
  | .copyWait d a ch => Sys2Proof.Machine.execCopyWait d a ch s
  | .copyQuery d clr ch => Sys2Proof.Machine.execCopyQuery d clr ch s
  | .prefetch a _ => Sys2Proof.Machine.execPrefetch a s
  | .copyScatter d a b w => Sys2Proof.Machine.execCopyScatter d a b w s
  | .copyGather d a b w => Sys2Proof.Machine.execCopyGather d a b w s
  | .tstclr d mask => Sys2Proof.Machine.execTstclr d mask s
  | .cld t a h => Sys2Proof.Machine.execCld t a h s
  | .cst t a h => Sys2Proof.Machine.execCst t a h s
  | .cred t a h => Sys2Proof.Machine.execCred t a h s
  | .cnext t a h => Sys2Proof.Machine.execCnext t a h s
  | .cprobe t a h => Sys2Proof.Machine.execCprobe t a h s
  | .collA2a a b scope => Sys2Proof.Machine.execCollA2a a b scope s
  | .collReduce a b scope => Sys2Proof.Machine.execCollReduce a b scope s
  | .collAllred a b scope => Sys2Proof.Machine.execCollAllred a b scope s
  | .collComp a b scope => Sys2Proof.Machine.execCollComp a b scope s
  | .mma d a _ b tile => Sys2Proof.Machine.execMma d a b tile s
  | .mmaZ d a _ b tile => Sys2Proof.Machine.execMmaZ d a b tile s
  | .acld d a tr tile => Sys2Proof.Machine.execAcld d a tr tile s
  | .acst d a tr tile => Sys2Proof.Machine.execAcst d a tr tile s
  | .acz d tile => Sys2Proof.Machine.execAcz d tile s
  | .accvt d a b _ tile => Sys2Proof.Machine.execAccvt d a b tile s
  | .route d a => Sys2Proof.Machine.execRoute d a s
  | .sort a b scope => Sys2Proof.Machine.execSort a b scope s
  | .sproj d a b _ _ => Sys2Proof.Machine.execSproj d a b s
  | .splat d a b _ _ => Sys2Proof.Machine.execSplat d a b s
  | .blend d a _ b => Sys2Proof.Machine.execBlend d a b s
  | .blendBwd d a b _ => Sys2Proof.Machine.execBlendBwd d a b s
  | .redF32 t a scope w => Sys2Proof.Machine.execRedF32 t a scope w s
  | .cflush => Sys2Proof.Machine.execCflush s
  | .trace a _ b w => Sys2Proof.Machine.execTrace a b w s
  | .trres d sel => Sys2Proof.Machine.execTrres d sel s
  | .smpld d a slot => Sys2Proof.Machine.execSmpld d a slot s
  | .sample d a _ b slot => Sys2Proof.Machine.execSample d a b slot s
  | .rast d a _ b => Sys2Proof.Machine.execRast d a b s
  | .rastFlush d => Sys2Proof.Machine.execRastFlush d s
  | .pres a b wscope enc scan head => Sys2Proof.Machine.execPres a b wscope enc scan head s
  | .yieldExpiry u g f => Sys2Proof.Machine.execYieldExpiry u g f s
  | .ldCheckDone u g => Sys2Proof.Machine.execLdCheckDone u g s
  | .loadFill k => Sys2Proof.Machine.execLoadFill k s
  | .scratchpadLoadFill k => Sys2Proof.Machine.execScratchpadLoadFill k s
  | .lateResultFill k => Sys2Proof.Machine.execLateResultFill k s
  | .atomicPerform k => Sys2Proof.Machine.execAtomicPerform k s
  | .scOperationPerform k => Sys2Proof.Machine.execScOperationPerform k s
  | .relPerformed u t => Sys2Proof.Machine.execRelPerformed u t s
  | .fenceAllDone u t => Sys2Proof.Machine.execFenceAllDone u t s
  | .bindPerformed u t => Sys2Proof.Machine.execBindPerformed u t s
  | .cflushDone u t => Sys2Proof.Machine.execCflushDone u t s
  | .l1Eviction place line => Sys2Proof.Machine.execL1Eviction place line s
  | .cisternAddition k => Sys2Proof.Machine.execCisternAddition k s
  | .recordArrival k => Sys2Proof.Machine.execRecordArrival k s
  | .joinDecrement k => Sys2Proof.Machine.execJoinDecrement k s
  | .caddyOperation k => Sys2Proof.Machine.execCaddyOperation k s
  | .mmaStart core => Sys2Proof.Machine.execMmaStart core s
  | .mmaComplete core => Sys2Proof.Machine.execMmaComplete core s
  | .accumulatorOpComplete core => Sys2Proof.Machine.execAccumulatorOpComplete core s
  | .routeComplete k => Sys2Proof.Machine.execRouteComplete k s
  | .strainerJobStart die => Sys2Proof.Machine.execStrainerJobStart die s
  | .strainerJobDone die => Sys2Proof.Machine.execStrainerJobDone die s
  | .copyStart u ch => Sys2Proof.Machine.execCopyStart u ch s
  | .copyDelivery u ch => Sys2Proof.Machine.execCopyDelivery u ch s
  | .actldComplete core => Sys2Proof.Machine.execActldComplete core s
  | .mloadComplete core => Sys2Proof.Machine.execMloadComplete core s
  | .smpldComplete core => Sys2Proof.Machine.execSmpldComplete core s
  | .sampleJob k => Sys2Proof.Machine.execSampleJob k s
  | .traversalNodeVisit u t => Sys2Proof.Machine.execTraversalNodeVisit u t s
  | .rasteriseTriangle die => Sys2Proof.Machine.execRasteriseTriangle die s
  | .verticalBlank head => Sys2Proof.Machine.execVerticalBlank head s
  | .presentComplete head => Sys2Proof.Machine.execPresentComplete head s
  | .launchEntry slice queue => Sys2Proof.Machine.execLaunchEntry slice queue s
  | .teamPlacement slice => Sys2Proof.Machine.execTeamPlacement slice s
  | .agingQuantum l => Sys2Proof.Machine.execAgingQuantum l s
  | .preemptionWaitEnd u => Sys2Proof.Machine.execPreemptionWaitEnd u s
  | .launchEnd l => Sys2Proof.Machine.execLaunchEnd l s
  | .phaseFlushPoint l => Sys2Proof.Machine.execPhaseFlushPoint l s
  | .lqDoorbell inst v => Sys2Proof.Machine.execLqDoorbell inst v s
  | .lqCtlWrite inst v => Sys2Proof.Machine.execLqCtlWrite inst v s
  | .kettleCtxswSave slice => Sys2Proof.Machine.execKettleCtxswSave slice s
  | .kettleCtxswRestore slice => Sys2Proof.Machine.execKettleCtxswRestore slice s
  | .ctxswSaveDone slice => Sys2Proof.Machine.execCtxswSaveDone slice s
  | .ctxswRestoreDone slice => Sys2Proof.Machine.execCtxswRestoreDone slice s
  | .resume slice seq => Sys2Proof.Machine.execResume slice seq s
  | .abortLaunch slice seq => Sys2Proof.Machine.execAbortLaunch slice seq s
  | .resumeOperation slice seq => Sys2Proof.Machine.execResumeOperation slice seq s
  | .abortOperation slice seq => Sys2Proof.Machine.execAbortOperation slice seq s
  | .abortLaunchBySeq slice queue seq => Sys2Proof.Machine.execAbortLaunchBySeq slice queue seq s
  | .faultqCtlWrite slice v => Sys2Proof.Machine.execFaultqCtlWrite slice v s
  | .dieCarveWrite die v => Sys2Proof.Machine.execDieCarveWrite die v s
  | .sliceGroupWrite v => Sys2Proof.Machine.execSliceGroupWrite v s
  | .xlatInvalPage slice va => Sys2Proof.Machine.execXlatInvalPage slice va s
  | .xlatInvalAll slice => Sys2Proof.Machine.execXlatInvalAll slice s
  | .xlatInvalDone slice => Sys2Proof.Machine.execXlatInvalDone slice s
  | .scrSkewWrite u second v => Sys2Proof.Machine.execScrSkewWrite u second v s
  | .fabricCtlWrite v => Sys2Proof.Machine.execFabricCtlWrite v s
  | .travNodeueClear core v => Sys2Proof.Machine.execTravNodeueClear core v s
  | .dispCtlWrite head v => Sys2Proof.Machine.execDispCtlWrite head v s
  | .snapTrigger => Sys2Proof.Machine.execSnapTrigger s
  | .powerCapWrite v => Sys2Proof.Machine.execPowerCapWrite v s
  | .fstepAdjust watts => Sys2Proof.Machine.execFstepAdjust watts s
  | .fwAttest buf => Sys2Proof.Machine.execFwAttest buf s
  | .fwStage buf => Sys2Proof.Machine.execFwStage buf s
  | .fwStatus buf => Sys2Proof.Machine.execFwStatus buf s
  | .fwMboxResult => Sys2Proof.Machine.execFwMboxResult s
  | .sysregWrite sreg v => Sys2Proof.Machine.execSysregWrite sreg v s
  | .reset ok => Sys2Proof.Machine.execReset ok s
  | .hostLinkTraining width rate => Sys2Proof.Machine.execHostLinkTraining width rate s
  | .cxlLinkUp gib => Sys2Proof.Machine.execCxlLinkUp gib s
  | .cxlLinkDown => Sys2Proof.Machine.execCxlLinkDown s
  | .linePoisoned line => Sys2Proof.Machine.execLinePoisoned line s
  | .correctedError die => Sys2Proof.Machine.execCorrectedError die s
  | .slotStart plane => Sys2Proof.Machine.execSlotStart plane s
  | .slotMarker plane onTime => Sys2Proof.Machine.execSlotMarker plane onTime s
  | .slotFrameReceive plane f => Sys2Proof.Machine.execSlotFrameReceive plane f s
  | .remoteRequest k => Sys2Proof.Machine.execRemoteRequest k s
  | .remoteResponse k => Sys2Proof.Machine.execRemoteResponse k s
  | .remoteRefusal k => Sys2Proof.Machine.execRemoteRefusal k s
  | .remoteTimeout tag => Sys2Proof.Machine.execRemoteTimeout tag s
  | .acknowledgment k => Sys2Proof.Machine.execAcknowledgment k s
  | .collectiveChunk k => Sys2Proof.Machine.execCollectiveChunk k s
  | .chunkRefusal k => Sys2Proof.Machine.execChunkRefusal k s
  | .collectiveTimeout k => Sys2Proof.Machine.execCollectiveTimeout k s
  | .unassignedOpcode w opw => Sys2Proof.Machine.execUnassignedOpcode w opw s
  | .displayportLinkTraining head width height => Sys2Proof.Machine.execDisplayportLinkTraining head width height s

end Sys2Proof.Machine
end

