-- ==== Sys2Proof/Machine/Fetch.lean ====
section
/-!
DEFINITION. Before an issue: which fragments can issue and with which lanes (R33, R36, R45, R65, R135, R148, R194, R350, R353).
-/

namespace Sys2Proof.Machine

open Sys2Proof (Instr)

/-! Candidates. -/

/-- A fragment that may issue: its team, gang, lowest thread, threads, and what R45 orders it by. -/
structure Issuer where
  uid : Nat
  gang : Nat
  stamp : Nat
  slot : Nat
  ts : List Nat
  deriving DecidableEq, Repr

/-- Does a thread of a team wait for nothing that Kettle or another rule must end (R33 to R35, R65, R183, R350)? A team that
Kettle stops issues only what finishes a packet or a handler. -/
def State.awake (s : State) (u t : Nat) : Bool :=
  let th := s.thr u t
  let tm := s.team u
  !th.exited && th.wait == .none && th.mwait == .none && !th.sleep
  && (tm.stop.isNone || th.handler || th.pos % 4 != 0)

/-- The fragments of a gang that may issue. -/
def State.gangIssuers (s : State) (u g : Nat) : List Issuer :=
  let tm := s.team u
  let ts := (s.liveGang u g).filter (s.awake u)
  ((ts.map fun t => (s.thr u t).frag).eraseDups).map fun f =>
    let fs := ts.filter fun t => (s.thr u t).frag == f
    { uid := u, gang := g, slot := tm.slot, ts := fs,
      stamp := fs.foldl (fun m t => min m (s.thr u t).stamp) (s.thr u (fs.headD 0)).stamp }

/-- Is candidate a issued before b (R45): greater age, then lower team slot, gang, lowest thread? -/
def issuesBefore (a b : Issuer) : Bool :=
  a.stamp < b.stamp || (a.stamp == b.stamp && (a.slot < b.slot || (a.slot == b.slot
    && (a.gang < b.gang || (a.gang == b.gang && a.ts.headD 0 < b.ts.headD 0)))))

/-- Inserts a candidate in its place. -/
def insertIssuer (c : Issuer) : List Issuer → List Issuer
  | [] => [c]
  | d :: ds => if issuesBefore c d then c :: d :: ds else d :: insertIssuer c ds

/-- The candidates of a quarter of a core, in the order of R45. A team with fault entries still to be answered issues nothing
(R350), nor does one whose loads of images Kettle has still to repeat (R171). -/
def State.issuersAt (s : State) (core q : Nat) : List Issuer :=
  let us := (s.teams.filter fun e => e.2.live && e.2.core == core && e.2.open_.isEmpty
    && !(s.imgs.any fun (l : ImgLoad) => l.uid == e.1 && l.replay))
  let cs := us.flatMap fun e => ((List.range e.2.gangs).filter fun g => (e.2.q0 + g) % 4 == q).flatMap fun g => s.gangIssuers e.1 g
  cs.foldr insertIssuer []

/-! What a candidate issues. -/

/-- What a fragment issues next: a trap found before the issue, a word that decode step 3 refuses, or the group at its position or
a micro-step of a macro; `after` is the position that follows. -/
inductive Next where
  | refusedWord (word : Nat) (x o : BitVec 32)
  | trap (tr : Trap) (word : Nat) (mstep : Option Nat)
  | ops (l : List (Nat × Instr)) (after : Nat) (mstep : Option Nat)
  deriving DecidableEq, Repr

/-- The operation of a macro at its next micro-step: its parameters replaced, decoded, its registers tested (R194). -/
def macroOp (N : Nat) (r : MacroRun) : Except Cause Instr :=
  let x := r.ops.getD r.step (0, 0)
  match decode (substWord x.1 r.params) x.2 with
  | .ok i => if i.wf N then .ok i else .error .illegalField
  | .error .unassigned => .error .illegalOp
  | .error .badField => .error .illegalField

/-- The data registers of a caddy operation, which the region's record fixes (R225). -/
def State.caddyRegs (s : State) (c : Issuer) (i : Instr) : List Nat :=
  let w (h : BitVec 4) : Nat :=
    let g (k : Nat) : Nat := (NMap.get 0 s.u (ukey c.uid c.gang (2 * h.toNat + k))).toNat
    match s.declOf (s.ctxOf c.uid (s.privOf c.uid (c.ts.headD 0))) (g 0 + 2 ^ 32 * g 1) with
    | .ok (d, _) => d.w
    | .error _ => 0
  match i with
  | .cld t _ h | .cst t _ h | .cred t _ h => regRun t.toNat (w h)
  | .cnext t _ h => regRun t.toNat (w h + 2)
  | _ => []

/-- The registers that a caddy operation writes beyond those that its fields name (R225); none are known while a uniform load has still
to write its handle, which the issue waits for (R135). -/
def State.caddyWr (s : State) (c : Issuer) (i : Instr) : List Nat :=
  match i with
  | .cld _ _ _ | .cnext _ _ _ =>
    if (ports i).urd.any fun r => NMap.get false s.upend (ukey c.uid c.gang r) then [] else s.caddyRegs c i
  | _ => []

/-- The next issue of a candidate, with the state after its fetch. -/
def State.nextOf (s : State) (c : Issuer) : State × Next :=
  let t0 := c.ts.headD 0
  let th := s.thr c.uid t0
  let N := (s.team c.uid).nreg
  let packet := posPacket th.pos
  match th.running with
  | some r =>
    match macroOp N r with
    | .error e => (s, .trap { cause := e, lane := t0 % 32, check := 3 } (posWord th.pos) (some r.step))
    | .ok i => (s, .ops [(posWord th.pos, i)] (posAfter packet (posWord th.pos + 2)) (some r.step))
  | none =>
    match s.fetch c.uid t0 packet with
    | (s, .error e) => (s, .trap { cause := e, lane := t0 % 32, addr := fullAddr packet } (posWord th.pos) none)
    | (s, .ok line) =>
      match decodeAt N (s.caddyWr c) line th.pos with
      | .error (_, w, 3) =>
        let ws := packetWords line ((packet % 64 - 4) / 12)
        (s, .refusedWord w (ws.getD w 0) (ws.getD (w + 1) 0))
      | .error (e, w, k) => (s, .trap { cause := e, lane := t0 % 32, check := k } w none)
      | .ok (l, e) => (s, .ops l (posAfter packet e) none)

/-! Which lanes issue (R36, R135, R148, R353). -/

/-- The vector registers that a thread of a fragment reads: VTOS reads in the lowest active lane only (R173). -/
def Issuer.reads (c : Issuer) (i : Instr) (t : Nat) : List (Nat × Bool) :=
  match i with
  | .vtos _ _ _ => if c.ts.head? = some t then (ports i).rd else []
  | _ => (ports i).rd

/-- The lowest word whose instruction has an empty source with the trap policy, and the lowest thread where it is empty. -/
def State.feTrap (s : State) (c : Issuer) : List (Nat × Instr) → Option (Nat × Nat)
  | [] => none
  | (w, i) :: rest =>
    match c.ts.find? fun t => (c.reads i t).any fun (x : Nat × Bool) => x.2 && s.isEmpty c.uid t x.1 with
    | some t => some (w, t)
    | none => s.feTrap c rest

/-- Is a thread ready for a group: every source and destination full; a TRACE waits for the earlier traversal (R252). -/
def State.laneReady (s : State) (c : Issuer) (l : List (Nat × Instr)) (t : Nat) : Bool :=
  l.all fun (x : Nat × Instr) =>
    let p := ports x.2
    ((c.reads x.2 t).all fun (y : Nat × Bool) => !s.isEmpty c.uid t y.1) && (p.wr.all fun y => !s.isEmpty c.uid t y)
    && ((s.caddyRegs c x.2).all fun y => !s.isEmpty c.uid t y)
    && (match x.2 with | .trace _ _ _ _ => !s.travBusy c.uid t | _ => true)

/-- Does a group touch a uniform register that a uniform load has still to write (R135)? -/
def State.uniWait (s : State) (c : Issuer) (l : List (Nat × Instr)) : Bool :=
  l.any fun (x : Nat × Instr) => ((ports x.2).urd ++ (ports x.2).uwr).any fun r => NMap.get false s.upend (ukey c.uid c.gang r)

/-- Does an edge of R97 leave an instruction, which carries what its thread did before: the arrival at a barrier or at PHASE, a record or a
join, the fork of an engine operation? -/
def edgeFrom : Instr → Bool
  | .bar _ _ | .barArrive _ | .carve _ _ _ _ | .phase | .emit _ _ _ _ _ _ _ _ | .spawn _ _ _ _ _ _ _ _ | .join _ _ _
  | .finish _ _ | .copy _ _ _ _ | .copyScatter _ _ _ _ | .copyGather _ _ _ _ | .actld _ _ | .mload _ _ _ | .smpld _ _ _
  | .sample _ _ _ _ _ | .route _ _ | .sort _ _ _ | .collA2a _ _ _ | .collReduce _ _ _ | .collAllred _ _ _ | .collComp _ _ _
  | .pres _ _ _ _ _ _ | .trace _ _ _ _ | .rast _ _ _ _ => true
  | _ => false

/-- Does an instruction of another pipe than M access memory itself (R172)? -/
def memX : Instr → Bool
  | .amax _ _ _ _ _ _ => true
  | _ => false

/-- Does an LD in check hold back this group of its fragment: another packet, an M-pipe instruction or a transfer (R353); an AMAX, or an
edge of R97, whose write the LD may not return (R99, log 17)? A later micro-step of the LD's macro lies at the LD's own position: it
waits (log 71). -/
def State.ldWait (s : State) (c : Issuer) (l : List (Nat × Instr)) : Bool :=
  (s.logs c.uid c.gang).any fun lg =>
    let pos := (s.thr c.uid (c.ts.headD 0)).pos
    !lg.deferred && (c.ts.any fun t => lg.addrs.any fun x => x.1 == t % 32)
    && (posPacket pos != lg.packet || posWord pos ≤ lg.word
      || l.any fun (x : Nat × Instr) => (ports x.2).pipe == .m || (ports x.2).xfer || memX x.2 || edgeFrom x.2)

/-- Has a gang an ACQ that the owner has not answered, which its later accesses come after (R100)? -/
def State.acqWait (s : State) (u g : Nat) : Bool :=
  s.remote.any fun o => o.uid == u && o.t / 32 == g && match o.act with | .regs _ minor => minor == 9 | _ => false

/-- Does an earlier operation of the gang hold back this group: one that waits for its line, or an ACQ on its way, ahead of an access to
memory or an edge (R96, R100, R366); a caddy operation on its way, ahead of an edge (R97, R301)? -/
def State.opWait (s : State) (c : Issuer) (l : List (Nat × Instr)) : Bool :=
  let edge := l.any fun (x : Nat × Instr) => edgeFrom x.2
  ((edge || l.any fun (x : Nat × Instr) => (ports x.2).pipe == .m || memX x.2)
    && (s.awaitsLine c.uid c.gang || s.acqWait c.uid c.gang))
  || (edge && s.caddyOps.any fun (o : CaddyOp) => o.uid == c.uid && o.t / 32 == c.gang)

/-- What a candidate does when it comes to issue. -/
inductive Turn where
  | wait
  | trap (tr : Trap) (word : Nat)
  | go (lanes : List Nat)
  deriving DecidableEq, Repr

/-- The test of R36 for a group, of R148 for a gang-collective one, and of R194 for a micro-step, with the waits above. -/
def State.turnOf (s : State) (c : Issuer) (l : List (Nat × Instr)) (whole : Bool) : Turn :=
  if s.ldWait c l || s.uniWait c l || s.opWait c l then .wait
  else
    match s.feTrap c l with
    | some (w, t) => .trap { cause := .feEmpty, lane := t % 32 } w
    | none =>
      let ready := c.ts.filter (s.laneReady c l)
      let all := whole || l.any fun (x : Nat × Instr) => (ports x.2).coll
      if ready.isEmpty || (all && ready.length < c.ts.length) then .wait else .go (ready.map (· % 32))

end Sys2Proof.Machine
end

