-- ==== Sys2Proof/Machine/Issue.lean ====
section
/-!
DEFINITION. One issue (R33, R36, R45, R127, R132, R194): the fragment of greatest age that can issue reads its sources, its group
runs, and its threads go on.
-/

namespace Sys2Proof.Machine

open Sys2Proof (Instr)

/-- The state with the issue latched: the registers as they stand, the lanes, the position and what follows; the fragment's age
restarts, that of the threads that stay behind as a new fragment too (R45). -/
def State.latchIssue (s : State) (c : Issuer) (lanes : List Nat) (after word : Nat) (mstep : Option Nat) : State :=
  let th := s.thr c.uid (c.ts.headD 0)
  let s := (s.fragOf c.uid (c.ts.headD 0)).foldl (fun s t => s.setThr c.uid t { s.thr c.uid t with stamp := s.tick }) s
  { s with iss :=
      { uid := c.uid, gang := c.gang, frag := th.frag, lanes := lanes, pos := th.pos, word := word, follow := after, tgt := [],
        v0 := s.v, u0 := s.u, cc0 := s.cc, fpctl0 := (s.team c.uid).fpctl, mstep := mstep } }

/-- An instruction of the issue, at its word index. -/
def execWord (w : Nat) (i : Instr) (s : State) : Res := exec i { s with iss := { s.iss with word := w } }

/-- The first instruction of a group that traps or cannot issue, judged on the state before the group: its outcome. -/
def firstStop (s : State) : List (Nat × Instr) → Option Res
  | [] => none
  | (w, i) :: rest =>
    match execWord w i s with
    | .next t => if t.iss.trap.isSome || t.iss.stall then some (.next t) else firstStop s rest
    | r => some r

/-- Runs instructions one after another; each reads the latch (R132). -/
def execAll : List (Nat × Instr) → State → Res
  | [], s => .next s
  | (w, i) :: rest, s =>
    match execWord w i s with
    | .next t => execAll rest t
    | r => r

/-- The meaning of a group: of one instruction, its own; of several, none takes effect where one traps or cannot issue; transfers
of pipe X come after the others (R127, R132), and an edge of R97 after the caddy operations of its own group (R301). -/
def execGroup (l : List (Nat × Instr)) (s : State) : Res :=
  match l with
  | [(w, i)] => execWord w i s
  | _ =>
    match firstStop s l with
    | some r => r
    | none =>
      let x (p : Nat × Instr) : Bool := (ports p.2).pipe == .x
      let xs := l.filter x
      let go (r : Res) : Res := match r with
        | .next t => execAll xs (if xs.any fun p => edgeFrom p.2 then t.settleGang t.iss.uid t.iss.gang else t)
        | r => r
      match go (execAll (l.filter fun p => !x p) { s with iss := { s.iss with judged := true } }) with
      | .next t =>
        match t.iss.trap with
        | some tr => raise tr { s with iss := { s.iss with word := t.iss.word } }
        | none => if t.iss.stall then stall s else .next t
      | r => r

/-- A macro's thread after a micro-step: the next micro-step, or the end of the macro. -/
def Thread.stepRun (th : Thread) : Thread :=
  let go (r : Option MacroRun) : Option MacroRun := match r with
    | some r => if r.step + 1 < r.ops.length then some { r with step := r.step + 1 } else none
    | none => none
  if th.handler then { th with hrun := go th.hrun } else { th with mrun := go th.mrun }

/-- An issued thread goes to its next position, or keeps it until its wait for memory ends. -/
def State.advance (s : State) (t : Nat) : State :=
  let i := s.iss
  let th := s.thr i.uid t
  if th.exited || i.moved.contains (t % 32) then s
  else
    let s := if i.mstep.isSome then s.setThr i.uid t th.stepRun else s
    let th := s.thr i.uid t
    if i.mstep.isSome && th.running.isSome then s
    else
      let target := (NMap.find i.tgt (t % 32)).getD i.follow
      if th.mwait == .none then s.arriveAt i.uid t target else s.setThr i.uid t { th with next := target }

/-- The end of an issue that neither stalled nor trapped, or that trapped: the threads go on, fragments split, meetings are
tested, and the latch is cleared. -/
def State.endIssue (s : State) : State :=
  let i := s.iss
  let u := i.uid
  let ts := i.lanes.map (32 * i.gang + ·)
  let s := if i.trap.isSome then s else ts.foldl State.advance s
  let s := { s with iss := {} }
  if !(s.team u).live then s
  else
    let out := if i.trap.isSome then [] else ts.filter fun t =>
      !i.moved.contains (t % 32) || ((s.thr u t).wait != .none && (s.thr u t).wait != .held)
    (s.splitGang u i.gang out).retestGang u i.gang

/-- Does a group come after the earlier operations of its gang on their way: an access to memory, an edge of R97? -/
def drains (l : List (Nat × Instr)) : Bool := l.any fun (x : Nat × Instr) => (ports x.2).pipe == .m || memX x.2 || edgeFrom x.2

/-- The earlier operations of a gang performed, where a thread of the fragment takes a late fault from one of them (R353, R358): the fault
comes before the group that they precede. -/
def State.lateStop (s : State) (c : Issuer) : Option State :=
  let d := (s.drainGang c.uid c.gang).settleGang c.uid c.gang
  if !(d.team c.uid).live || (d.team c.uid).stop != (s.team c.uid).stop
      || c.ts.any fun t => (d.thr c.uid t).wait != .none || (d.thr c.uid t).handler != (s.thr c.uid t).handler
  then some d else none

/-- A candidate's issue; none where it cannot issue now: behind an LD in check, no other packet's trap is met either (R353). -/
def State.tryIssue (s : State) (c : Issuer) : Option Res :=
  let ended (r : Res) : Option Res := match r with
    | .next t => if t.iss.stall then none else some (.next t.endIssue)
    | r => some r
  let all := c.ts.map (· % 32)
  let late := s.ldWait c []
  match s.nextOf c with
  | (s, .refusedWord w x o) => if late then none else ended (execUnassignedOpcode x o (s.latchIssue c all 0 w none))
  | (s, .trap tr w ms) => if late then none else ended (raise tr (s.latchIssue c all 0 w ms))
  | (s, .ops l after ms) =>
    match s.turnOf c l ms.isSome with
    | .wait => none
    | .trap tr w => ended (raise tr (s.latchIssue c all after w ms))
    | .go lanes =>
      match if drains l then s.lateStop c else none with
      | some d => some (.next d)
      | none => ended (execGroup l (s.latchIssue c lanes after 0 ms))

/-- The first candidate that can issue does. -/
def State.issueFirst (s : State) : List Issuer → Res
  | [] => .next s
  | c :: cs =>
    match s.tryIssue c with
    | some r => r
    | none => s.issueFirst cs

/-- A quarter of a core has its turn to issue (R45). -/
def State.issueAt (s : State) (core q : Nat) : Res := s.issueFirst (s.issuersAt core q)

end Sys2Proof.Machine
end

