-- ==== Sys2Proof/Machine/Agents.lean ====
section
/-!
DEFINITION. The agents of the package and the moves that they can make by themselves (R367): quarters issue, engines, places, Kettle
and the fabric take their steps. What the outside world does comes as the agenda's moves.
-/

namespace Sys2Proof.Machine

open Sys2Proof (Instr Msg)

/-- A move: the meaning of what an agent does. -/
abbrev Act := State → Res

/-- The same meaning for each index of a list. -/
def each {α : Type} (l : List α) (f : Nat → Act) : List Act := (List.range l.length).map f

/-- The quarters of the cores that hold a team issue. -/
def State.issueMoves (s : State) : List Act :=
  ((s.teams.filter fun e => e.2.live).map fun e => e.2.core).eraseDups.flatMap fun c =>
    (List.range 4).map fun q => fun (s : State) => s.issueAt c q

/-- The moves that a thread's waits allow: the end of a YIELD, of its memory operations, the next node of its traversal. -/
def threadMoves (u t : Nat) (th : Thread) : List Act :=
  (if th.sleep then [execYieldExpiry u (t / 32) (t % 32)] else [])
  ++ (match th.mwait with
    | .rel _ _ _ _ => [execRelPerformed u t]
    | .fence _ _ => [execFenceAllDone u t]
    | .bind => [execBindPerformed u t]
    | .cflush => [execCflushDone u t]
    | _ => [])
  ++ (if th.trav.isSome then [execTraversalNodeVisit u t] else [])

/-- Operations on their way arrive, caches drop lines. -/
def State.memoryMoves (s : State) : List Act :=
  (s.threads.flatMap fun e => threadMoves (e.1 / 1024) (e.1 % 1024) e.2)
  ++ (s.oplogs.map fun e => execLdCheckDone (e.1 / 32) (e.1 % 32))
  ++ each s.loads execLoadFill ++ each s.scrLoads execScratchpadLoadFill ++ each s.lates execLateResultFill
  ++ each s.atoms execAtomicPerform ++ each s.scops execScOperationPerform
  ++ (s.copies.map fun e => execL1Eviction (e.1 / 2 ^ 60) (e.1 % 2 ^ 60))
  ++ each s.cisAdds execCisternAddition ++ each s.recArrs execRecordArrival ++ each s.joinArrs execJoinDecrement
  ++ each s.caddyOps execCaddyOperation

/-- The cores with matrix operations or image loads. -/
def State.busyCores (s : State) : List Nat := ((s.mops.map fun (o : MOp) => o.core) ++ s.imgs.map fun (l : ImgLoad) => l.core).eraseDups

/-- The engines work. -/
def State.engineMoves (s : State) : List Act :=
  (s.busyCores.flatMap fun c =>
    [execMmaStart c, execMmaComplete c, execAccumulatorOpComplete c, execActldComplete c, execMloadComplete c, execSmpldComplete c])
  ++ each s.routes execRouteComplete
  ++ ((List.range 2).flatMap fun d => [execStrainerJobStart d, execStrainerJobDone d, execRasteriseTriangle d])
  ++ (s.teams.flatMap fun e => e.2.chans.flatMap fun ch =>
    if ch.2.queue.isEmpty then [] else [execCopyStart e.1 ch.1, execCopyDelivery e.1 ch.1])
  ++ each s.samples execSampleJob ++ each s.parts (fun k s => .next (s.enginePart k))
  ++ ((List.range 8).flatMap fun h => [execVerticalBlank h, execPresentComplete h])

/-- Kettle works, and firmware answers. -/
def State.kettleMoves (s : State) : List Act :=
  ((List.range 8).flatMap fun k =>
    [execTeamPlacement k, execCtxswSaveDone k, execCtxswRestoreDone k, execXlatInvalDone k]
    ++ (List.range 4).map fun q => execLaunchEntry k q)
  ++ (s.launches.flatMap fun e =>
    if e.2.live then [execAgingQuantum e.1, execLaunchEnd e.1, execPhaseFlushPoint e.1] else [])
  ++ (s.teams.flatMap fun e => if e.2.stop.isSome then [execPreemptionWaitEnd e.1] else [])
  ++ (if s.fwBusy.isSome then [execFwMboxResult] else [])

/-- The fabric works. -/
def State.fabricMoves (s : State) : List Act :=
  (s.planes.map fun e => execSlotStart e.1)
  ++ each s.inReqs execRemoteRequest ++ each s.inResps execRemoteResponse ++ each s.inRefs execRemoteRefusal
  ++ each s.inAcks execAcknowledgment ++ each s.inChunks execCollectiveChunk ++ each s.inCRefs execChunkRefusal
  ++ (s.remote.map fun (r : RemOp) => execRemoteTimeout r.tag) ++ each s.colls execCollectiveTimeout

/-- Loads on their way and code lines are looked at (logs 17 and 69): a load that is listed, a line that the free choice of this step
names. -/
def State.lookMoves (s : State) : List Act :=
  each s.loads (fun k s => .next (s.sampleLoad k))
  ++ ((s.teams.filter fun e => e.2.live).map fun e => fun s =>
    .next (s.sampleCode e.1 (Config.freeChoice ((s.tick * 2 ^ 32 + e.1) * 2) % 2 ^ 64)))

/-- Every move that the package can make by itself. One whose moment has not come changes nothing. -/
def State.moves (s : State) : List Act :=
  s.issueMoves ++ s.memoryMoves ++ s.engineMoves ++ s.kettleMoves ++ s.fabricMoves ++ s.lookMoves

/-- The package makes the move that the free choice of this step picks. -/
def State.act (s : State) : Res :=
  let ms := s.moves
  match ms[Config.freeChoice s.tick % ms.length]? with
  | some f => f s
  | none => .next s

/-- One move from the agenda. -/
def State.doMove (s : State) (m : Move) : Res :=
  match m with
  | .issue c q => s.issueAt c q
  | .event i => exec i s
  | .sampleLoad k => .next (s.sampleLoad k)
  | .sampleCode u pos => .next (s.sampleCode u pos)
  | .enginePart k => .next (s.enginePart k)

/-- The next step number. -/
def bump (r : Res) : Res := match r with
  | .next s => .next { s with tick := s.tick + 1 }
  | r => r

end Sys2Proof.Machine
end

