-- ==== Sys2Proof/Machine/Place.lean ====
section
/-!
DEFINITION. Where the host's question places an instruction: the package with one thread about to issue it.
-/

namespace Sys2Proof.Machine

/-- The team that a placed instruction runs in: one thread with 64 registers on core 0 (log 2). -/
def placedTeam : Team := { live := true, nreg := 64, n := 1, acc := 16, scr := 65536, scrg := 1, regg := 1 }

/-- A held translation of the code page of a placed instruction: virtual and physical address 0 of slice 0. -/
def placedPage (slice : Nat) : Tlb :=
  { place := 0, slice := slice, va := 0, size := 0x200000, pa := 0, tier := 2, w := true, x := true, p := false, disc := false,
    caddy := false, ent := 0 }

/-- The state with an instruction stored in packet 0 of code line 0, which the one thread of a new team is about to issue. -/
def State.placeWord (s : State) (w : Nat) : State :=
  let u := s.nextUid
  { s with
    agenda := [.issue 0 0], nextUid := u + 1,
    mem := memPuts s.mem 0 (toBytes 4 0 ++ toBytes 8 w),
    poison := s.poison.filter (· != 0), cistern := s.cistern.filter fun c => c.line != 0,
    tlb := [placedPage (s.lead 0)],
    teams := [(u, placedTeam)],
    threads := NMap.put s.threads (tkey u 0) { exited := false, pos := 4, stamp := s.tick } }

end Sys2Proof.Machine
end

