-- ==== Sys2Proof/Machine/Step.lean ====
section
/-!
DEFINITION. One step of the package: the first move of the agenda, or, with an empty agenda, the move that the free choice picks
among those the agents can make (log 2).
-/

namespace Sys2Proof.Machine

def step (s : State) : Host.Outcome State Fault Refusal :=
  match s.agenda with
  | m :: rest => bump ({ s with agenda := rest }.doMove m)
  | [] => bump s.act

/-- The state whose next step issues the instruction with these bits: see `State.placeWord`. -/
def State.withFetchWord (s : State) (_nbits w : Nat) : State := s.placeWord w

end Sys2Proof.Machine
end

