-- ==== Sys2Proof/Safety.lean ====
section
/-!
DEFINITION. The terms in which claims about the machine are stated.
-/

namespace Sys2Proof

/-- The word `w`, whatever word follows it but the operand word `o` where there is one, decodes to the instruction; the
operand word is there exactly in format X, and the chain bit is clear. -/
def Instr.Decodes (i : Instr) (w : BitVec 32) (o : Option (BitVec 32)) : Prop :=
  (∀ x, decode w (o.getD x) = .ok i) ∧ o.isSome = isX w ∧ chained w = false

/-- The words that the encoder gives an instruction decode to it. -/
def Instr.RoundTrips (i : Instr) : Prop :=
  ∀ w o, encode i = some (w, o) → i.Decodes w o

theorem Instr.RoundTrips.event {i : Instr} (h : encode i = none) : i.RoundTrips := by
  intro w o e; rw [h] at e; cases e

theorem Instr.RoundTrips.of {i : Instr} {w : BitVec 32} {o : Option (BitVec 32)} (h : encode i = some (w, o))
    (d : i.Decodes w o) : i.RoundTrips := by
  intro w' o' e; rw [h] at e; cases e; exact d

namespace Machine

/-- The key of one of the registers d to d + n − 1 of an active lane. -/
def State.dest (s : State) (d n k : Nat) : Prop := ∃ l ∈ s.iss.lanes, ∃ j < n, k = vkey s.iss.uid (s.tOf l) (d + j)

/-- The key of condition-code set c of an active lane. -/
def State.destCc (s : State) (c k : Nat) : Prop := ∃ l ∈ s.iss.lanes, k = cckey s.iss.uid (s.tOf l) c

/-- The next state differs from `s` at most in vector registers: those from d to d + n − 1 of each active lane l hold
`f l 0` to `f l (n − 1)`, and every other register of every thread is as before. -/
def PutsIn (s : State) (d n : Nat) (f : Nat → Nat → Word) (t : State) : Prop :=
  (∀ l ∈ s.iss.lanes, ∀ j < n, t.vAt s.iss.uid (s.tOf l) (d + j) = f l j)
  ∧ ∀ k, ¬ s.dest d n k → NMap.get 0 t.v k = NMap.get 0 s.v k

/-- The meaning completes: only registers d to d + n − 1 of the active lanes change, and they hold `f`. -/
def Puts (s : State) (d n : Nat) (f : Nat → Nat → Word) (r : Res) : Prop :=
  ∃ t, r = .next t ∧ t = { s with v := t.v } ∧ PutsIn s d n f t

/-- The same for register d alone. -/
def Puts1 (s : State) (d : VReg) (f : Nat → Word) (r : Res) : Prop := Puts s d.toNat 1 (fun l _ => f l) r

/-- The same for the pair d, d + 1, which holds a 64-bit value. -/
def Puts2 (s : State) (d : VReg) (f : Nat → Nat) (r : Res) : Prop :=
  Puts s d.toNat 2 (fun l j => toW (f l / 2 ^ (32 * j))) r

/-- Set c of each active lane l holds `g l`, and every other set is as before. -/
def CcIn (s : State) (c : BitVec 2) (g : Nat → BitVec 4) (t : State) : Prop :=
  (∀ l ∈ s.iss.lanes, NMap.get 0 t.cc (cckey s.iss.uid (s.tOf l) c.toNat) = g l)
  ∧ ∀ k, ¬ s.destCc c.toNat k → NMap.get 0 t.cc k = NMap.get 0 s.cc k

/-- The meaning completes: register d and set c of the active lanes change, and nothing else. -/
def PutsCc (s : State) (d : VReg) (c : BitVec 2) (f : Nat → Word) (g : Nat → BitVec 4) (r : Res) : Prop :=
  ∃ t, r = .next t ∧ t = { s with v := t.v, cc := t.cc } ∧ PutsIn s d.toNat 1 (fun l _ => f l) t ∧ CcIn s c g t

/-- The meaning completes: set c of the active lanes changes, and nothing else. -/
def OnlyCc (s : State) (c : BitVec 2) (g : Nat → BitVec 4) (r : Res) : Prop :=
  ∃ t, r = .next t ∧ t = { s with cc := t.cc } ∧ CcIn s c g t

/-- The meaning completes: uniform register d of the issuing gang holds `x`, and nothing else changes. -/
def PutsU (s : State) (d : UReg) (x : Word) (r : Res) : Prop :=
  ∃ t, r = .next t ∧ t = { s with u := t.u } ∧ NMap.get 0 t.u (ukey s.iss.uid s.iss.gang d.toNat) = x
    ∧ ∀ k, k ≠ ukey s.iss.uid s.iss.gang d.toNat → NMap.get 0 t.u k = NMap.get 0 s.u k

/-- Where an active lane goes after the group. -/
def State.nextPos (s : State) (l : Nat) : Nat := NMap.get s.iss.follow s.iss.tgt l

/-- Lanes `ls` go to `f`, and the others where they would have gone. -/
def GoesTo (s : State) (ls : List Nat) (f : Nat → Nat) (t : State) : Prop :=
  (∀ l ∈ ls, t.nextPos l = f l) ∧ ∀ l, l ∉ ls → t.nextPos l = s.nextPos l

/-- The meaning completes: lanes `ls` go to `f` after the group, and nothing else changes. -/
def Goes (s : State) (ls : List Nat) (f : Nat → Nat) (r : Res) : Prop :=
  ∃ t, r = .next t ∧ t = { s with iss := { s.iss with tgt := t.iss.tgt } } ∧ GoesTo s ls f t

/-- The same with the pair d, d + 1 of every active lane holding `x`. -/
def GoesLinked (s : State) (d x : Nat) (f : Nat → Nat) (r : Res) : Prop :=
  ∃ t, r = .next t ∧ t = { s with v := t.v, iss := { s.iss with tgt := t.iss.tgt } } ∧ GoesTo s s.iss.lanes f t
    ∧ PutsIn s d 2 (fun _ j => toW (x / 2 ^ (32 * j))) t

/-- The threads of lanes `ls` are as `f` makes them, and every other thread is as before. -/
def ThreadsIn (s : State) (ls : List Nat) (f : Nat → Thread → Thread) (t : State) : Prop :=
  (∀ l ∈ ls, t.thr s.iss.uid (s.tOf l) = f l (s.thr s.iss.uid (s.tOf l)))
  ∧ ∀ k, (∀ l ∈ ls, k ≠ tkey s.iss.uid (s.tOf l)) → NMap.get {} t.threads k = NMap.get {} s.threads k

/-- Team u is as `f` makes it, and every other team is as before. -/
def TeamIn (s : State) (u : Nat) (f : Team → Team) (t : State) : Prop :=
  t.team u = f (s.team u) ∧ ∀ k, k ≠ u → t.team k = s.team k

/-- The bytes of a physical line as a plain access of a core finds them: its own copy, else the line at its home slice. -/
def State.lineAs (s : State) (core line : Nat) : List Byte :=
  match s.copy core line with
  | some c => c.data
  | none => s.homeLine line

/-- The byte at a physical address as a plain access of a core finds it. -/
def State.byteAs (s : State) (core pa : Nat) : Byte := (s.lineAs core (pa / 64)).getD (pa % 64) 0

/-- Byte j of the registers r, r + 1, … of an active lane. -/
def State.regByte (s : State) (lane r j : Nat) : Byte := BitVec.ofNat 8 ((s.rv lane (r + j / 4)).toNat / 2 ^ (8 * (j % 4)))

/-- Registers d to d + n − 1 of the active lanes are marked empty, and no other register's mark changes. -/
def Emptied (s : State) (d n : Nat) (t : State) : Prop :=
  (∀ l ∈ s.iss.lanes, ∀ j < n, t.isEmpty s.iss.uid (s.tOf l) (d + j) = true)
  ∧ ∀ k, ¬ s.dest d n k → NMap.get false t.empty k = NMap.get false s.empty k

/-- A team with a thread that lives on and with nothing arrived at its barriers: the end of an operation of an engine lets neither a
barrier complete nor the team end. -/
def State.GoesOn (s : State) (u : Nat) : Prop := s.liveThreads u ≠ [] ∧ ∀ b < 16, (s.bar u b).arrived = []

/-- The completion register d of the lanes of a gang is full and holds x, but for lanes whose thread has exited; no other register or
mark changes. -/
def Completes (s : State) (u g : Nat) (lanes : List Nat) (d : Nat) (x : Word) (t : State) : Prop :=
  (∀ l ∈ lanes, (s.thr u (32 * g + l)).exited = false → t.vAt u (32 * g + l) d = x ∧ t.isEmpty u (32 * g + l) d = false)
  ∧ ∀ k, (∀ l ∈ lanes, (s.thr u (32 * g + l)).exited = false → k ≠ vkey u (32 * g + l) d) →
      NMap.get 0 t.v k = NMap.get 0 s.v k ∧ NMap.get false t.empty k = NMap.get false s.empty k

/-- The meaning completes, without a trap of its own and without waiting, in a next state of which `P` holds. -/
def Done (s : State) (r : Res) (P : State → Prop) : Prop :=
  ∃ t, r = .next t ∧ t.iss.trap = s.iss.trap ∧ t.iss.stall = s.iss.stall ∧ P t

/-- The meaning completes: register d of the active lanes is marked empty, a fill of it with `f` is queued for each of them,
and nothing else changes. -/
def LateOne (s : State) (d : VReg) (f : Nat → Word) (r : Res) : Prop :=
  ∃ t, r = .next t
    ∧ t = { s with
        empty := t.empty,
        lates := s.lates ++ s.iss.lanes.map fun l => ⟨s.iss.uid, s.tOf l, [(d.toNat, f l)], false, none⟩ }
    ∧ Emptied s d.toNat 1 t

/-- Instance i of system register n holds x, and every other system register is as before. -/
def SysIn (s : State) (n i x : Nat) (t : State) : Prop :=
  t.sysr n i = x ∧ ∀ k, k ≠ sreg n i → NMap.find t.sys k = NMap.find s.sys k

/-- The meaning completes: instance i of system register n holds x, and nothing else changes. -/
def SetsSys (s : State) (n i x : Nat) (r : Res) : Prop := ∃ t, r = .next t ∧ t = { s with sys := t.sys } ∧ SysIn s n i x t

/-- A register value with bit k set. -/
def withBit (x k : Nat) : Nat := if nbit x k then x else x + 2 ^ k

/-- The meaning answers a next state, and the memory there is in its canonical form. -/
def Keeps (r : Res) : Prop := ∃ t, r = .next t ∧ Memory.wf t.mem = true

end Machine

end Sys2Proof
end

