-- ==== Sys2Proof/Certificates/Slice0/Obligations.lean ====
section
/-!
DEFINITION. The statements for the provers. Where one names several instructions or events, its parts stand first, each
under its own name in Claims; the obligation is their conjunction.
-/

namespace Sys2Proof.Machine.Claims

open Sys2Proof

/-- R136 and R150 read together: after ICMP the signed and unsigned conditions compare the sources. -/
def ConditionsCompare : Prop :=
  ∀ (s : State) (a b : VReg) (pa pb : Bool) (c : BitVec 2),
    ∃ g, OnlyCc s c g (exec (.icmp c a b pa pb) s) ∧ ∀ l ∈ s.iss.lanes,
      let x := s.rv l a.toNat
      let y := s.rv l b.toNat
      (cond 0 (g l) = true ↔ x = y) ∧ (cond 1 (g l) = true ↔ x ≠ y)
      ∧ (cond 4 (g l) = true ↔ y.toNat ≤ x.toNat) ∧ (cond 5 (g l) = true ↔ x.toNat < y.toNat)
      ∧ (cond 8 (g l) = true ↔ y.toInt ≤ x.toInt) ∧ (cond 9 (g l) = true ↔ x.toInt < y.toInt)
      ∧ (cond 10 (g l) = true ↔ y.toInt < x.toInt) ∧ (cond 11 (g l) = true ↔ x.toInt ≤ y.toInt)
      ∧ (cond 12 (g l) = true ↔ y.toNat < x.toNat) ∧ (cond 13 (g l) = true ↔ x.toNat ≤ y.toNat)

/-- R153: logic, shifts, bit counts and bit fields; and MOV, which copies bit for bit (R156). -/
def LogicResults : Prop :=
  ∀ (s : State) (d a b : VReg) (pa pb : Bool),
    let x (l : Nat) : Word := s.rv l a.toNat
    let y (l : Nat) : Word := s.rv l b.toNat
    let n (l : Nat) : Nat := (y l).toNat % 64
    let p (l : Nat) : Nat := (y l).toNat % 32
    let w (l : Nat) : Nat := (y l).toNat / 256 % 32 + 1
    Puts1 s d x (exec (.mov d a pa) s)
    ∧ Puts1 s d (fun l => x l &&& y l) (exec (.and d a b pa pb) s)
    ∧ Puts1 s d (fun l => x l ||| y l) (exec (.or d a b pa pb) s)
    ∧ Puts1 s d (fun l => x l ^^^ y l) (exec (.xor d a b pa pb) s)
    ∧ Puts1 s d (fun l => BitVec.ofNat 32 ((x l).toNat * 2 ^ n l)) (exec (.shl d a b pa pb) s)
    ∧ Puts1 s d (fun l => BitVec.ofNat 32 ((x l).toNat / 2 ^ n l)) (exec (.shrN32 d a b pa pb) s)
    ∧ Puts1 s d (fun l => BitVec.ofInt 32 ((x l).toInt / 2 ^ min (n l) 31)) (exec (.shrI32 d a b pa pb) s)
    ∧ Puts1 s d (fun l => BitVec.ofNat 32 (((List.range 32).filter fun k => (x l).getLsbD k).length)) (exec (.popc d a pa) s)
    ∧ (∃ f, Puts1 s d f (exec (.clz d a pa) s) ∧ ∀ l ∈ s.iss.lanes,
        if x l = 0 then f l = 32
        else (f l).toNat < 32 ∧ 2 ^ (31 - (f l).toNat) ≤ (x l).toNat ∧ (x l).toNat < 2 ^ (32 - (f l).toNat))
    ∧ (∃ f, Puts1 s d f (exec (.bfx d a b pa pb) s) ∧ ∀ l ∈ s.iss.lanes, ∀ j < 32,
        (f l).getLsbD j = (decide (j < w l) && (x l).getLsbD (p l + j)))
    ∧ (∃ f, Puts1 s d f (exec (.bfi d a b pa pb) s) ∧ ∀ l ∈ s.iss.lanes, ∀ j < 32,
        (f l).getLsbD j = if p l ≤ j ∧ j < p l + w l then (x l).getLsbD (j - p l) else (s.rv l d.toNat).getLsbD j)

/-- R155 and R156: the floating-point instructions. In each active lane register d receives the operation of its sources,
rounded under the instruction's mode, with the flush that TEAM.FPCTL asks for; a half form does so in both halves. FCLASS sets one
bit: 0 to 3 for a negative infinity, normal number, subnormal number and zero, 7 down to 4 for positive ones, 8 and 9 for a signalling
and a quiet NaN. -/
def FloatResults : Prop :=
  ∀ (s : State) (r : BitVec 2) (d a b : VReg) (pa pb : Bool),
    let x (l : Nat) : Nat := (s.rv l a.toNat).toNat
    let y (l : Nat) : Nat := (s.rv l b.toNat).toNat
    let z (l : Nat) : Nat := (s.rv l d.toNat).toNat
    let lo (w : Nat) : Nat := w % 2 ^ 16
    let hi (w : Nat) : Nat := w / 2 ^ 16
    let both (f : Nat → Nat → Nat) (l : Nat) : Word := toW (f (lo (x l)) (lo (y l)) + 2 ^ 16 * f (hi (x l)) (hi (y l)))
    let m := r.toNat
    Puts1 s d (fun l => toW (fAdd f32 m s.ftz32 (x l) (y l))) (exec (.faddF32 r d a b pa pb) s)
    ∧ Puts1 s d (fun l => toW (fSub f32 m s.ftz32 (x l) (y l))) (exec (.fsubF32 r d a b pa pb) s)
    ∧ Puts1 s d (fun l => toW (fMul f32 m s.ftz32 (x l) (y l))) (exec (.fmulF32 r d a b pa pb) s)
    ∧ Puts1 s d (fun l => toW (fFma f32 m s.ftz32 (x l) (y l) (z l))) (exec (.ffmaF32 r d a b pa pb) s)
    ∧ Puts1 s d (both (fAdd f16 m s.ftz16)) (exec (.faddF16x2 r d a b pa pb) s)
    ∧ Puts1 s d (both (fMul f16 m s.ftz16)) (exec (.fmulF16x2 r d a b pa pb) s)
    ∧ Puts1 s d (fun l => toW (fFma f16 m s.ftz16 (lo (x l)) (lo (y l)) (lo (z l))
        + 2 ^ 16 * fFma f16 m s.ftz16 (hi (x l)) (hi (y l)) (hi (z l)))) (exec (.ffmaF16x2 r d a b pa pb) s)
    ∧ Puts1 s d (both (fAdd bf16 m s.ftz16)) (exec (.faddBf16x2 r d a b pa pb) s)
    ∧ Puts1 s d (both (fMul bf16 m s.ftz16)) (exec (.fmulBf16x2 r d a b pa pb) s)
    ∧ Puts1 s d (fun l => toW (fFma bf16 m s.ftz16 (lo (x l)) (lo (y l)) (lo (z l))
        + 2 ^ 16 * fFma bf16 m s.ftz16 (hi (x l)) (hi (y l)) (hi (z l)))) (exec (.ffmaBf16x2 r d a b pa pb) s)
    ∧ Puts1 s d (fun l => toW (fMinMax f32 false s.ftz32 (x l) (y l))) (exec (.fminF32 d a b pa pb) s)
    ∧ Puts1 s d (fun l => toW (fMinMax f32 true s.ftz32 (x l) (y l))) (exec (.fmaxF32 d a b pa pb) s)
    ∧ Puts1 s d (both (fMinMax f16 false s.ftz16)) (exec (.fminF16x2 d a b pa pb) s)
    ∧ Puts1 s d (both (fMinMax f16 true s.ftz16)) (exec (.fmaxF16x2 d a b pa pb) s)
    ∧ Puts1 s d (fun l => if isNan32 (x l) then 0x7FC00000 else BitVec.ofNat 32 (x l % 2 ^ 31)) (exec (.fabsF32 d a pa) s)
    ∧ (∃ f, Puts1 s d f (exec (.fnegF32 d a pa) s) ∧ ∀ l ∈ s.iss.lanes,
        if isNan32 (x l) then f l = 0x7FC00000
        else (f l).toNat % 2 ^ 31 = x l % 2 ^ 31 ∧ (f l).msb = !(s.rv l a.toNat).msb)
    ∧ Puts1 s d (fun l =>
        let ex := x l / 2 ^ 23 % 2 ^ 8
        let fr := x l % 2 ^ 23
        let k := if ex = 255 then 0 else if ex ≠ 0 then 1 else if fr ≠ 0 then 2 else 3
        BitVec.ofNat 32 (2 ^ (if ex = 255 ∧ fr ≠ 0 then (if fr < 2 ^ 22 then 8 else 9) else if 2 ^ 31 ≤ x l then k else 7 - k)))
      (exec (.fclassF32 d a pa) s)

/-- R112 and R156: a NaN source gives the canonical NaN in FADD, FSUB, FMUL and FFMA, in every rounding mode, flushed or not;
FMIN and FMAX of a NaN and a number give the number, flushed as FTZ32 says. -/
def NanSources : Prop :=
  ∀ (m : Nat) (ftz : Bool) (x y z : Nat), x < 2 ^ 32 → y < 2 ^ 32 → z < 2 ^ 32 →
    (isNan32 x = true ∨ isNan32 y = true →
      fAdd f32 m ftz x y = 0x7FC00000 ∧ fSub f32 m ftz x y = 0x7FC00000 ∧ fMul f32 m ftz x y = 0x7FC00000)
    ∧ (isNan32 x = true ∨ isNan32 y = true ∨ isNan32 z = true → fFma f32 m ftz x y z = 0x7FC00000)
    ∧ (isNan32 x = true → isNan32 y = true → fMinMax f32 false ftz x y = 0x7FC00000 ∧ fMinMax f32 true ftz x y = 0x7FC00000)
    ∧ (isNan32 x = true → isNan32 y = false →
        fMinMax f32 false ftz x y = fMinMax f32 false ftz y y ∧ fMinMax f32 true ftz x y = fMinMax f32 true ftz y y)

/-- R151: FCMP.F32 writes only its set; a NaN source gives the unordered set, and otherwise exactly one of equal, less and greater
holds as the values after the flush compare. -/
def FloatCompare : Prop :=
  ∀ (s : State) (a b : VReg) (pa pb : Bool) (c : BitVec 2),
    ∃ g, OnlyCc s c g (exec (.fcmpF32 c a b pa pb) s) ∧ ∀ l ∈ s.iss.lanes,
      let x := srcF f32 s.ftz32 (s.rv l a.toNat).toNat
      let y := srcF f32 s.ftz32 (s.rv l b.toNat).toNat
      (x = .nan ∨ y = .nan → g l = 0b0001#4)
      ∧ (x ≠ .nan → y ≠ .nan → ltV x y = true → g l = 0b0010#4)
      ∧ (x ≠ .nan → y ≠ .nan → ltV x y = false → ltV y x = true → g l = 0b1000#4)
      ∧ (x ≠ .nan → y ≠ .nan → ltV x y = false → ltV y x = false → g l = 0b1100#4)

/-- R118, R158 to R161: CVT writes the conversion of each active lane's source unless one of them overflows under policy 11,
which raises CVT_OVERFLOW at the lowest such lane and writes nothing. PACK writes the codes of the gang's elements, lowest first, into
lanes 0 to w - 1, the scale byte into lane w, 255 for a Q6 block with a NaN, and zero into every other active lane, or raises
CVT_OVERFLOW at the lowest active lane that has no code; UNPACK reads such a block; SEL chooses by the condition. -/
def Conversions : Prop :=
  (∀ (s : State) (d a : VReg) (pa ftz : Bool) (ovf rnd : BitVec 2) (dst src : BitVec 4),
    let val (l : Nat) : Nat := if 14 ≤ src.toNat then s.rp l a.toNat else (s.rv l a.toNat).toNat
    let out (l : Nat) : Option Int := cvt1 ftz ovf.toNat rnd.toNat dst.toNat src.toNat (val l)
    ((∀ l ∈ s.iss.lanes, (out l).isSome = true) → dst.toNat < 14 →
      Puts1 s d (fun l => BitVec.ofInt 32 ((out l).getD 0)) (exec (.cvt d a pa ftz ovf rnd dst src) s))
    ∧ ((∀ l ∈ s.iss.lanes, (out l).isSome = true) → 14 ≤ dst.toNat → d.toNat % 2 = 0 →
      Puts2 s d (fun l => (((out l).getD 0) % 2 ^ 64).toNat) (exec (.cvt d a pa ftz ovf rnd dst src) s))
    ∧ ∀ l pre post, s.iss.lanes = pre ++ l :: post → (∀ k ∈ pre, (out k).isSome = true) → out l = none →
      exec (.cvt d a pa ftz ovf rnd dst src) s = raise { cause := .cvtOverflow, lane := l } s)
  ∧ (∀ (s : State) (d a : VReg) (pa : Bool) (ovf rnd qtype : BitVec 2) (fmt : BitVec 4),
    let f := fmt.toNat
    let xs := (List.range 32).map fun l => if l ∈ s.iss.lanes then (s.rv l a.toNat).toNat else 0
    let sb := packScale f qtype.toNat (xs.foldl (fun m x => magMax m (mag32 x)) none)
    let code (l : Nat) : Option Nat := (xs.map (packElem f qtype.toNat rnd.toNat ovf.toNat sb)).getD l none
    let w := blkBits f
    let block := ((List.range 32).map fun k => (code k).getD 0 * 2 ^ (w * k)).sum
    let scale := if (f = 13 ∨ f = 14) ∧ xs.any isNan32 then 255 else sb
    ((∀ l ∈ s.iss.lanes, (code l).isSome = true) →
      Puts1 s d (fun l => if l < w then BitVec.ofNat 32 (block / 2 ^ (32 * l)) else if l = w then BitVec.ofNat 32 scale else 0)
        (exec (.pack d a pa ovf rnd qtype fmt) s))
    ∧ ∀ l pre post, s.iss.lanes = pre ++ l :: post → (∀ k ∈ pre, (code k).isSome = true) → code l = none →
      exec (.pack d a pa ovf rnd qtype fmt) s = raise { cause := .cvtOverflow, lane := l } s)
  ∧ (∀ (s : State) (d a : VReg) (pa : Bool) (fmt : BitVec 4),
    let n := blkBits fmt.toNat
    let word (k : Nat) : Nat := if k ∈ s.iss.lanes then (s.rv k a.toNat).toNat else 0
    let block := ((List.range n).map fun k => word k * 2 ^ (32 * k)).sum
    Puts1 s d (fun l => toW (flushF f32 s.ftz32 (roundV f32 0 (blkVal fmt.toNat (word n % 256) (block / 2 ^ (n * l) % 2 ^ n)))))
      (exec (.unpack d a pa fmt) s))
  ∧ ∀ (s : State) (d a b : VReg) (pa pb : Bool) (c : BitVec 4) (n : BitVec 2),
    Puts1 s d (fun l => if cond c (s.rcc l n.toNat) then s.rv l a.toNat else s.rv l b.toNat) (exec (.sel d a b pa pb c n) s)

/-- R162: LANE.PICK, RISE, FALL and SWAP give each active lane v[A] of its source lane, or its own where that lane lies outside 0
to 31 or is not active. -/
def LaneMoves : Prop :=
  ∀ (s : State) (d a b : VReg) (pa pb : Bool),
    let c (l : Nat) : Nat := (s.rv l b.toNat).toNat % 32
    let from_ (src : Nat → Int) (l : Nat) : Word :=
      if 0 ≤ src l ∧ src l < 32 ∧ (src l).toNat ∈ s.iss.lanes then s.rv (src l).toNat a.toNat else s.rv l a.toNat
    (∀ l ∈ s.iss.lanes, l < 32) →
      Puts1 s d (from_ fun l => c l) (exec (.lanePick d a b pa pb) s)
      ∧ Puts1 s d (from_ fun l => (l : Int) - c l) (exec (.laneRise d a b pa pb) s)
      ∧ Puts1 s d (from_ fun l => (l : Int) + c l) (exec (.laneFall d a b pa pb) s)
      ∧ Puts1 s d (from_ fun l => ((l ^^^ c l : Nat) : Int)) (exec (.laneSwap d a b pa pb) s)

/-- R163 and R164: POLL, FOLD and SCAN over the active lanes, taken in ascending order; FOLD.FADD.F32 adds in the rule's tree, of
which an absent lane is no part, sources flushed under FTZ32 (R116) and NaNs canonical (R112). -/
def PollsAndFolds : Prop :=
  ∀ (s : State) (d a : VReg) (pa : Bool),
    let x (l : Nat) : Word := s.rv l a.toNat
    let lanes := s.iss.lanes
    let tree : Nat → Nat → Option Nat := fun k =>
      Nat.rec (motive := fun _ => Nat → Option Nat) (fun j => if j ∈ lanes then some (if isNan32 (x j).toNat then 0x7FC00000 else flushF f32 s.ftz32 (x j).toNat) else none)
        (fun _ t j => match t (2 * j), t (2 * j + 1) with
          | some p, some q => some (fAdd f32 0 s.ftz32 p q)
          | some p, none => some p
          | none, q => q) k
    lanes ≠ [] → lanes.Pairwise (· < ·) → (∀ l ∈ lanes, l < 32) →
      Puts1 s d (fun _ => if ∃ l ∈ lanes, x l ≠ 0 then 1 else 0) (exec (.pollSome d a pa) s)
      ∧ Puts1 s d (fun _ => if ∀ l ∈ lanes, x l ≠ 0 then 1 else 0) (exec (.pollEvery d a pa) s)
      ∧ (∃ m : Word, Puts1 s d (fun _ => m) (exec (.pollMask d a pa) s) ∧
          ∀ j < 32, m.getLsbD j = true ↔ j ∈ lanes ∧ x j ≠ 0)
      ∧ Puts1 s d (fun _ => BitVec.ofNat 32 (lanes.map fun l => (x l).toNat).sum) (exec (.foldAddI32 d a pa) s)
      ∧ (∃ m : Word, Puts1 s d (fun _ => m) (exec (.foldMinI32 d a pa) s) ∧
          (∃ l ∈ lanes, m = x l) ∧ ∀ l ∈ lanes, m.toInt ≤ (x l).toInt)
      ∧ (∃ m : Word, Puts1 s d (fun _ => m) (exec (.foldMaxI32 d a pa) s) ∧
          (∃ l ∈ lanes, m = x l) ∧ ∀ l ∈ lanes, (x l).toInt ≤ m.toInt)
      ∧ (∃ r, tree 5 0 = some r ∧ Puts1 s d (fun _ => toW r) (exec (.foldFaddF32 d a pa) s))
      ∧ Puts1 s d (fun l => BitVec.ofNat 32 ((lanes.filter (· ≤ l)).map fun k => (x k).toNat).sum) (exec (.scanAddI32 d a pa) s)

/-- R165: BSORT with a legal mode word sorts the pairs of its participating positions, equal keys in their order, and changes
nothing else; an illegal mode word raises ILLEGAL_FIELD. -/
def BlockSort : Prop :=
  ∀ (s : State) (d : VReg) (a : UReg), d.toNat % 4 = 0 →
    let mode := (s.ru a.toNat).toNat
    let count := bits mode 14 8
    let rank (w : Word) : Nat := if nbit mode 0 then f32Rank w else w.toNat
    let poss := (List.range count).filter fun k => s.iss.lanes.contains (k % 32)
    let reg (k : Nat) : Nat := vkey s.iss.uid (s.tOf (k % 32)) (d.toNat + k / 32)
    let pay (k : Nat) : Nat := vkey s.iss.uid (s.tOf (k % 32)) (d.toNat + 2 + k / 32)
    let legal : Prop := bits mode 31 15 = 0 ∧ bits mode 7 2 = 0 ∧ 1 ≤ count ∧ count ≤ 64
    (legal →
      ∃ t, exec (.bsort d a) s = .next t ∧ t = { s with v := t.v }
        ∧ (let old := poss.map fun k => (NMap.get 0 s.iss.v0 (reg k), NMap.get 0 s.iss.v0 (pay k))
           let new := poss.map fun k => (NMap.get 0 t.v (reg k), NMap.get 0 t.v (pay k))
           new.Pairwise (fun p q => if nbit mode 1 then rank q.1 ≤ rank p.1 else rank p.1 ≤ rank q.1)
           ∧ ∀ r, new.filter (fun p => rank p.1 == r) = old.filter (fun p => rank p.1 == r))
        ∧ ∀ key, (∀ k ∈ poss, key ≠ reg k ∧ key ≠ pay k) → NMap.get 0 t.v key = NMap.get 0 s.v key)
    ∧ (¬ legal → exec (.bsort d a) s = raise { cause := .illegalField, lane := s.low } s)

/-- R166: INTERSECT writes the matches of its walk and its advances. The walk ends with one list used up; each match is of equal
values; where both lists ascend, every pair of equal values is matched. -/
def Intersection : Prop :=
  ∀ (s : State) (d a b : VReg) (pa pb : Bool), d.toNat % 2 = 0 →
    let la := laneList s a
    let lb := laneList s b
    ∃ (i j : Nat) (p : List (Nat × Nat)),
      Puts s d.toNat 2 (fun l k =>
        if k = 0 then (match p[l]? with | some (x, y) => toW (x + 2 ^ 16 * y) | none => 0xFFFFFFFF)
        else toW (i + 2 ^ 8 * j + 2 ^ 16 * p.length)) (exec (.intersect d a b pa pb) s)
      ∧ i ≤ la.length ∧ j ≤ lb.length ∧ (i = la.length ∨ j = lb.length)
      ∧ (∀ q ∈ p, q.1 < i ∧ q.2 < j ∧ la[q.1]? = lb[q.2]?)
      ∧ p.Pairwise (fun q r => q.1 < r.1 ∧ q.2 < r.2)
      ∧ (la.Pairwise (· < ·) → lb.Pairwise (· < ·) →
          ∀ x y v, la[x]? = some v → lb[y]? = some v → (x, y) ∈ p)

/-- R167: PRUNE keeps v[A] where fewer than M lanes of the group of n have a greater saliency, or an equal one in a lower lane, and
writes zero elsewhere; so a group keeps at most M lanes. -/
def Pruning : Prop :=
  ∀ (s : State) (d a b : VReg) (pa pb : Bool) (m : BitVec 6) (logn : BitVec 3),
    let sal (l : Nat) : Nat := salRank (fMul f32 0 s.ftz32 (s.rv l a.toNat).toNat (s.rv l b.toNat).toNat)
    let n := 2 ^ logn.toNat
    let kept (l : Nat) : Prop :=
      (s.iss.lanes.filter fun k => k / n = l / n ∧ (sal l < sal k ∨ sal k = sal l ∧ k < l)).length < m.toNat
    Puts1 s d (fun l => if kept l then s.rv l a.toNat else 0) (exec (.prune d a b pa pb m logn) s)
    ∧ (s.iss.lanes.Nodup → ∀ q, (s.iss.lanes.filter fun l => l / n = q ∧ kept l).length ≤ m.toNat)

/-- R127: packet indices and packet addresses name each other, and the packet after a packet has the next index. -/
def PacketIndices : Prop :=
  (∀ n, packetAddr (packetAt n) = true ∧ pIdx (packetAt n) = n)
  ∧ (∀ a, packetAddr a = true → packetAt (pIdx a) = a)
  ∧ ∀ a, packetAddr a = true → pIdx a + 1 < pIdxEnd →
      nextPacket a = if a % 64 = 52 then a + 16 else a + 12

/-- R175 to R177: BRA moves every active lane to the packet at its offset and CALL links in v0:v1 as well; BRC moves the lanes whose
condition holds, and does nothing where none does. A target outside the packet indices raises ALIGN at the lowest lane that takes
the transfer. -/
def Branches : Prop :=
  ∀ (s : State) (off : BitVec 24) (a : VReg) (pa : Bool) (c : BitVec 4) (set : BitVec 2) (rz : Bool),
    let i : Int := pIdx s.pc + off.toInt
    let inside : Prop := 0 ≤ i ∧ i < pIdxEnd
    let taken := s.iss.lanes.filter fun l =>
      if rz then (if c = 0 then s.rv l a.toNat = 0 else s.rv l a.toNat ≠ 0) else cond c (s.rcc l set.toNat)
    (inside →
      Goes s s.iss.lanes (fun _ => packetAt i.toNat) (exec (.bra off) s)
      ∧ GoesLinked s 0 (fullAddr (nextPacket s.pc)) (fun _ => packetAt i.toNat) (exec (.call off) s)
      ∧ Goes s taken (fun _ => packetAt i.toNat) (exec (.brc a pa c set rz off) s))
    ∧ (taken = [] → exec (.brc a pa c set rz off) s = .next s)
    ∧ (¬ inside → ∀ l rest,
        (s.iss.lanes = l :: rest →
          exec (.bra off) s = raise { cause := .align, lane := l } s ∧ exec (.call off) s = raise { cause := .align, lane := l } s)
        ∧ (taken = l :: rest → exec (.brc a pa c set rz off) s = raise { cause := .align, lane := l } s))

/-- R178: JMP, RET and CALLR go to each lane's pair, CALLR with a link; the lowest lane whose pair is no local packet address raises
ACCESS or ALIGN, and no lane transfers. -/
def IndirectTransfers : Prop :=
  ∀ (s : State) (d a : VReg) (pa : Bool), d.toNat % 2 = 0 →
    let va (l : Nat) : Nat := s.rp l a.toNat
    let form (l : Nat) : Prop := nbit (va l) 63 = false ∧ canonical (va l) = true
    ((∀ l ∈ s.iss.lanes, form l ∧ packetAddr (va l) = true) →
      Goes s s.iss.lanes (fun l => va l % 2 ^ 57) (exec (.jmp a pa) s)
      ∧ Goes s s.iss.lanes (fun l => va l % 2 ^ 57) (exec (.ret a pa) s)
      ∧ GoesLinked s d.toNat (fullAddr (nextPacket s.pc)) (fun l => va l % 2 ^ 57) (exec (.callr d a pa) s))
    ∧ ∀ pre l post, s.iss.lanes = pre ++ l :: post → (∀ k ∈ pre, form k ∧ packetAddr (va k) = true) →
        ∀ i ∈ [Instr.jmp a pa, .ret a pa, .callr d a pa],
          (¬ form l → exec i s = raise { cause := .access, lane := l, addr := va l } s)
          ∧ (form l → packetAddr (va l) = false → exec i s = raise { cause := .align, lane := l, addr := va l } s)

/-- R180 and R181: MEET and SPWR set the meeting address of every active lane; the meetings they test then change no more of any
thread than whether it is held, its fragment and its fragment's age. -/
def MeetingAddresses : Prop :=
  ∀ (s : State) (clr : Bool) (off : BitVec 24) (b : VReg) (pb : Bool),
    let i : Int := pIdx s.pc + off.toInt
    let x (l : Nat) : Nat := (s.rv l b.toNat).toNat
    let sets (m : Nat → Nat) (r : Res) : Prop :=
      ∃ t, r = .next t ∧ t = { s with threads := t.threads }
        ∧ ∀ k, let th := NMap.get {} t.threads k
          let th0 := NMap.get {} s.threads k
          th = { th0 with meet := th.meet, wait := th.wait, frag := th.frag, stamp := th.stamp }
          ∧ (∀ l ∈ s.iss.lanes, k = tkey s.iss.uid (s.tOf l) → th.meet = m l)
          ∧ ((∀ l ∈ s.iss.lanes, k ≠ tkey s.iss.uid (s.tOf l)) → th.meet = th0.meet)
    (clr = true → sets (fun _ => 0) (exec (.meet clr off) s))
    ∧ (clr = false → 0 ≤ i → i < pIdxEnd → sets (fun _ => packetAt i.toNat) (exec (.meet clr off) s))
    ∧ (clr = false → i < 0 ∨ (pIdxEnd : Int) ≤ i →
        exec (.meet clr off) s = raise { cause := .align, lane := s.low } s)
    ∧ ((∀ l ∈ s.iss.lanes, x l = 0 ∨ packetAddr (x l) = true) →
        sets (fun l => if x l = 0 then 0 else s.pc / 2 ^ 32 * 2 ^ 32 + x l) (exec (.spwr b pb) s))
    ∧ ∀ pre l post, s.iss.lanes = pre ++ l :: post → (∀ k ∈ pre, x k = 0 ∨ packetAddr (x k) = true) → x l ≠ 0 →
        packetAddr (x l) = false →
        exec (.spwr b pb) s = raise { cause := .align, lane := l, addr := s.pc / 2 ^ 32 * 2 ^ 32 + x l } s

/-- R35: a meeting whose siblings are all held releases every one of them, and one that a sibling has not reached releases none. -/
def MeetingRelease : Prop :=
  ∀ (s : State) (u g m : Nat), m ≠ 0 →
    let sib := (s.liveGang u g).filter fun x => (s.thr u x).meet == m
    ((∀ x ∈ sib, (s.thr u x).wait = .held) → ∀ x ∈ sib,
      ((s.retestMeet u g m).thr u x).wait = .none
      ∧ ((s.retestMeet u g m).thr u x).pos = (s.thr u x).pos)
    ∧ ((∃ x ∈ sib, (s.thr u x).wait ≠ .held) → s.retestMeet u g m = s)

/-- R31, R137 and R181: SPRD reads the special registers by selector. -/
def SpecialRegisters : Prop :=
  ∀ (s : State) (d : VReg) (sel : BitVec 6),
    let tm := s.team s.iss.uid
    let t (l : Nat) : Nat := 32 * s.iss.gang + l
    let table : List (Nat → Nat) :=
      [fun l => t l % tm.sx, fun l => t l / tm.sx % tm.sy, fun l => t l / (tm.sx * tm.sy), t,
       fun _ => tm.tx, fun _ => tm.ty, fun _ => tm.tz, fun _ => tm.tlin, fun _ => tm.stage, fun _ => s.iss.gang,
       fun l => l / 4, fun l => l, fun _ => s.iss.pos / 4 * 4, fun l => (s.thr s.iss.uid (t l)).meet]
    ∀ f, table[sel.toNat]? = some f → Puts1 s d (fun l => toW (f l)) (exec (.sprd d sel) s)

/-- R183: NOP changes nothing, ELECT marks the lowest active lane, and YIELD keeps its threads from being ready until the yield's
time is over. -/
def SmallControl : Prop :=
  ∀ (s : State) (d : VReg) (u g f : Nat),
    exec .nop s = .next s
    ∧ Puts1 s d (fun l => if l = s.iss.lanes.headD 0 then 1 else 0) (exec (.elect d) s)
    ∧ (∃ t, exec .yield s = .next t ∧ t = { s with threads := t.threads }
        ∧ ThreadsIn s s.iss.lanes (fun _ th => { th with sleep := true }) t)
    ∧ ∃ t, exec (.yieldExpiry u g f) s = .next t ∧ t = { s with threads := t.threads }
        ∧ (∀ x ∈ s.fragOf u (32 * g + f), t.thr u x = { s.thr u x with sleep := false })
        ∧ ∀ k, (∀ x ∈ s.fragOf u (32 * g + f), k ≠ tkey u x) → NMap.get {} t.threads k = NMap.get {} s.threads k

/-- R347: the fields of the TRAP.DETAIL word of a trap found at an issue. -/
def TrapDetailFields : Prop :=
  ∀ (tr : Trap) (word step : Nat) (nested deferred : Bool),
    let x := (detailOf tr word step nested deferred).toNat
    bits x 63 48 = tr.code % 2 ^ 16 ∧ bits x 47 32 = 0 ∧ nbit x 31 = deferred ∧ nbit x 30 = nested ∧ nbit x 29 = tr.write
    ∧ bits x 28 24 = tr.lane % 32 ∧ bits x 23 19 = step % 32 ∧ bits x 18 17 = word % 4 ∧ bits x 16 14 = tr.check % 8
    ∧ bits x 13 8 = 0 ∧ bits x 7 0 = tr.cause.code

/-- R346 to R349: where the cause takes the team-handler route, every thread of the issue saves its resume position, detail and
address, enters handler mode and continues at packet 0 of the handler's line; nothing else changes but the latch's note of the trap.
TRAP and SVC resume at the position that follows. (The threads of an issue wait for nothing. A BREAK that triggers a snapshot is
R359's, and FMT_DIVERGE also counts.) -/
def HandlerEntry : Prop :=
  ∀ (s : State) (l0 : Nat) (rest : List Nat), s.iss.lanes = l0 :: rest →
    let u := s.iss.uid
    let k := s.lead (s.team u).slice
    (∀ l ∈ s.iss.lanes, (s.thr u (s.tOf l)).wait = .none ∧ (s.thr u (s.tOf l)).mwait = .none) →
    let goesIn (tr : Trap) (epc : Nat) (r : Res) : Prop :=
      ∃ t, r = .next t ∧ t = { s with threads := t.threads, iss := { s.iss with trap := some tr } }
        ∧ ThreadsIn s s.iss.lanes (fun _ th => { th with
            epc := BitVec.ofNat 64 epc, taddr := BitVec.ofNat 64 tr.addr, handler := true, wait := .none, hback := none,
            detail := detailOf tr s.iss.word (s.iss.mstep.getD 0) (s.thr u (32 * s.iss.gang + tr.lane)).handler false,
            pos := s.sysr 0x2A k / 64 * 64 + 4 }) t
    let toTeam (c : Cause) : Prop :=
      c.code < 16 ∧ nbit (s.sysr 0x2B k) c.code = false ∧ s.sysr 0x2A k / 64 % 2 ^ 51 ≠ 0 ∧ (s.thr u (s.tOf l0)).handler = false
    (∀ tr : Trap, toTeam tr.cause → tr.cause ≠ .brk → tr.cause ≠ .svc → tr.cause ≠ .fmtDiverge →
      goesIn tr s.iss.pos (raise tr s))
    ∧ (∀ code : BitVec 16, toTeam .svc →
        goesIn { cause := .svc, lane := l0, code := code.toNat } s.iss.follow (exec (.svc code) s))
    ∧ ∀ code : BitVec 16, toTeam .brk → (code ≠ 0xFFFF ∨ nbit (s.sysr 0x40 0) 29 = false) →
        goesIn { cause := .brk, lane := l0, code := code.toNat } s.iss.follow (exec (.trap code) s)

/-- R348 and R350: any other cause takes the host route. Every thread of the issue stops at its resume position, and Kettle begins to
stop the team, with the fault to be posted and the REASON of the team's first fault; a fault in handler mode always does so. A thread
that is to go on behind its group comes to that position only when it goes on (R35). (The threads of an issue wait for nothing.) -/
def HostRouteEntry : Prop :=
  ∀ (s : State) (l0 : Nat) (rest : List Nat) (tr : Trap), s.iss.lanes = l0 :: rest → tr.cause.code < 16 →
    let u := s.iss.uid
    let k := s.lead (s.team u).slice
    let epc := if tr.cause = .brk ∨ tr.cause = .svc then s.iss.follow else s.iss.pos
    let d := detailOf tr s.iss.word (s.iss.mstep.getD 0) (s.thr u (32 * s.iss.gang + tr.lane)).handler false
    (nbit (s.sysr 0x2B k) tr.cause.code = true ∨ s.sysr 0x2A k / 64 % 2 ^ 51 = 0 ∨ (s.thr u (s.tOf l0)).handler = true) →
    tr.cause ≠ .fmtDiverge → (tr.cause = .brk → tr.code ≠ 0xFFFF ∨ nbit (s.sysr 0x40 0) 29 = false) →
    (∀ l ∈ s.iss.lanes, (s.thr u (s.tOf l)).wait = .none ∧ (s.thr u (s.tOf l)).mwait = .none) →
      ∃ t, raise tr s = .next t ∧ t = { s with threads := t.threads, teams := t.teams, iss := { s.iss with trap := some tr } }
        ∧ ThreadsIn s s.iss.lanes (fun _ th => { th with
            pos := epc, wait := .faulted, back := if epc = th.pos then none else some ⟨epc, epc, .none⟩ }) t
        ∧ TeamIn s u (fun tm =>
            let st : Stop := tm.stop.getD { reason := 3, flush := false, faults := [] }
            { tm with stop := some { st with
                reason := if st.faults = [] then 3 else st.reason, flush := false,
                faults := st.faults ++ [⟨d, BitVec.ofNat 64 tr.addr, s.iss.pos, s.tOf l0 % 32⟩] } }) t

/-- R131 and R138: a word that the opcode map leaves unassigned raises ILLEGAL_OP, and one whose fields break their conditions
ILLEGAL_FIELD, both found by decode step 3. -/
def UnassignedWords : Prop :=
  ∀ (s : State) (w opw : BitVec 32),
    (decode w opw = .error .unassigned →
      exec (.unassignedOpcode w opw) s = raise { cause := .illegalOp, lane := s.iss.lanes.headD 0, check := 3 } s)
    ∧ (decode w opw = .error .badField →
      exec (.unassignedOpcode w opw) s = raise { cause := .illegalField, lane := s.iss.lanes.headD 0, check := 3 } s)
    ∧ ∃ t, exec (.unassignedOpcode w opw) s = .next t ∧ t.iss.trap.isSome = true

/-- R194: MCALL starts the body of its slot in every active thread, which stays at the MCALL, and raises ILLEGAL_OP where the slot is
empty. -/
def MacroCalls : Prop :=
  ∀ (s : State) (p3 p2 p1 p0 slot : BitVec 6),
    let key := slotKey (s.team s.iss.uid).core slot.toNat
    (∀ np ops, NMap.find s.macros key = some (np, ops) →
      ∃ t, exec (.mcall p3 p2 p1 p0 slot) s = .next t
        ∧ t = { s with threads := t.threads, iss := { s.iss with moved := s.iss.moved ++ s.iss.lanes } }
        ∧ (let r : MacroRun :=
             { slot := slot.toNat, at_ := s.iss.pos, ops := ops, params := [p0.toNat, p1.toNat, p2.toNat, p3.toNat], step := 0 }
           ThreadsIn s s.iss.lanes (fun _ th => if th.handler then { th with hrun := some r } else { th with mrun := some r }) t))
    ∧ (NMap.find s.macros key = none →
        exec (.mcall p3 p2 p1 p0 slot) s = raise { cause := .illegalOp, lane := s.iss.lanes.headD 0 } s)

/-- R184 to R186: a thread that arrives where some thread of the team still has to arrive waits at BAR and CARVE, and goes on at
BAR.ARRIVE; BAR.WAIT waits for a thread's own arrival, and otherwise gives the last barrier word. A second arrival at the same phase
raises ACCESS. An arrival comes after what the gang did before is performed (R97): `s0` is the state then. -/
def BarrierArrivals : Prop :=
  ∀ (s : State) (d : VReg) (n l1g : BitVec 4) (scrg : BitVec 5),
    let s0 := s.drain
    let u := s0.iss.uid
    let br := s0.bar u n.toNat
    let here := s0.iss.lanes.map s0.tOf
    let fresh : Prop := ∀ l ∈ s.iss.lanes, s.tOf l ∉ (s.bar s.iss.uid n.toNat).arrived
    let more : Prop := ∃ x ∈ s0.liveThreads u, x ∉ br.arrived ∧ x ∉ here
    let onlyBar (t : State) : Prop :=
      TeamIn s0 u (fun tm => { tm with bars := (t.team u).bars }) t ∧ ∀ b, b ≠ n.toNat → t.bar u b = s0.bar u b
    let waits (s : State) (ls : List Nat) (t : State) : Prop :=
      ThreadsIn s ls (fun _ th => { th with wait := .barrier n.toNat d.toNat, next := s.iss.follow }) t
    (fresh → more →
      (∃ t, exec (.bar d n) s = .next t
        ∧ t = { s0 with threads := t.threads, teams := t.teams, iss := { s0.iss with moved := s0.iss.moved ++ s0.iss.lanes } }
        ∧ (t.bar u n.toNat) = { br with arrived := br.arrived ++ here }
        ∧ onlyBar t ∧ waits s0 s0.iss.lanes t)
      ∧ (∃ t, exec (.barArrive n) s = .next t ∧ t = { s0 with teams := t.teams }
        ∧ (t.bar u n.toNat) = { br with arrived := br.arrived ++ here }
        ∧ onlyBar t)
      ∧ ∃ t, exec (.carve d l1g scrg n) s = .next t
        ∧ t = { s0 with threads := t.threads, teams := t.teams, iss := { s0.iss with moved := s0.iss.moved ++ s0.iss.lanes } }
        ∧ (let req := (scrg.toNat, l1g.toNat)
           (t.bar u n.toNat) = { br with
             arrived := br.arrived ++ here, carve := some (br.carve.getD req),
             carveBad := br.carveBad || (br.carve.isSome && br.carve != some req) })
        ∧ onlyBar t ∧ waits s0 s0.iss.lanes t)
    ∧ (let u := s.iss.uid
       let br := s.bar u n.toNat
       ∃ t, exec (.barWait d n) s = .next t
        ∧ (let ws := s.iss.lanes.filter fun l => br.arrived.contains (s.tOf l)
           t = { s with v := t.v, threads := t.threads, iss := { s.iss with moved := s.iss.moved ++ ws } } ∧ waits s ws t)
        ∧ (∀ l ∈ s.iss.lanes, s.tOf l ∉ br.arrived →
            t.vAt u (s.tOf l) d.toNat = if br.has then br.last else 0)
        ∧ ∀ key, (∀ l ∈ s.iss.lanes, s.tOf l ∉ br.arrived → key ≠ vkey u (s.tOf l) d.toNat) →
            NMap.get 0 t.v key = NMap.get 0 s.v key)
    ∧ ∀ pre l post, s.iss.lanes = pre ++ l :: post → (∀ k ∈ pre, s.tOf k ∉ (s.bar s.iss.uid n.toNat).arrived) →
        s.tOf l ∈ (s.bar s.iss.uid n.toNat).arrived →
        ∀ i ∈ [Instr.bar d n, .barArrive n, .carve d l1g scrg n], exec i s = raise { cause := .access, lane := l } s

/-- R184, R185, R187 and R44: the arrival that a phase was waiting for, by BAR, BAR.ARRIVE or CARVE, completes it. Each waiting thread
receives the barrier word, which counts phases and reports an aborted copy and a refused CARVE, and the next phase begins with nothing
arrived. A requested carve-out is granted where every CARVE asked for the same one and it shrinks, or its granules fit; the scratchpad
then has the new size and keeps the bytes below it. A shrink waits for the engine operations that reach beyond the new size. `s0` is the
state after what the gang did before (R97). -/
def BarrierCompletion : Prop :=
  ∀ (s : State) (d : VReg) (n l1g : BitVec 4) (scrg : BitVec 5),
    let s0 := s.drain
    let u := s0.iss.uid
    let tm := s0.team u
    let br := s0.bar u n.toNat
    let here := s0.iss.lanes.map s0.tOf
    let others := (s0.teams.filter fun e => e.1 != u && e.2.live && e.2.core == tm.core).map (·.2)
    let fits (r : Nat × Nat) : Bool :=
      decide (r.1 ≤ tm.scrg ∧ r.2 ≤ tm.l1g) || granulesFit ({ tm with scrg := r.1, l1g := r.2 } :: others)
    let ends (waits : Bool) (req : Option (Nat × Nat)) (bad : Bool) (t : State) : Prop :=
      let granted : Bool := match req with
        | none => true
        | some r => !bad && fits r
      let word : Word := toW (br.phase + (if granted then 0 else 2 ^ 30) + if br.error then 2 ^ 31 else 0)
      (waits = true → ∀ x ∈ here, t.vAt u x d.toNat = word ∧ (t.thr u x).wait ≠ .barrier n.toNat d.toNat)
      ∧ (∀ x ∈ s0.liveThreads u, ∀ e, (s0.thr u x).wait = .barrier n.toNat e → (waits = true → x ∉ here) → e < 64 →
          t.vAt u x e = word)
      ∧ t.bar u n.toNat = { phase := (br.phase + 1) % 65536, has := true, last := word }
      ∧ t.u = s0.u ∧ t.cc = s0.cc
      ∧ match req, granted with
        | some r, true =>
          (t.team u).scrg = r.1 ∧ (t.team u).l1g = r.2 ∧ (t.team u).scr = 65536 * r.1
          ∧ ∀ k, NMap.get 0 t.scratch k = if k / 2 ^ 20 = u ∧ 65536 * r.1 ≤ k % 2 ^ 20 then 0 else NMap.get 0 s0.scratch k
        | _, _ => (t.team u).scrg = tm.scrg ∧ (t.team u).l1g = tm.l1g ∧ (t.team u).scr = tm.scr ∧ t.scratch = s0.scratch
          ∧ t.mem = s0.mem
    let last (waits : Bool) (req : Option (Nat × Nat)) (bad : Bool) (i : Instr) : Prop :=
      let late : Prop := ∃ r, req = some r ∧ bad = false ∧ fits r = true ∧ 65536 * r.1 < tm.scr ∧ (65536 * r.1 : Int) < s0.spanEnd u
      (¬ late → ∃ t, exec i s = .next t ∧ ends waits req bad t)
      ∧ (late → ∃ t, exec i s = .next t
          ∧ t.bar u n.toNat = { br with arrived := br.arrived ++ here, carve := req, carveBad := bad }
          ∧ (waits = true → ∀ x ∈ here, (t.thr u x).wait = .barrier n.toNat d.toNat)
          ∧ (t.team u).scr = tm.scr ∧ t.scratch = s0.scratch ∧ t.v = s0.v ∧ t.mem = s0.mem)
    let mine := (scrg.toNat, l1g.toNat)
    (∀ l ∈ s.iss.lanes, s.tOf l ∉ (s.bar s.iss.uid n.toNat).arrived) →
    s0.iss.lanes ≠ [] → (∀ x ∈ here, x ∈ s0.liveThreads u) →
    (∀ x ∈ s0.liveThreads u, x ∈ br.arrived ∨ x ∈ here) → br.copies = 0 →
      last true br.carve br.carveBad (.bar d n)
      ∧ last false br.carve br.carveBad (.barArrive n)
      ∧ last true (some (br.carve.getD mine)) (br.carveBad || (br.carve.isSome && br.carve != some mine)) (.carve d l1g scrg n)

/-- R188: PHASE makes the threads of a deterministic launch wait for the next phase, after what the gang did before is performed (R97:
`s0`), and raises ACCESS in any other launch and at stage 15. -/
def PhaseWait : Prop :=
  ∀ (s : State),
    let tm := s.team s.iss.uid
    let s0 := s.drain
    (tm.det = true → tm.stage ≠ 15 →
      ∃ t, exec .phase s = .next t
        ∧ t = { s0 with threads := t.threads, teams := t.teams, iss := { s0.iss with moved := s0.iss.moved ++ s0.iss.lanes } }
        ∧ ThreadsIn s0 s0.iss.lanes (fun _ th => { th with wait := .phase, next := s0.iss.follow }) t
        ∧ TeamIn s0 s0.iss.uid (fun tm => { tm with phased := true }) t)
    ∧ (tm.det = false ∨ tm.stage = 15 → exec .phase s = raise { cause := .access, lane := s.iss.lanes.headD 0 } s)

/-- R189, R190 and R38: EMIT and SPAWN whose checks pass send one record for each active lane, in lane order, with the header and the
payload of the rule; they count it, and mark the pair for the slot's address empty. The team's writes have gone before (R97). A failing
check raises its fault at the lowest failing lane, and no lane emits (that SPAWN's frame is checked after its code pair is log 57). -/
def RecordEmission : Prop :=
  ∀ (s : State) (d a b : VReg) (pa pb fr : Bool) (join : BitVec 12) (edge : BitVec 10),
    let u := s.iss.uid
    let ln := s.launch (s.team u).launch
    let e := ln.edges.getD edge.toNat ⟨0, 0, 0⟩
    let nd := ln.nodes.getD e.dst {}
    let s1 := s.drain.publish s.cur.core 7 u (s.tOf s.low)
    let edgeOk : Prop := ln.hasGraph = true ∧ edge.toNat < ln.edges.length ∧ e.src = (s.team u).node
      ∧ NMap.get 0 (s.team u).emitted edge.toNat + s.iss.lanes.length ≤ e.maxEmit
    let sends (kind : Nat) (frame code : Nat → Nat) (r : Res) : Prop :=
      ∃ t recs, r = .next t
        ∧ t = { s1 with recArrs := s1.recArrs ++ recs, teams := t.teams, empty := t.empty }
        ∧ recs.map (fun (x : RecArr) => (x.t, x.seq)) = s1.iss.lanes.zipIdx.map (fun x => (s1.tOf x.1, (s1.team s1.iss.uid).emSeq + x.2))
        ∧ (∀ x ∈ recs, x.uid = u ∧ x.launch = (s1.team s1.iss.uid).launch ∧ x.node = e.dst ∧ x.d = some d.toNat
            ∧ hdrKind x.rcd.hdr = kind ∧ hdrStage x.rcd.hdr = nd.stage % 16 ∧ hdrJoin x.rcd.hdr = join.toNat
            ∧ hdrIdem x.rcd.hdr = nd.idem
            ∧ ∃ l ∈ s1.iss.lanes, x.t = s1.tOf l ∧ hdrFrame x.rcd.hdr = frame l % 2 ^ 57 / 16 * 16
                ∧ hdrCode x.rcd.hdr = code l % 2 ^ 57 / 4 * 4
                ∧ x.rcd.pay.toNat = (s1.rv l a.toNat).toNat + 2 ^ 32 * (s1.rv l (a.toNat + 1)).toNat
                  + 2 ^ 64 * (s1.rv l (a.toNat + 2)).toNat + 2 ^ 96 * (s1.rv l (a.toNat + 3)).toNat)
        ∧ TeamIn s1 s1.iss.uid (fun tm => { tm with
            emSeq := tm.emSeq + s1.iss.lanes.length, acted := tm.acted || !s1.iss.lanes.isEmpty,
            emitted := (t.team s1.iss.uid).emitted }) t
        ∧ NMap.get 0 (t.team s1.iss.uid).emitted edge.toNat
            = NMap.get 0 (s1.team s1.iss.uid).emitted edge.toNat + s1.iss.lanes.length
        ∧ Emptied s1 d.toNat 2 t
    let frameOk (x : Nat) : Prop := fr = true → x % 16 = 0 ∧ nbit x 63 = false
    let form (x : Nat) : Prop := nbit x 63 = false ∧ canonical x = true
    let lowOk : Prop := fr = true → nbit (s.rup 4) 63 = false
    (edgeOk → (∀ l ∈ s.iss.lanes, frameOk (s.rp l b.toNat)) →
      sends 2 (fun l => if fr then s.rp l b.toNat else 0) (fun _ => nd.code) (exec (.emit d a b pa pb fr join edge) s))
    ∧ (edgeOk → lowOk → (∀ l ∈ s.iss.lanes, form (s.rp l b.toNat) ∧ packetAddr (s.rp l b.toNat) = true) →
      sends 3 (fun _ => if fr then s.rup 4 else 0) (fun l => s.rp l b.toNat) (exec (.spawn d a b pa pb fr join edge) s))
    ∧ (∀ l rest, s.iss.lanes = l :: rest → ¬ edgeOk →
        exec (.emit d a b pa pb fr join edge) s = raise { cause := .access, lane := l } s
        ∧ exec (.spawn d a b pa pb fr join edge) s = raise { cause := .access, lane := l } s)
    ∧ (∀ pre l post, s.iss.lanes = pre ++ l :: post → edgeOk → fr = true → (∀ k ∈ pre, frameOk (s.rp k b.toNat)) →
        let x := s.rp l b.toNat
        (x % 16 ≠ 0 → exec (.emit d a b pa pb fr join edge) s = raise { cause := .align, lane := l, addr := x } s)
        ∧ (x % 16 = 0 → nbit x 63 = true →
            exec (.emit d a b pa pb fr join edge) s = raise { cause := .access, lane := l, addr := x } s))
    ∧ ∀ pre l post, s.iss.lanes = pre ++ l :: post → edgeOk →
        (∀ k ∈ pre, lowOk ∧ form (s.rp k b.toNat) ∧ packetAddr (s.rp k b.toNat) = true) →
        let x := s.rp l b.toNat
        (¬ form x → exec (.spawn d a b pa pb fr join edge) s = raise { cause := .access, lane := l, addr := x } s)
        ∧ (form x → packetAddr x = false →
            exec (.spawn d a b pa pb fr join edge) s = raise { cause := .align, lane := l, addr := x } s)
        ∧ (form x → packetAddr x = true → ¬ lowOk →
            exec (.spawn d a b pa pb fr join edge) s = raise { cause := .access, lane := l, addr := s.rup 4 } s)

/-- R191: JOIN and FINISH whose slot addresses pass send one decrement for each active lane, in lane order; JOIN marks its result
empty, FINISH ends its threads. An address that is not aligned raises ALIGN, one in no node queue ACCESS, and no lane decrements. (For
FINISH: a thread of the team lives on, and nothing has arrived at its barriers.) -/
def RecordJoins : Prop :=
  ∀ (s : State) (d a : VReg) (pa : Bool),
    let u := s.iss.uid
    let ln := s.launch (s.team u).launch
    let va (l : Nat) : Nat := s.rp l a.toNat
    let inQueue (x : Nat) : Prop := ln.hasGraph = true ∧
      ∃ nd ∈ ln.nodes.drop 1, nd.qbase ≤ x ∧ x < nd.qbase + 32 * nd.qcap
    let s1 := s.drain.publish s.cur.core 7 u (s.tOf s.low)
    let arrs (d : Option Nat) := s1.iss.lanes.map fun l =>
      JoinArr.mk s1.iss.uid (s1.team s1.iss.uid).launch (s1.rp l a.toNat) (s1.tOf l) d
    ((∀ l ∈ s.iss.lanes, va l % 32 = 0 ∧ inQueue (va l)) →
      (∃ t, exec (.join d a pa) s = .next t
        ∧ t = { s1 with joinArrs := s1.joinArrs ++ arrs (some d.toNat), teams := t.teams, empty := t.empty }
        ∧ TeamIn s1 s1.iss.uid (fun tm => { tm with acted := true }) t
        ∧ Emptied s1 d.toNat 1 t)
      ∧ (s1.iss = s.iss → (∀ b < 16, (s1.bar u b).arrived = []) → (∃ x ∈ s1.liveThreads u, ∀ l ∈ s.iss.lanes, x ≠ s.tOf l) →
        ∃ t, exec (.finish a pa) s = .next t
          ∧ t = { s1 with joinArrs := s1.joinArrs ++ arrs none, teams := t.teams, threads := t.threads }
          ∧ TeamIn s1 u (fun tm => { tm with acted := true }) t
          ∧ (∀ l ∈ s.iss.lanes, (t.thr u (s.tOf l)).exited = true)
          ∧ ∀ k, (∀ l ∈ s.iss.lanes, k ≠ tkey u (s.tOf l)) →
              (NMap.get {} t.threads k).exited = (NMap.get {} s1.threads k).exited))
    ∧ ∀ pre l post, s.iss.lanes = pre ++ l :: post → (∀ k ∈ pre, va k % 32 = 0 ∧ inQueue (va k)) →
        ∀ i ∈ [Instr.join d a pa, .finish a pa],
          (va l % 32 ≠ 0 → exec i s = raise { cause := .align, lane := l, addr := va l, write := true } s)
          ∧ (va l % 32 = 0 → ¬ inQueue (va l) →
              exec i s = raise { cause := .access, lane := l, addr := va l, write := true } s)

/-- R39, R55, R56 and R191: a record that reaches its queue takes a free slot and one reservation there, and its emitter receives the
slot's address; a decrement takes one off the slot's counter, which stays at zero, and JOIN receives the new value or all ones. -/
def RecordArrivals : Prop :=
  (∀ (s : State) (r : RecArr) (rest : List RecArr), s.recArrs = r :: rest → (s.launch r.launch).live = true →
    let s0 := { s with recArrs := rest }
    let nd := (s.launch r.launch).nodes.getD r.node {}
    ∃ k, nd.queue.all (fun q => q.slot != k) = true ∧ k ≤ nd.queue.length ∧
      (let va := nd.qbase + 32 * k
       let s1 := match r.d with
         | some d => s0.fillRegs r.uid r.t [(d, toW va), (d + 1, toW (va / 2 ^ 32))]
         | none => s0
       (∀ s2, s1.kWrite r.launch va r.rcd.bytes = .ok s2 →
         exec (.recordArrival 0) s = .next (s2.setNode r.launch r.node
           { nd with resv := nd.resv - 1, queue := nd.queue ++ [⟨k, r.plti, r.seq⟩] }))
       ∧ ∀ c, s1.kWrite r.launch va r.rcd.bytes = .error c → ∃ t, exec (.recordArrival 0) s = .next t ∧ t.recArrs = rest))
  ∧ ∀ (s : State) (j : JoinArr) (rest : List JoinArr), s.joinArrs = j :: rest →
    let s0 := { s with joinArrs := rest }
    let give (s : State) (x : Word) : State := match j.d with | some d => s.fillReg j.uid j.t d x | none => s
    ∀ s1 bs, s0.kRead j.launch (j.addr + 8) 8 = (s1, .ok bs) →
      let c := ofBytes bs / 2 ^ 45 % 2 ^ 12
      (c = 0 → exec (.joinDecrement 0) s = .next (give s1 0xFFFFFFFF))
      ∧ ∀ s2, c ≠ 0 → s1.kWrite j.launch (j.addr + 8) (toBytes 8 (ofBytes bs - 2 ^ 45)) = .ok s2 →
          exec (.joinDecrement 0) s = .next (give s2 (toW (c - 1)))

/-- R201, R93 and R135: an LD of present pages whose translations are held takes each lane's bytes as the core's plain access finds
them, extends them as its type says, marks its destinations empty and queues the fill. Memory is as it was after the gang's pending
operations, and so is every byte that the core sees. (No line of the access is poisoned, held in the Cistern or discarded, no copy of
one is older than the team's reads may find (R97, R100), the L1 has room for them, no thread has fenced, so that none observes a
completion word, and no LD of the gang is in check.) -/
def LoadResults : Prop :=
  ∀ (s : State) (t a : VReg) (u : Bool) (l : List (Nat × Nat × Option Tlb)),
    let s1 := (s.drainFor l).noteAll s.cur.core l
    let core := (s.team s.iss.uid).core
    let word (v k : Nat) : Word := toW (v / 2 ^ (32 * k))
    let loads (n regs minor : Nat) (val : Nat → Nat → Word) (i : Instr) : Prop :=
      s.checkLanes s.iss.uid s.iss.gang .read n (s.laneAddrs a u) = .ok l → s.ldInCheck n (s.laneAddrs a u) = false →
        ∃ t', exec i s = .next t'
          ∧ t' = { s1 with
              copies := t'.copies, empty := t'.empty,
              loads := s1.loads ++ l.map fun x =>
                let pa := match x.2.2 with | some e => e.paOf x.2.1 | none => 0
                let bs := sliceOf (s1.lineAs core (pa / 64)) (pa % 64) n
                ⟨s.iss.uid, 32 * s.iss.gang + x.1, (List.range regs).map fun k => (t.toNat + k, val (ofBytes bs) k), false,
                  some ⟨core, x.2.1, x.2.2, bs, minor, t.toNat⟩⟩ }
          ∧ Emptied s1 t.toNat regs t'
          ∧ ∀ pa < 2 ^ 64, t'.byteAs core pa = s1.byteAs core pa
    s.team s.iss.uid = (s.drainFor l).team s.iss.uid → (s.drainFor l).iss = s.iss →
    ((s.logs s.iss.uid s.iss.gang).all fun lg => lg.deferred) = true →
    (s1.linesAt core).length + l.length ≤ s1.copyCap core → (∀ p va, s1.needAt p s.iss.uid va ≤ s1.tick) →
    (∀ x ∈ l, ∃ e, x.2.2 = some e ∧ e.disc = false ∧ s1.poison.contains (pline (e.paOf x.2.1)) = false
      ∧ s1.cisHas (pline (e.paOf x.2.1)) = false ∧ (s1.thr s.iss.uid (32 * s.iss.gang + x.1)).fenced = 0
      ∧ ∀ p c, s1.copy p (pline (e.paOf x.2.1)) = some c → s1.needAt p s.iss.uid x.2.1 ≤ c.born) →
      loads 1 1 0 (fun v _ => toW v) (.ldN8 t a u) ∧ loads 1 1 1 (fun v _ => BitVec.ofInt 32 (sext v 8)) (.ldI8 t a u)
      ∧ loads 2 1 2 (fun v _ => toW v) (.ldN16 t a u) ∧ loads 2 1 3 (fun v _ => BitVec.ofInt 32 (sext v 16)) (.ldI16 t a u)
      ∧ loads 4 1 4 word (.ldN32 t a u) ∧ loads 8 2 5 word (.ldN64 t a u) ∧ loads 16 4 6 word (.ldN32x4 t a u)

/-- R353: an LD whose checks need a walk issues at once, its addresses in the gang's operand log and its destinations empty; another
LD of the gang waits meanwhile; when the check is over and every lane passes, the load is performed and leaves the log. -/
def LoadInCheck : Prop :=
  (∀ (s : State) (t a : VReg) (u : Bool),
    let uid := s.iss.uid
    let g := s.iss.gang
    let checks (n regs minor : Nat) (i : Instr) : Prop :=
      (((s.logs uid g).all fun lg => lg.deferred) = true → s.ldInCheck n (s.laneAddrs a u) = true →
        ∃ t', exec i s = .next t'
          ∧ t' = { s.drain with
              empty := t'.empty,
              oplogs := NMap.put s.drain.oplogs (gkey uid g) (s.drain.logs uid g ++
                [{ frag := s.iss.frag, word := s.iss.word, packet := s.iss.pos / 4 * 4, minor := minor, t := t.toNat,
                   addrs := s.laneAddrs a u, deferred := false, handler := (s.thr uid (s.tOf s.low)).handler,
                   step := s.iss.mstep.getD 0 }]) }
          ∧ Emptied s.drain t.toNat regs t')
      ∧ ∀ lg ∈ s.logs uid g, lg.deferred = false → exec i s = stall s
    checks 1 1 0 (.ldN8 t a u) ∧ checks 1 1 1 (.ldI8 t a u) ∧ checks 2 1 2 (.ldN16 t a u) ∧ checks 2 1 3 (.ldI16 t a u)
    ∧ checks 4 1 4 (.ldN32 t a u) ∧ checks 8 2 5 (.ldN64 t a u) ∧ checks 16 4 6 (.ldN32x4 t a u))
  ∧ ∀ (s : State) (u g : Nat) (lg : OpLog) (l : List (Nat × Nat × Option Tlb)),
    (s.logs u g).find? (fun lg => !lg.deferred) = some lg →
    s.checkLanes u g .read (ldSize lg.minor) lg.addrs = .ok l →
    ∀ t, (s.noteAll (s.team u).core l).loadLanes u g lg.minor lg.t l = .ok t →
      exec (.ldCheckDone u g) s = .next { t with oplogs := NMap.put t.oplogs (gkey u g) ((t.logs u g).erase lg) }

/-- R203 and R135: ULD and UST are one access by the lowest active lane. ULD marks its uniform registers pending and queues their
fill; UST puts the bytes of its uniform registers into the core's L1. (The premises are those of LoadResults and StoreResults.) -/
def UniformAccesses : Prop :=
  ∀ (s : State) (t : UReg) (a : BitVec 6) (u : Bool) (va : Nat) (e : Tlb),
    let lane := s.iss.lanes.headD 0
    let uid := s.iss.uid
    let l := [(lane, va, some e)]
    let s1 := (s.drainFor l).noteAll s.cur.core l
    let core := (s.team uid).core
    let pa := e.paOf va
    let ukeys (n : Nat) := (List.range n).map fun k => ukey uid s.iss.gang (t.toNat + k)
    let loads (n minor : Nat) (i : Instr) : Prop :=
      s.checkLanes uid s.iss.gang .read (4 * n) (s.uniAddr a u) = .ok l → s1.poison.contains (pline pa) = false →
      (s1.thr uid (s.tOf lane)).fenced = 0 → (∀ p c, s1.copy p (pline pa) = some c → s1.needAt p uid va ≤ c.born) →
        ∃ t', exec i s = .next t'
          ∧ (let bs := sliceOf (s1.lineAs core (pa / 64)) (pa % 64) (4 * n)
             t' = { s1 with
               copies := t'.copies, upend := t'.upend,
               loads := s1.loads ++
                 [⟨uid, s.iss.gang, (List.range n).map fun k => (t.toNat + k, toW (ofBytes bs / 2 ^ (32 * k))), true,
                   some ⟨core, va, some e, bs, minor, t.toNat⟩⟩] })
          ∧ (∀ k, NMap.get false t'.upend k = (decide (k ∈ ukeys n) || NMap.get false s1.upend k))
          ∧ ∀ pa < 2 ^ 64, t'.byteAs core pa = s1.byteAs core pa
    let stores (n : Nat) (i : Instr) : Prop :=
      s.checkLanes uid s.iss.gang .write (4 * n) (s.uniAddr a u) = .ok l → pa % 64 + 4 * n ≤ 64 →
        ∃ t', exec i s = .next t' ∧ t' = { s1 with copies := t'.copies }
          ∧ ∀ q < 2 ^ 64, t'.byteAs core q =
              if pa ≤ q ∧ q < pa + 4 * n then
                BitVec.ofNat 8 ((s.ru (t.toNat + (q - pa) / 4)).toNat / 2 ^ (8 * ((q - pa) % 4)))
              else s1.byteAs core q
    s.team uid = (s.drainFor l).team uid → (s.drainFor l).iss = s.iss → e.disc = false → s1.cisHas (pline pa) = false →
    (s1.linesAt core).length < s1.copyCap core →
      loads 1 4 (.uldN32 t a u) ∧ loads 2 5 (.uldN64 t a u) ∧ stores 1 (.ustN32 t a u) ∧ stores 2 (.ustN64 t a u)

/-- R106, R201 to R203 and R366: a plain access to a domain-global address of which no copy is held goes to the owner as one remote
request of its size, at the offset that the address names. (The thread has not fenced, so that it observes no completion word.) -/
def RemotePlainAccesses : Prop :=
  ∀ (s : State) (t a : VReg) (u : Bool) (lane va : Nat), s.iss.lanes = [lane] →
    let tm := s.team s.iss.uid
    let dst := va / 2 ^ 53 % 2 ^ 10
    let off := va % 2 ^ 53
    let th := 32 * s.iss.gang + lane
    let s1 := s.drainFor [(lane, va, none)]
    let req (kind : ReqKind) (size x : Nat) : Req := ⟨kind, off, size, 0, x, 0, 0, false, 0⟩
    let loads (n regs minor : Nat) (i : Instr) : Prop :=
      s.laneAddrs a u = [(lane, va)] → va % n = 0 →
        exec i s = .next ((s1.sendReq tm.slice s.iss.uid th dst (req .read n 0)
          (.regs ((List.range regs).map (t.toNat + ·)) minor)).markEmpty t.toNat regs)
    let stores (n : Nat) (i : Instr) : Prop :=
      s.laneAddrs a u = [(lane, va)] → va % n = 0 →
        ∃ x, exec i s = .next (s1.sendReq tm.slice s.iss.uid th dst (req .write n x) .flags)
          ∧ ∀ j < n, x / 2 ^ (8 * j) % 2 ^ 8 = (s.regByte lane t.toNat j).toNat
    s1.team s.iss.uid = tm → s1.iss = s.iss → (s1.thr s.iss.uid th).fenced = 0 → nbit va 63 = true → s1.domCopy tm.core va = none →
    ((s.logs s.iss.uid s.iss.gang).all fun lg => lg.deferred) = true →
      loads 1 1 0 (.ldN8 t a u) ∧ loads 1 1 1 (.ldI8 t a u) ∧ loads 2 1 2 (.ldN16 t a u) ∧ loads 2 1 3 (.ldI16 t a u)
      ∧ loads 4 1 4 (.ldN32 t a u) ∧ loads 8 2 5 (.ldN64 t a u) ∧ loads 16 4 6 (.ldN32x4 t a u)
      ∧ stores 1 (.stN8 t a u) ∧ stores 2 (.stN16 t a u) ∧ stores 4 (.stN32 t a u) ∧ stores 8 (.stN64 t a u)
      ∧ stores 16 (.stN32x4 t a u)

/-- R204 and R205: scratchpad loads queue the bytes as they stand and mark their destinations empty; stores put the bytes of their
registers at the lanes' offsets, the higher lane's remaining where lanes name one word, and change no other byte. A skipped lane of
GATHER is written zero, and one of SCATTER writes nothing. -/
def ScratchpadAccesses : Prop :=
  ∀ (s : State) (t a : VReg) (u : Bool) (sz : BitVec 2),
    let uid := s.iss.uid
    let size := (s.team uid).scr
    let offs := s.iss.lanes.map fun l => (l, (if u then s.ru a.toNat else s.rv l a.toNat).toNat)
    let fits (n : Nat) (offs : List (Nat × Nat)) : Prop := ∀ x ∈ offs, x.2 % n = 0 ∧ x.2 + n ≤ size
    let byte (s : State) (o : Nat) : Byte := NMap.get 0 s.scratch (skey uid o)
    let fills (n : Nat) (offs : List (Nat × Nat)) : List Fill := offs.map fun x =>
      ⟨uid, s.tOf x.1, (List.range (n / 4)).map fun k =>
        (t.toNat + k, toW (ofBytes ((List.range 4).map fun j => byte s (x.2 + 4 * k + j)))), false, none⟩
    let loads (n : Nat) (i : Instr) : Prop :=
      fits n offs → ∃ t', exec i s = .next t'
        ∧ t' = { s with scrLoads := s.scrLoads ++ fills n offs, empty := t'.empty } ∧ Emptied s t.toNat (n / 4) t'
    let puts (n : Nat) (offs : List (Nat × Nat)) (i : Instr) : Prop :=
      fits n offs → ∃ t', exec i s = .next t' ∧ t' = { s with scratch := t'.scratch }
        ∧ (∀ o, byte t' o = offs.foldl (fun b x =>
            if x.2 ≤ o ∧ o < x.2 + n then s.regByte x.1 t.toNat (o - x.2) else b) (byte s o))
        ∧ ∀ k, (∀ o, k ≠ skey uid o) → NMap.get 0 t'.scratch k = NMap.get 0 s.scratch k
    let esz := 4 * 2 ^ sz.toNat
    let named := s.iss.lanes.filterMap fun l =>
      if s.rv l a.toNat = 0xFFFFFFFF then none else some (l, (s.rv l a.toNat).toNat * esz)
    let skipped := s.iss.lanes.filter fun l => s.rv l a.toNat = 0xFFFFFFFF
    s.iss.lanes.Pairwise (· < ·) → s.iss.lanes.length ≤ 32 →
      loads 4 (.ldsN32 t a u) ∧ loads 8 (.ldsN64 t a u) ∧ loads 16 (.ldsN32x4 t a u)
      ∧ puts 4 offs (.stsN32 t a u) ∧ puts 8 offs (.stsN64 t a u) ∧ puts 16 offs (.stsN32x4 t a u)
      ∧ puts esz named (.scatter t a sz)
      ∧ (fits esz named → t.toNat + esz / 4 ≤ 64 → ∃ t', exec (.gather t a sz) s = .next t'
          ∧ t' = { s with scrLoads := s.scrLoads ++ fills esz named, empty := t'.empty, v := t'.v }
          ∧ (∀ l ∈ s.iss.lanes, s.rv l a.toNat ≠ 0xFFFFFFFF → ∀ j < esz / 4, t'.isEmpty uid (s.tOf l) (t.toNat + j) = true)
          ∧ (∀ l ∈ skipped, ∀ j < esz / 4, t'.vAt uid (s.tOf l) (t.toNat + j) = 0
              ∧ t'.isEmpty uid (s.tOf l) (t.toNat + j) = s.isEmpty uid (s.tOf l) (t.toNat + j))
          ∧ (∀ k, (∀ l ∈ skipped, ∀ j < esz / 4, k ≠ vkey uid (s.tOf l) (t.toNat + j)) →
              NMap.get 0 t'.v k = NMap.get 0 s.v k)
          ∧ ∀ k, ¬ s.dest t.toNat (esz / 4) k → NMap.get false t'.empty k = NMap.get false s.empty k)

/-- R204: the traps of a scratchpad access. The lowest failing lane raises ALIGN for a misaligned offset, else ACCESS for one whose
bytes pass the scratchpad's end, and no lane performs its access. -/
def ScratchpadTraps : Prop :=
  ∀ (s : State) (t a : VReg) (u : Bool) (pre post : List Nat) (lane : Nat), s.iss.lanes = pre ++ lane :: post →
    let off (l : Nat) : Nat := (if u then s.ru a.toNat else s.rv l a.toNat).toNat
    let size := (s.team s.iss.uid).scr
    ∀ n i w, (n, i, w) ∈ [(4, Instr.ldsN32 t a u, false), (8, .ldsN64 t a u, false), (16, .ldsN32x4 t a u, false),
        (4, .stsN32 t a u, true), (8, .stsN64 t a u, true), (16, .stsN32x4 t a u, true)] →
      (∀ l ∈ pre, off l % n = 0 ∧ off l + n ≤ size) →
      (off lane % n ≠ 0 →
        exec i s = raise { cause := .align, lane := lane, check := 1, addr := off lane, write := w } s)
      ∧ (off lane % n = 0 → size < off lane + n →
        exec i s = raise { cause := .access, lane := lane, check := 2, addr := off lane, write := w } s)

/-- R172, R206, R207, R209 and R210: an atomic, reduction, AMAX, SC operation or ACQ whose checks pass leaves one operation for each
active lane pending at its place, in lane order, with the operands of its registers, and marks its result registers empty. A
domain-global address at scope package or wider goes to the owner instead, after the core and its die have given up the line (R96), and
after an ACQ's note for the copies of the narrower places (R100).
In a deterministic launch AMAX and the SC atomics perform at issue. (Atomics and reductions: the launch is not deterministic, or SC is
1.) An SC operation of a thread whose earlier remote SC operation has no answer does not issue yet (R104). -/
def ScopedOperations : Prop :=
  ∀ (s : State) (t a : VReg) (u sc p : Bool) (scope : BitVec 4) (ty : BitVec 3) (sz : BitVec 2)
    (l : List (Nat × Nat × Option Tlb)),
    let uid := s.iss.uid
    let s0 := (s.drainFor l).noteAll s.cur.core l
    let pends (sx s1 : State) (addrs : List (Nat × Nat)) (k : Acc) (kind : OpK) (req : ReqKind) (w r : Nat) (sc acq : Bool)
        (x cmp : Nat → Nat) (i : Instr) : Prop :=
      sx.checkLanes uid s.iss.gang k (4 * w) addrs = .ok l →
      let regs := (List.range r).map (t.toNat + ·)
      let tm := s1.team s1.iss.uid
      let waits : Prop := sc = true ∧ ∃ r ∈ sx.remote, r.req.sc = true ∧ r.uid = uid ∧ ∃ lane ∈ s.iss.lanes, r.t = s.tOf lane
      let done (t' : State) : Res := .next (if tm.det = true ∧ kind.atIssue = true then t'.drain else t')
      (waits → exec i s = stall sx)
      ∧ (¬ waits → (∀ e ∈ l, e.2.2 = none → scope.toNat < 7) →
        ∃ t', exec i s = done t'
          ∧ (let ps := l.map fun e => Pend.mk s1.iss.uid (s1.tOf e.1) tm.core tm.slice kind e.2.1 (4 * w) (x e.1) (cmp e.1)
               scope.toNat sc acq regs e.2.2
             t' = if sc || acq then { s1 with scops := s1.scops ++ ps, empty := t'.empty }
               else { s1 with atoms := s1.atoms ++ ps, empty := t'.empty })
          ∧ Emptied s1 t.toNat r t')
      ∧ ∀ lane va, ¬ waits → l = [(lane, va, none)] → 7 ≤ scope.toNat →
        let s2 := (if acq then s1.acquired tm.core scope.toNat (some va) else s1).giveUp tm.core va s1.iss.uid (s1.tOf lane)
        let rq : Req := ⟨req, va % 2 ^ 53, 4 * w, kind.ty, x lane, cmp lane, scope.toNat, sc,
          if sc then NMap.get 0 s2.clocks tm.core else 0⟩
        (s2.team s1.iss.uid = tm → s2.iss = s1.iss →
          exec i s = done ((s2.sendReq tm.slice s1.iss.uid (s1.tOf lane) (va / 2 ^ 53 % 2 ^ 10) rq
            (if r = 0 then .flags else .regs regs (if acq then 9 else if r = 2 then 5 else 4))).markRegs regs))
    let w := if ty.toNat = 2 ∨ ty.toNat = 3 then 2 else 1
    let x (o l : Nat) : Nat := ofWords ((List.range w).map fun k => s.rv l (t.toNat + o + k))
    let v := s.laneAddrs a false
    let atom (op : AtomOp) (i : Instr) : Prop :=
      pends s s0 v .write (.atom op ty.toNat) (.atomic op) w w sc false (x 0) (fun _ => 0) i
    let red (op : AtomOp) (i : Instr) : Prop :=
      pends s s0 v .write (.atom op ty.toNat) (.atomic op) w 0 sc false (x 0) (fun _ => 0) i
    ((s.team uid).det = false ∨ sc = true →
      atom .add (.atomAdd t a scope sc ty) ∧ atom .min (.atomMin t a scope sc ty) ∧ atom .max (.atomMax t a scope sc ty)
      ∧ atom .and (.atomAnd t a scope sc ty) ∧ atom .or (.atomOr t a scope sc ty) ∧ atom .xor (.atomXor t a scope sc ty)
      ∧ atom .xchg (.atomXchg t a scope sc ty)
      ∧ pends s s0 v .write (.atom .cas ty.toNat) (.atomic .cas) w w sc false (x w) (x 0) (.atomCas t a scope sc ty)
      ∧ red .add (.redAdd t a scope sc ty) ∧ red .min (.redMin t a scope sc ty) ∧ red .max (.redMax t a scope sc ty))
    ∧ (let w (size : Bool) := if size then 2 else 1
       ∀ size, pends s s0 (s.laneAddrs a u) .write .amax .amax (w size) (w size) false false (fun _ => 0) (fun _ => 0)
         (.amax t a p u size scope))
    ∧ (let w := 2 ^ sz.toNat
       pends s s0 v .read .read .read w w true false (fun _ => 0) (fun _ => 0) (.scld t a scope sz)
       ∧ pends s s0 v .write .write .write w 0 true false
           (fun l => ofWords ((List.range w).map fun k => s.rv l (t.toNat + k))) (fun _ => 0) (.scst t a scope sz))
    ∧ (let sq := if 7 ≤ scope.toNat then s.dropNodes uid else s
       pends sq ((sq.drainFor l).noteAll sq.cur.core l) v .read .read .read 2 2 false true (fun _ => 0) (fun _ => 0) (.acq t a scope))

/-- R207: the function of each atomic. Integers wrap at the operand's width; the n types compare unsigned and the i types as two's
complement; f32 adds with one rounding and without flush; CAS compares bits. -/
def AtomicFunctions : Prop :=
  ∀ (ty x cmp old : Nat),
    let w := if ty = 2 ∨ ty = 3 then 64 else 32
    let f (op : AtomOp) : Nat := atomNew op ty x cmp old
    ty < 5 → x < 2 ^ w → old < 2 ^ w →
      (ty ≠ 4 → f .add = (old + x) % 2 ^ w) ∧ (ty = 4 → f .add = fAdd f32 0 false old x)
      ∧ (ty = 0 ∨ ty = 2 → f .min = min old x ∧ f .max = max old x)
      ∧ (ty = 1 ∨ ty = 3 → (f .min = old ∨ f .min = x) ∧ (f .max = old ∨ f .max = x)
          ∧ sext (f .min) w = min (sext old w) (sext x w) ∧ sext (f .max) w = max (sext old w) (sext x w))
      ∧ (ty = 4 → f .min = fMinMax f32 false false old x ∧ f .max = fMinMax f32 true false old x)
      ∧ (∀ j, (f .and).testBit j = (old.testBit j && x.testBit j) ∧ (f .or).testBit j = (old.testBit j || x.testBit j)
          ∧ (f .xor).testBit j = (old.testBit j != x.testBit j))
      ∧ f .xchg = x ∧ (f .cas = if old = cmp then x else old)
      ∧ (ty ≠ 4 → ∀ op, f op < 2 ^ w)

/-- R93, R104, R172, R207 and R209: a pending operation on local memory that lies at its home slice reads the old value, writes the new
one there, and fills its result registers with the old one; an SC operation also takes the timestamp that the rule gives, and an ACQ
notes its step for the copies of the narrower places (R100). No other byte, register or mark changes. (The page is not discarded, the
line neither poisoned nor in the Cistern nor held by the core, the memory is HBM4 or side memory, and the bytes are of no completion
word.) A read of a completion word at the scope of the word, or wider, leaves the core with no copy filled before (R103). -/
def PendingOperations : Prop :=
  ∀ (s : State) (p : Pend) (rest : List Pend) (e : Tlb),
    let pa := e.paOf p.va
    let line := pa / 64
    let old := ofBytes (memBytes s.mem pa p.size)
    let effect (s0 : State) (r : Res) : Prop :=
      ∃ t, r = .next t
        ∧ t = { s0 with
            mem := t.mem, v := t.v, empty := t.empty,
            acqs := if p.acq then (s.acquired p.core p.scope (some p.va)).acqs else s.acqs,
            clocks := if p.sc then NMap.put s.clocks p.core
                (max (NMap.get 0 s.clocks p.core) (NMap.get 0 s.stamps (scKey p.core pa p.scope)) + 1) else s.clocks,
            stamps := if p.sc then NMap.put s.stamps (scKey p.core pa p.scope)
                (max (NMap.get 0 s.clocks p.core) (NMap.get 0 s.stamps (scKey p.core pa p.scope)) + 1) else s.stamps }
        ∧ (∀ a, memGet t.mem a = match p.kind.new p.x p.cmp old with
            | some n => if pa ≤ a ∧ a < pa + p.size then BitVec.ofNat 8 (n / 2 ^ (8 * (a - pa))) else memGet s.mem a
            | none => memGet s.mem a)
        ∧ (∀ j r, p.regs[j]? = some r → (s.thr p.uid p.t).exited = false →
            t.vAt p.uid p.t r = toW (old / 2 ^ (32 * j)) ∧ t.isEmpty p.uid p.t r = false)
        ∧ ∀ k, (∀ r ∈ p.regs, k ≠ vkey p.uid p.t r) ∨ (s.thr p.uid p.t).exited = true →
            NMap.get 0 t.v k = NMap.get 0 s.v k ∧ NMap.get false t.empty k = NMap.get false s.empty k
    Memory.wf s.mem = true → p.tr = some e → e.disc = false → 5 ≤ p.scope → farLine line = false →
    pa % 64 + p.size ≤ 64 → p.size < 64 → p.regs.Nodup → s.poison.contains line = false → s.cisHas line = false →
    (∀ c ∈ s.copies, c.1 ≠ ckey p.core line) →
      ((p.kind.stores = true ∨ ∀ w ∈ s.cwords, pa + p.size ≤ w.1 ∨ w.1 + 8 ≤ pa ∨ p.scope < w.2) →
        (s.atoms = p :: rest → effect { s with atoms := rest } (exec (.atomicPerform 0) s))
        ∧ (s.scops = p :: rest → effect { s with scops := rest } (exec (.scOperationPerform 0) s)))
      ∧ (p.kind.stores = false → p.core < 192 → (∃ w ∈ s.cwords, pa < w.1 + 8 ∧ w.1 < pa + p.size ∧ w.2 ≤ p.scope) →
        s.scops = p :: rest →
          ∃ t, exec (.scOperationPerform 0) s = .next t ∧ ∀ line, line < 2 ^ 60 → t.copy p.core line = none)

/-- R86, R93, R366: an L1 that drops a line of HBM4 or side memory writes back exactly the bytes written in it, and holds it no more
(the line is not in the Cistern); a copy of a domain-global line goes with remote writes of the bytes written in it, each
under the slice whose core wrote it, and one not written goes without. -/
def Eviction : Prop :=
  (∀ (s : State) (place line : Nat) (c : LineCopy), Memory.wf s.mem = true → place < 192 → isDline line = false → farLine line = false →
    s.copy place line = some c → s.cisHas line = false →
      ∃ t, exec (.l1Eviction place line) s = .next t
        ∧ t = { s with mem := t.mem, copies := t.copies, poison := t.poison } ∧ t.copy place line = none
        ∧ ∀ a, memGet t.mem a =
            if a / 64 = line ∧ c.dirty[a % 64]? = some true then (c.data[a % 64]?).getD (memGet s.mem a) else memGet s.mem a)
  ∧ ∀ (s : State) (place line : Nat) (c : LineCopy), isDline line = true → s.copy place line = some c →
      (192 ≤ place ∨ s.copy (192 + coreDie place) line = none) →
      let t := s.setCopy place line c.clean
      exec (.l1Eviction place line) s =
        .next ((if true ∈ c.dirty then t.sendDirty place line 0 0 c else s).dropCopy place line)

/-- R94, R99, R135, R147, R157, R170, R182, R201, R203 and R204: a result that arrives fills its registers and ends their emptiness, or,
for a thread that has exited, is dropped; a uniform load fills its uniform registers and ends their pending marks. A plain load that is
still open returns, of each 8-byte part, the bytes that it has or those that a read finds now; it has those of its issue, or of a later
look at memory, which chooses in the same way (log 17). -/
def LateFills : Prop :=
  ∀ (s : State) (k : Nat) (f : Fill),
    let fills (s0 : State) (i : Instr) : Prop :=
      (f.uni = false → (s.thr f.uid f.t).exited = true → exec i s = .next s0)
      ∧ (f.uni = false → (s.thr f.uid f.t).exited = false → (f.vals.map (·.1)).Nodup →
        ∃ t, exec i s = .next t ∧ t = { s0 with v := t.v, empty := t.empty }
          ∧ (∀ x ∈ f.vals, t.vAt f.uid f.t x.1 = x.2 ∧ t.isEmpty f.uid f.t x.1 = false)
          ∧ ∀ k, (∀ x ∈ f.vals, k ≠ vkey f.uid f.t x.1) →
              NMap.get 0 t.v k = NMap.get 0 s.v k ∧ NMap.get false t.empty k = NMap.get false s.empty k)
      ∧ (f.uni = true → (f.vals.map (·.1)).Nodup →
        ∃ t, exec i s = .next t ∧ t = { s0 with u := t.u, upend := t.upend }
          ∧ (∀ x ∈ f.vals, NMap.get 0 t.u (ukey f.uid f.t x.1) = x.2 ∧ NMap.get false t.upend (ukey f.uid f.t x.1) = false)
          ∧ ∀ k, (∀ x ∈ f.vals, k ≠ ukey f.uid f.t x.1) →
              NMap.get 0 t.u k = NMap.get 0 s.u k ∧ NMap.get false t.upend k = NMap.get false s.upend k)
    let part (l : LateLoad) (s0 : State) (off len : Nat) (s' : State) (bs : List Byte) : Prop :=
      (s' = s0 ∧ bs = (l.bytes.drop off).take len) ∨ s0.readNow f.uid l.core (l.va + off) l.tr len = (s', some bs)
    (s.loads[k]? = some f → ∀ l, f.src = some l →
      let s0 := { s with loads := s.loads.eraseIdx k }
      let filled (s' : State) (bs : List Byte) : Res := .next (s'.fill { f with vals := ldVals l.minor l.reg (ofBytes bs), src := none })
      (0 < l.bytes.length → l.bytes.length ≤ 8 →
        ∃ s' bs, part l s0 0 l.bytes.length s' bs ∧ exec (.loadFill k) s = filled s' bs)
      ∧ (l.bytes.length = 16 →
        ∃ s1 s2 b1 b2, part l s0 0 8 s1 b1 ∧ part l s1 8 8 s2 b2 ∧ exec (.loadFill k) s = filled s2 (b1 ++ b2))
      ∧ (0 < l.bytes.length → l.bytes.length ≤ 8 →
        ∃ s' bs, part l s 0 l.bytes.length s' bs ∧ s.sampleLoad k = { s' with
          loads := s.loads.set k { f with vals := ldVals l.minor l.reg (ofBytes bs), src := some { l with bytes := bs } } }))
    ∧ (s.loads[k]? = some f → f.src = none → fills { s with loads := s.loads.eraseIdx k } (.loadFill k))
    ∧ (s.scrLoads[k]? = some f → fills { s with scrLoads := s.scrLoads.eraseIdx k } (.scratchpadLoadFill k))
    ∧ (s.lates[k]? = some f → fills { s with lates := s.lates.eraseIdx k } (.lateResultFill k))

/-- R100, R102, R107, R211 and R251: REL, FENCE.ALL, BIND and CFLUSH make their threads wait, to go on after the group. REL and
FENCE.ALL first write back what their scope asks for, which a scope below cluster does not, and wait for every remote request made up
to then; a FENCE.ALL of scope package or wider drops the team's node-cache lines (R335); BIND adds its binding to the launch, or raises
what its checks find. -/
def MemoryWaits : Prop :=
  ∀ (s : State) (t a : VReg) (scope : BitVec 4) (l : List (Nat × Nat × Option Tlb)),
    let uid := s.iss.uid
    let keeps (s1 t' : State) : Prop := t'.v = s1.v ∧ t'.u = s1.u ∧ t'.cc = s1.cc ∧ t'.empty = s1.empty ∧ t'.teams = s1.teams
    let waits (s1 : State) (w : Nat → Wait) (t' : State) : Prop :=
      ThreadsIn s1 s1.iss.lanes (fun x th => { th with mwait := w x, next := s1.iss.follow }) t'
    let upto (s1 t' : State) (n : Nat) : Prop := s1.nextTag ≤ n ∧ n ≤ t'.nextTag
    s.drain.iss = s.iss → s.iss.lanes.Nodup →
    (s.checkLanes uid s.iss.gang .write 8 (s.laneAddrs a false) = .ok l →
      let s1 := s.drain.noteAll s.cur.core l
      ∃ t', exec (.rel a scope) s = .next t' ∧ keeps s1 t' ∧ (scope.toNat < 5 → t' = { s1 with threads := t'.threads })
        ∧ (∀ x ∈ l, ∃ n, upto s1 t' n ∧ t'.thr uid (s.tOf x.1) =
            { s1.thr uid (s.tOf x.1) with mwait := .rel x.2.1 scope.toNat x.2.2 n, next := s.iss.follow })
        ∧ ∀ k, (∀ x ∈ s.iss.lanes, k ≠ tkey uid (s.tOf x)) → NMap.get {} t'.threads k = NMap.get {} s1.threads k)
    ∧ (∃ t', exec (.fenceAll scope) s = .next t' ∧ keeps s.drain t'
        ∧ (scope.toNat < 5 → t' = { s.drain with threads := t'.threads })
        ∧ (7 ≤ scope.toNat → ∀ n ∈ t'.nodeCache, n.uid ≠ uid)
        ∧ ∃ f : Nat → Nat, (∀ x ∈ s.iss.lanes, upto s.drain t' (f x)) ∧ waits s.drain (fun x => .fence scope.toNat (f x)) t')
    ∧ (∃ t', exec .cflush s = .next t' ∧ t' = { s.drain with threads := t'.threads } ∧ waits s.drain (fun _ => .cflush) t')
    ∧ (let base := s.rp s.low t.toNat
       let len := s.rp s.low (t.toNat + 2)
       let obj := s.rp s.low a.toNat
       let id := (s.team uid).launch
       let ln := s.launch id
       let low := s.iss.lanes.headD 0
       (base % 64 = 0 → len % 64 = 0 → obj % 8 = 0 → 64 ≤ len → len ≤ 2 ^ 40 → ln.binds.length < 256 →
         (∀ b ∈ ln.binds, b.1 + b.2.1 ≤ base ∨ base + len ≤ b.1) →
         ∃ t', exec (.bind t a) s = .next t' ∧ t' = { s with launches := t'.launches, threads := t'.threads }
           ∧ t'.launch id = { ln with binds := ln.binds ++ [(base, len, obj)] } ∧ (∀ k, k ≠ id → t'.launch k = s.launch k)
           ∧ waits s (fun _ => .bind) t')
       ∧ (base % 64 ≠ 0 ∨ len % 64 ≠ 0 →
           exec (.bind t a) s = raise { cause := .align, lane := low, check := 1, addr := base } s)
       ∧ (base % 64 = 0 → len % 64 = 0 → obj % 8 ≠ 0 →
           exec (.bind t a) s = raise { cause := .align, lane := low, check := 1, addr := obj } s)
       ∧ (base % 64 = 0 → len % 64 = 0 → obj % 8 = 0 → len < 64 ∨ 2 ^ 40 < len ∨ 256 ≤ ln.binds.length
           ∨ (∃ b ∈ ln.binds, b.1 < base + len ∧ base < b.1 + b.2.1) →
           exec (.bind t a) s = raise { cause := .access, lane := low, check := 2, addr := base } s))

/-- R33, R100, R102, R107, R211, R251 and R301: the wait of a thread ends by its event, REL after the increment of its object, which is
sent to the owner of a domain-global address at scope package or wider, and else works where the scope says, once the line is there;
the thread goes on when every thread of its fragment has ended its own wait. What REL's or the fence's writing back then sends to
other packages it waits for in turn. A thread's own operations without an answer, pending or on their way to the Cistern hold a wait
back, and the remote writes of its slice or its launch that were sent before. An event whose wait is not there, or which operations
outstanding hold back, changes nothing. -/
def WaitEnds : Prop :=
  (∀ (s : State) (u t : Nat), t ∈ s.fragOf u t →
    let th := s.thr u t
    ((∃ x ∈ s.fragOf u t, x ≠ t ∧ (s.thr u x).mwait ≠ .done) →
      s.finishWait u t = s.setThr u t { th with mwait := .done })
    ∧ (s.fragOf u t = [t] → th.wait = .none → th.running = none →
      let r := s.finishWait u t
      r = { s with threads := r.threads } ∧ (r.thr u t).mwait = .none ∧ (r.thr u t).pos = th.next))
  ∧ ∀ (s : State) (u t : Nat),
    let tm := s.team u
    let first : Prop := ∀ x ∈ s.fragOf u t, x < t → ∀ va sc tr n, (s.thr u x).mwait ≠ .rel va sc tr n
    let inc (va scope : Nat) (tr : Option Tlb) : Pend :=
      { uid := u, t := t, core := tm.core, slice := tm.slice, kind := .rel, va := va, size := 8, x := 0, cmp := 0, scope := scope,
        sc := false, acq := false, regs := [], tr := tr }
    (∀ va scope tr upto, (s.thr u t).mwait = .rel va scope tr upto →
        let r := exec (.relPerformed u t) s
        (s.outstanding u t scope upto = true ∨ s.caddyWait u t (some va) = true ∨ ¬ first → r = .next s)
        ∧ (s.outstanding u t scope upto = false → s.caddyWait u t (some va) = false → first →
            let w := s.publishIf tm.core scope u t fun _ c => s.boundTo tm.launch va c
            (w.nextTag ≠ s.nextTag → r = .next (w.setThr u t { w.thr u t with mwait := .rel va scope tr w.nextTag }))
            ∧ (w.nextTag = s.nextTag → ∀ e, tr = some e → r = .next ((w.perform (inc va scope tr)).finishWait u t))
            ∧ (w.nextTag = s.nextTag → tr = none → 7 ≤ scope → r = .next (((w.giveUp tm.core va u t).sendReq tm.slice u t (va / 2 ^ 53 % 2 ^ 10)
                ⟨.rel, va % 2 ^ 53, 8, 2, 0, 0, scope, false, 0⟩ .flags).finishWait u t))
            ∧ (w.nextTag = s.nextTag → tr = none → scope < 7 →
                let s1 := w.ready (inc va scope none)
                (s1.copy (inc va scope none).place (dline va) = none → r = .next (s1.fetchLine (inc va scope none)))
                ∧ (∀ c, s1.copy (inc va scope none).place (dline va) = some c →
                    r = .next ((s1.performCopy (inc va scope none) c).finishWait u t)))))
    ∧ (∀ scope upto, (s.thr u t).mwait = .fence scope upto →
        (s.outstanding u t scope upto = true ∨ s.caddyWait u t none = true → exec (.fenceAllDone u t) s = .next s)
        ∧ (s.outstanding u t scope upto = false → s.caddyWait u t none = false →
            let s1 := s.refresh tm.core scope u t
            let th := s1.thr u t
            (s1.nextTag ≠ s.nextTag →
              exec (.fenceAllDone u t) s = .next (s1.setThr u t { th with mwait := .fence scope s1.nextTag }))
            ∧ (s1.nextTag = s.nextTag → exec (.fenceAllDone u t) s =
              .next ((s1.setThr u t { th with fenced := max th.fenced (scope + 1) }).finishWait u t))))
    ∧ (∀ scope upto, s.outstanding u t scope upto = true ↔
        (5 ≤ scope ∧ ∃ r ∈ s.remote, r.tag < upto ∧ ((r.uid = u ∧ r.t = t)
          ∨ (r.req.kind ≠ .read ∧ r.req.kind ≠ .fill ∧ (r.slice = s.lead tm.slice ∨ r.launch = tm.launch))))
        ∨ (∃ p ∈ s.atoms ++ s.scops, p.uid = u ∧ p.t = t) ∨ ∃ c ∈ s.cisAdds, c.uid = u ∧ c.t = t)
    ∧ ((s.thr u t).mwait = .bind → exec (.bindPerformed u t) s = .next (s.finishWait u t))
    ∧ ((s.thr u t).mwait = .cflush → tm.det = false → (∀ a ∈ s.cisAdds, ¬ (a.uid = u ∧ a.t = t)) →
        (∀ c ∈ s.cistern, tkey u t ∉ c.by_) → exec (.cflushDone u t) s = .next (s.finishWait u t))
    ∧ ((s.thr u t).mwait = .cflush → tm.det = true → (∀ b ∈ s.bufops, b.uid ≠ u) →
        exec (.cflushDone u t) s = .next (s.finishWait u t))
    ∧ ((s.thr u t).mwait = .none →
        exec (.relPerformed u t) s = .next s ∧ exec (.fenceAllDone u t) s = .next s ∧ exec (.bindPerformed u t) s = .next s
        ∧ exec (.cflushDone u t) s = .next s)

/-- R248 to R250: in a fast launch RED.F32 sends one addition for each word of each active lane to its bank; in a deterministic one it
holds them in the core's buffer. The lowest lane that fails a check of R200, or that has a domain-global address or a page of TIER 0 or
CXL memory (ACCESS), traps. (The pages are not discarded, the core holds no copy of their lines, and the buffer has room.) -/
def GradientAdditions : Prop :=
  ∀ (s : State) (t a : VReg) (scope : BitVec 4) (w : BitVec 2) (l : List (Nat × Nat × Option Tlb)),
    let uid := s.iss.uid
    let tm := s.team uid
    let n := 2 ^ w.toNat
    let addrs := s.laneAddrs a false
    let s1 := (s.noteAll tm.core l).drain
    let good (x : Nat × Nat × Option Tlb) : Prop :=
      ∃ e, x.2.2 = some e ∧ (e.tier = 1 ∨ e.tier = 2) ∧ inCxl (e.paOf x.2.1) = false
    (s.checkLanes uid s.iss.gang .write (4 * n) addrs = .ok l →
    ((∀ x ∈ l, good x ∧ ∃ e, x.2.2 = some e ∧ e.disc = false ∧ ∀ c ∈ s1.copies, c.1 ≠ ckey s1.cur.core (pline (e.paOf x.2.1))) →
      tm.det = false →
      exec (.redF32 t a scope w) s = .next { s1 with
        cisAdds := s1.cisAdds ++ l.flatMap fun x => (List.range n).map fun k =>
          CisAdd.mk s1.iss.uid (s1.tOf x.1) ((match x.2.2 with | some e => e.paOf x.2.1 | none => 0) + 4 * k)
            (s1.rv x.1 (t.toNat + k)) })
    ∧ ((∀ x ∈ l, good x) → tm.det = true → s.iss.lanes.Nodup →
      s.bufops.countP (fun b => b.core == tm.core && !b.spilled) + n * s.iss.lanes.length ≤ 4096 →
      ∃ t', exec (.redF32 t a scope w) s = .next t'
        ∧ t' = { s.noteAll tm.core l with
            teams := t'.teams,
            bufops := s.bufops ++ addrs.flatMap fun x => (List.range n).map fun k =>
              BufOp.mk uid tm.launch tm.core (s.privL x.1) tm.lti s.iss.gang x.1 (NMap.get 0 tm.seqs (s.tOf x.1) + k)
                (.redF32 (s.rv x.1 (t.toNat + k))) (x.2 + 4 * k) scope.toNat [] false false }
        ∧ TeamIn s uid (fun tm => { tm with seqs := (t'.team uid).seqs }) t'))
    ∧ ∀ pre x post lp, addrs = pre ++ x :: post → s.checkLanes uid s.iss.gang .write (4 * n) pre = .ok lp → (∀ y ∈ lp, good y) →
        (∀ tr, s.checkLanes uid s.iss.gang .write (4 * n) [x] = .error tr → exec (.redF32 t a scope w) s = raise tr s)
        ∧ ∀ y, s.checkLanes uid s.iss.gang .write (4 * n) [x] = .ok [y] → ¬ good y →
            exec (.redF32 t a scope w) s = raise
              { cause := .access, lane := y.1, addr := y.2.1, write := true,
                check := match y.2.2 with | none => 4 | some _ => 5 } s

/-- R249: an addition that finds its line in its bank is merged there by one f32 addition; with a Cistern of no lines it is added into
memory at once. (The adding core holds no copy of the line.) -/
def CisternAdditions : Prop :=
  ∀ (s : State) (a : CisAdd) (rest : List CisAdd), Memory.wf s.mem = true → s.cisAdds = a :: rest →
    (∀ c ∈ s.copies, c.1 ≠ ckey (s.team a.uid).core (a.pa / 64)) →
    let line := a.pa / 64
    let i := a.pa % 64 / 4
    (∀ c, s.cistern = [c] → c.line = line → c.words.length = 16 →
      ∃ t, exec (.cisternAddition 0) s = .next t ∧ t = { s with cisAdds := rest, cistern := t.cistern }
        ∧ ∃ c', t.cistern = [c'] ∧ c'.line = line ∧ c'.home = c.home
          ∧ (∀ j, j ≠ i → c'.words[j]? = c.words[j]?)
          ∧ c'.words[i]? = some (some (match c.words.getD i none with
              | some w => toW (fAdd f32 0 false w.toNat a.x.toNat) | none => a.x)))
    ∧ (s.cistern = [] → s.cisCap (homeOf a.pa / 32) = 0 → s.poison.contains line = false → a.pa % 4 = 0 →
      ∃ t, exec (.cisternAddition 0) s = .next t ∧ t = { s with cisAdds := rest, mem := t.mem }
        ∧ ofBytes (memBytes t.mem a.pa 4) = fAdd f32 0 false (ofBytes (memBytes s.mem a.pa 4)) a.x.toNat % 2 ^ 32
        ∧ ∀ q, q < a.pa ∨ a.pa + 4 ≤ q → memGet t.mem q = memGet s.mem q)

/-- R222 to R224: COPY.WAIT waits until the write pointer has reached its value and then gives the pointer; COPY.QUERY gives the
pointer and the status, and clears ERROR where asked; a PREFETCH whose record passes, as it stands after what the gang did before,
changes nothing but the translations that are held. -/
def CopyQueries : Prop :=
  ∀ (s : State) (d : VReg) (a : UReg) (ch : BitVec 4) (clr l1 : Bool), d.toNat % 4 = 0 →
    let cn := s.chan s.iss.uid ch.toNat
    (cn.wp < s.rup a.toNat → exec (.copyWait d a ch) s = stall s)
    ∧ (s.rup a.toNat ≤ cn.wp → Puts2 s d (fun _ => cn.wp) (exec (.copyWait d a ch) s))
    ∧ (∃ t, exec (.copyQuery d clr ch) s = .next t ∧ t = { s with v := t.v, teams := t.teams }
        ∧ PutsIn s d.toNat 4 (fun _ j => match j with
            | 0 => toW cn.wp
            | 1 => toW (cn.wp / 2 ^ 32)
            | 2 => toW ((if cn.err then 2 ^ 31 else 0) + (if cn.queue.any (·.fault) then 2 ^ 30 else 0) + cn.queue.length)
            | _ => 0) t
        ∧ (clr = false → t.teams = s.teams)
        ∧ (clr = true → t.chan s.iss.uid ch.toNat = { cn with err := false }
            ∧ TeamIn s s.iss.uid (fun tm => { tm with chans := (t.team s.iss.uid).chans }) t))
    ∧ ∀ s1 tr, s.drain.readTrec (s.rup a.toNat) = (s1, .ok tr) →
        ∃ t, exec (.prefetch a l1) s = .next t ∧ t = { s1 with tlb := t.tlb }
          ∧ t.v = s.drain.v ∧ t.u = s.drain.u ∧ t.cc = s.drain.cc ∧ t.threads = s.drain.threads ∧ t.teams = s.drain.teams

/-- R215 and R216: TSTCLR gives every active lane the status as it was and clears exactly the fields that its mask selects. -/
def TestAndClear : Prop :=
  ∀ (s : State) (d : VReg) (mask : BitVec 4),
    let st := (s.team s.iss.uid).status.toNat
    ∃ t w, exec (.tstclr d mask) s = .next t ∧ t = { s with v := t.v, teams := t.teams }
      ∧ PutsIn s d.toNat 1 (fun _ _ => (s.team s.iss.uid).status) t ∧ TeamIn s s.iss.uid (fun tm => { tm with status := w }) t
      ∧ nbit w.toNat 31 = (nbit st 31 && !nbit mask.toNat 0) ∧ nbit w.toNat 30 = (nbit st 30 && !nbit mask.toNat 1)
      ∧ nbit w.toNat 29 = (nbit st 29 && !nbit mask.toNat 2) ∧ bits w.toNat 28 16 = 0
      ∧ w.toNat % 2 ^ 16 = if nbit mask.toNat 3 then 0 else st % 2 ^ 16

/-- R65, R83, R90, R94, R103, R109, R219 and R223: a channel starts its oldest copy; a running copy that has more to come moves its next
part, the rest of its element and at most 8 bytes, from its source to its destination, scratchpad or memory, and counts it, and writes
nothing else; what the Sluice holds then is its own affair. With its last part the copy leaves its channel, arrives at its barrier and
writes its completion word. An engine reads the line at its home with what its core has written of it, and writes it there. A copy that
waits for another package or for a fault's answer, or whose team has been stopped, moves nothing. (No fault was met ahead.) -/
def CopyRuns : Prop :=
  (∀ (s : State) (u ch : Nat) (c : Copy) (rest : List Copy), (s.chan u ch).queue = c :: rest →
    let cn := s.chan u ch
    (∃ t, exec (.copyStart u ch) s = .next t ∧ t = { s with teams := t.teams }
      ∧ t.chan u ch = { cn with queue := { c with started := true } :: rest } ∧ (∀ k, k ≠ ch → t.chan u k = s.chan u k)
      ∧ TeamIn s u (fun tm => { tm with chans := (t.team u).chans }) t)
    ∧ (c.started = false ∨ c.fault = true ∨ c.busy ≠ 0 ∨ s.halted u = true → exec (.copyDelivery u ch) s = .next s)
    ∧ ∀ d a ix, c.nextPiece = (some d, some a, ix) → c.started = true → c.fault = false → c.busy = 0 → c.got = none → c.met = [] →
        s.halted u = false →
        let x := s.ctxOf u c.priv
        let o := c.at_ % c.dst.pb
        let n := min 8 (c.dst.pb - o)
        let from_ := wrap (a + o) 64
        let into := wrap (d + o) 64
        let held (bs : List Byte) : Prop := bs = (List.range n).map fun j => NMap.get 0 s.scratch (skey u (a.toNat + o + j))
        let puts (bs : List Byte) (t : State) : Prop :=
          (∀ j < n, NMap.get 0 t.scratch (skey u (d.toNat + o + j)) = bs.getD j 0)
          ∧ ∀ k, (∀ j < n, k ≠ skey u (d.toNat + o + j)) → NMap.get 0 t.scratch k = NMap.get 0 s.scratch k
        let moves (t : State) : Prop :=
          (∃ m, t.chan u ch = { cn with wp := (cn.wp + n) % 2 ^ 64, queue := { c with at_ := c.at_ + n, met := m } :: rest })
          ∧ (∀ k, k ≠ ch → t.chan u k = s.chan u k) ∧ TeamIn s u (fun tm => { tm with chans := (t.team u).chans }) t
        (c.at_ + n < c.total →
          (∀ bs, c.skind = 1 → c.dscr = true → 0 ≤ d → 0 ≤ a → held bs →
            ∃ t, exec (.copyDelivery u ch) s = .next t ∧ t = { s with scratch := t.scratch, teams := t.teams } ∧ puts bs t ∧ moves t)
          ∧ (∀ s1 bs, c.skind = 0 → c.dscr = true → 0 ≤ d → nbit from_ 63 = false → s.engRead x from_ n = (s1, .ok bs) →
            s1.teams = s.teams → s1.scratch = s.scratch →
            ∃ t, exec (.copyDelivery u ch) s = .next t
              ∧ t = { s1 with scratch := t.scratch, teams := t.teams, tlb := t.tlb } ∧ puts bs t ∧ moves t)
          ∧ ∀ s1 bs, c.skind = 1 → c.dscr = false → 0 ≤ a → nbit into 63 = false → held bs → s.engPut x into bs = (s1, none) →
            s1.teams = s.teams →
            ∃ t, exec (.copyDelivery u ch) s = .next t ∧ t = { s1 with teams := t.teams, tlb := t.tlb } ∧ moves t)
        ∧ ∀ bs, c.total ≤ c.at_ + n → c.skind = 1 → c.dscr = true → 0 ≤ d → 0 ≤ a → held bs →
          ∃ t, t = { s with scratch := t.scratch, teams := t.teams } ∧ puts bs t
            ∧ t.chan u ch = { cn with wp := (cn.wp + n) % 2 ^ 64, queue := rest } ∧ (∀ k, k ≠ ch → t.chan u k = s.chan u k)
            ∧ (∀ k, t.bar u k = if c.bar = some k then { s.bar u k with copies := (s.bar u k).copies - 1 } else s.bar u k)
            ∧ TeamIn s u (fun tm => { tm with chans := (t.team u).chans, bars := (t.team u).bars }) t
            ∧ exec (.copyDelivery u ch) s = .next (((match c.done with
                | some (va, scope) => t.writeCw x va scope (2 ^ 62 + c.total % 2 ^ 48)
                | none => t).engineDone u).walkAhead u ch))
  ∧ ∀ (s : State) (x : Ctx) (va n : Nat) (e : Tlb), 0 < n → n ≤ 8 → va % 64 + n ≤ 64 → e.paOf va % 64 = va % 64 →
      s.discarded e = false → s.cisHas (e.paOf va / 64) = false →
      let pa := e.paOf va
      let s1 := s.hold (194 + coreDie x.core) e
      (s.engXlat x .read va = .ok e → s.poison.contains (pa / 64) = false →
        ∃ bs, s.engRead x va n = (s1, .ok bs) ∧ bs.length = n ∧ ∀ j < n, bs.getD j 0 =
          match s.copy x.core (pa / 64) with
          | some c => if c.dirty.getD (pa % 64 + j) false then c.data.getD (pa % 64 + j) 0
              else (s.homeLine (pa / 64)).getD (pa % 64 + j) 0
          | none => (s.homeLine (pa / 64)).getD (pa % 64 + j) 0)
      ∧ ∀ bs, s.engXlat x .write va = .ok e → bs.length = n → Memory.wf s.mem = true → farLine (pa / 64) = false →
          (∀ c ∈ s.copies, c.1 ≠ ckey x.core (pa / 64)) →
          ∃ t, s.engPut x va bs = (t, none) ∧ t = { s1 with mem := t.mem }
            ∧ ∀ q, memGet t.mem q = if pa ≤ q ∧ q < pa + n then bs.getD (q - pa) 0 else memGet s.mem q

/-- R226 and R304: what the unit does to the elements of a region. A store is found again at its key and at no other, a deletion
leaves the key absent, CRED adds word by word, and CNEXT finds the least present key from its own on. -/
def CaddyElements : Prop :=
  ∀ (r : CReg) (w key : Nat) (x data : List Word) (f32w : Bool),
    ((r.put w key x).get key = some x ∧ ∀ k, k ≠ key → (r.put w key x).get k = r.get k)
    ∧ ((r.del key).get key = none ∧ ∀ k, k ≠ key → (r.del key).get k = r.get k)
    ∧ ((∀ y ∈ data, y = 0) → r.write false f32w w key data = r.del key ∧ r.write true f32w w key data = r)
    ∧ ((∃ y ∈ data, y ≠ 0) → (r.write false f32w w key data).get key = some data
        ∧ (r.write true f32w w key data).get key = some (List.zipWith
            (fun e y => if f32w then toW (fAdd f32 0 false e.toNat y.toNat) else BitVec.ofNat 32 (e.toNat + y.toNat))
            ((r.get key).getD (List.replicate w 0)) data))
    ∧ (r.entries.Pairwise (fun p q => p.1 < q.1) →
        (∀ e ∈ r.entries, key ≤ e.1 → (∀ f ∈ r.entries, key ≤ f.1 → e.1 ≤ f.1) → r.next w key = e)
        ∧ ((∀ e ∈ r.entries, e.1 < key) → r.next w key = (2 ^ 64 - 1, List.replicate w 0)))

/-- R226, R295, R300 and R304: an operation that reaches the unit of its region is performed there: CST and CRED change the region, the others
fill their registers with what it holds. The unit's bytes of the record, 32 to 63, are the only bytes of memory that change. (No
uncorrectable error is met, and the record lies in HBM4 or side memory.) The root's address stays while the height does. -/
def CaddyUnit : Prop :=
  ∀ (s : State) (o : CaddyOp) (rest : List CaddyOp), s.caddyOps = o :: rest →
    let r := NMap.get {} s.caddy o.line
    let zeros := List.replicate o.w (0 : Word)
    let sum := o.minor = 2
    Memory.wf s.mem = true → farLine o.line = false → s.cisHas o.line = false →
    s.poolHit ⟨(s.team o.uid).core, o.slice, false, o.uid, o.launch⟩ r ≠ some .memUe →
      ∃ t, exec (.caddyOperation 0) s = .next t
        ∧ t = { s with caddyOps := rest, caddy := t.caddy, mem := t.mem, v := t.v, empty := t.empty }
        ∧ (let r' := if o.minor = 1 ∨ sum then r.write sum (bytesAt (s.homeLine o.line) 18 1 == 1) o.w o.key o.data else r
           ∃ root, NMap.get {} t.caddy o.line = { r' with root := root } ∧ (r'.seps = [] → root = 0)
             ∧ (r'.seps ≠ [] → r'.height = r.height → root = r.root))
        ∧ (∀ k, k ≠ o.line → NMap.get {} t.caddy k = NMap.get {} s.caddy k)
        ∧ (∀ a, a < 64 * o.line + 32 ∨ 64 * o.line + 64 ≤ a → memGet t.mem a = memGet s.mem a)
        ∧ ((s.thr o.uid o.t).exited = false →
            (o.minor = 0 → ((r.get o.key).getD zeros).length = o.w → ∀ k < o.w,
              t.vAt o.uid o.t (o.reg + k) = ((r.get o.key).getD zeros).getD k 0 ∧ t.isEmpty o.uid o.t (o.reg + k) = false)
            ∧ (o.minor = 3 → (r.next o.w o.key).2.length = o.w → t.vAt o.uid o.t o.reg = toW (r.next o.w o.key).1
              ∧ t.vAt o.uid o.t (o.reg + 1) = toW ((r.next o.w o.key).1 / 2 ^ 32)
              ∧ ∀ k < o.w, t.vAt o.uid o.t (o.reg + 2 + k) = (r.next o.w o.key).2.getD k 0)
            ∧ (o.minor = 4 → t.vAt o.uid o.t o.reg = (if (r.get o.key).isSome then 1 else 0)
              ∧ t.vAt o.uid o.t (o.reg + 1) = toW (min r.free (2 ^ 32 - 1))))
        ∧ (o.minor = 1 ∨ sum → t.v = s.v ∧ t.empty = s.empty)

/-- R97, R168 to R170, R193, R194, R256: an ACTLD, MLOAD or SMPLD of a legal image is queued for the core after the gang's pending
operations and marks its completion register, and the team keeps the address; ACT gives the interpolated table value of each lane late, which is the first knot at or
below LO, the last knot from 255 on and the canonical NaN for a NaN. -/
def ImageLoads : Prop :=
  ∀ (s : State) (d : VReg) (a : UReg) (x : VReg) (slot : BitVec 6) (fslot : BitVec 4) (pa : Bool) (tbl : BitVec 2),
    let va := s.rup a.toNat
    let u := s.iss.uid
    let s1 := s.drain
    let queues (kind sl n : Nat) (f : State → Team → Team) (r : Res) : Prop :=
      s.rangeOk s.ctx' .read va n = .ok () →
        ∃ t, r = .next t ∧ t = { s1 with
            imgs := s1.imgs ++ [⟨kind, (s.team u).core, u, (s.team u).slice, s.privL s.low, s.iss.gang, s.iss.lanes, d.toNat, sl, va,
              false, false⟩],
            teams := t.teams, empty := t.empty }
          ∧ TeamIn s1 s1.iss.uid (f t) t ∧ Emptied s1 d.toNat 1 t
    (va % 64 = 0 → isDomain va = false → canonical va = true →
      queues 1 0 4160 (fun _ tm => { tm with actld := va }) (exec (.actld d a) s)
      ∧ queues 4 slot.toNat 272 (fun t tm => { tm with mloads := (t.team s1.iss.uid).mloads }) (exec (.mload d a slot) s)
      ∧ queues 2 fslot.toNat 528 (fun t tm => { tm with smplds := (t.team s1.iss.uid).smplds }) (exec (.smpld d a fslot) s))
    ∧ (let core := (s.team u).core
       let bank := NMap.get 0 s.actBank core
       let w := s.actWord core bank tbl.toNat
       let knot (k : Nat) := if isNan32 (w (2 + k)) then f32.cnan else w (2 + k)
       let ix (l : Nat) := fMul f32 0 false (fSub f32 0 false (flushF f32 s.ftz32 (s.rv l x.toNat).toNat) (w 0)) (w 1)
       let val (l : Nat) := s.actVal core tbl.toNat s.ftz32 (s.rv l x.toNat).toNat
       LateOne s d (fun l => toW (val l)) (exec (.act d x pa tbl) s)
       ∧ ∀ l, (decodeF f32 (ix l) = .nan → val l = flushF f32 s.ftz32 f32.cnan)
          ∧ (decodeF f32 (ix l) = .inf true ∨ (∃ m e, decodeF f32 (ix l) = .fin true m e) ∨ (∃ n e, decodeF f32 (ix l) = .fin n 0 e) →
              val l = flushF f32 s.ftz32 (knot 0))
          ∧ (decodeF f32 (ix l) = .inf false ∨ (∃ m e, decodeF f32 (ix l) = .fin false m e ∧ m ≠ 0 ∧ (Dy.mk m e).lt ⟨255, 0⟩ = false) →
              val l = flushF f32 s.ftz32 (knot 255)))

/-- R168, R169, R193, R255, R256: the oldest load of a kind on a core, its image read, replaces its object in one step and fills its
completion register: the tables of the other bank, which becomes the current one; a macro slot once no macro of the slot runs; a
filter slot once no SAMPLE uses it. An invalid image leaves the slot as it is and fills all ones. -/
def ImageArrivals : Prop :=
  ∀ (s s1 : State) (core : Nat) (l : ImgLoad) (bs : List Byte),
    let first (kind : Nat) : Prop := s.imgs.find? (fun l => l.core == core && l.kind == kind) = some l ∧ l.susp = false
      ∧ s.engRead (l.ctx (s.team l.uid).launch) l.addr (imgBytes kind) = (s1, .ok bs) ∧ l.kind = kind ∧ l.core = core
    let fills (x : Word) (t : State) : Prop := Completes s1 l.uid l.gang l.lanes l.d x t
    s1.GoesOn l.uid →
      (first 1 →
        let bank := 1 - NMap.get 0 s1.actBank core
        ∃ t, exec (.actldComplete core) s = .next t
          ∧ t = { s1 with imgs := s1.imgs.erase l, actTabs := t.actTabs, actBank := t.actBank, v := t.v, empty := t.empty }
          ∧ NMap.get 0 t.actBank core = bank ∧ (∀ c, c ≠ core → NMap.get 0 t.actBank c = NMap.get 0 s1.actBank c)
          ∧ (∀ tab < 4, t.actWord core bank tab 0 = bytesAt bs (1040 * tab) 4
              ∧ t.actWord core bank tab 1 = bytesAt bs (1040 * tab + 4) 4
              ∧ ∀ k < 256, t.actWord core bank tab (2 + k) = bytesAt bs (1040 * tab + 16 + 4 * k) 4)
          ∧ (∀ k, (∀ x < 1032, k ≠ actKey core bank 0 x) → NMap.get 0 t.actTabs k = NMap.get 0 s1.actTabs k)
          ∧ fills (toW bank) t)
      ∧ (first 4 → s.macroRuns core l.slot = false →
          ∃ t, exec (.mloadComplete core) s = .next t
            ∧ t = { s1 with imgs := s1.imgs.erase l, macros := t.macros, v := t.v, empty := t.empty }
            ∧ (∀ k, k ≠ slotKey core l.slot ∨ parseMacro bs = none → NMap.find t.macros k = NMap.find s1.macros k)
            ∧ (∀ m, parseMacro bs = some m → NMap.find t.macros (slotKey core l.slot) = some m)
            ∧ fills (if (parseMacro bs).isSome then toW l.slot else 0xFFFFFFFF) t)
      ∧ (first 2 → (∀ j ∈ s.samples, ¬ (j.core = core ∧ j.slot = l.slot)) →
          ∃ t, exec (.smpldComplete core) s = .next t
            ∧ t = { s1 with imgs := s1.imgs.erase l, filters := t.filters, v := t.v, empty := t.empty }
            ∧ (∀ k, k ≠ slotKey core l.slot ∨ parseFilter bs = none → NMap.find t.filters k = NMap.find s1.filters k)
            ∧ (∀ m, parseFilter bs = some m → NMap.find t.filters (slotKey core l.slot) = some m)
            ∧ fills (if (parseFilter bs).isSome then toW l.slot else 0xFFFFFFFF) t)

/-- R123, R233, R234, R237, R238: an operation of the matrix engine whose checks pass is queued on its core with its operands as read at
the issue, and marks its completion register; where the active lanes differ in the format word the issue traps, and an ACCVT waits
for the earlier operations on its tile. -/
def MatrixIssues : Prop :=
  ∀ (s : State) (d a b : VReg) (u : UReg) (tile : BitVec 4) (pa tr : Bool) (w : Nat),
    let o (k : Nat) := (s.ru (u.toNat + k)).toNat
    let tm := s.team s.iss.uid
    let room (off al n : Nat) : Prop := off % al = 0 ∧ off + n ≤ tm.scr
    let queues (k : MOpK) (r : Res) : Prop := ∃ t, r = .next t
      ∧ t = { s with mops := s.mops ++ [⟨tm.core, s.iss.uid, s.iss.gang, s.iss.lanes, d.toNat, tile.toNat, k, false, []⟩], empty := t.empty }
      ∧ Emptied s d.toNat 1 t
    let diverges (r : Res) : Prop := r = raise { cause := .fmtDiverge, lane := s.low, check := 1 } s
    (s.voteWord a = none → diverges (exec (.mma d a pa u tile) s) ∧ diverges (exec (.mmaZ d a pa u tile) s))
    ∧ (s.voteWord b = none → diverges (exec (.accvt d u b pa tile) s))
    ∧ (tile.toNat < tm.acc →
        (s.voteWord a = some w → fwOk w = true → room (o 0) 64 operandBytes → room (o 1) 64 operandBytes →
          (scaled (fwA w) = true → room (o 2) 8 scaleBytes) → (scaled (fwB w) = true → room (o 3) 8 scaleBytes) →
            queues (.mma false w (o 0) (o 1) (o 2) (o 3)) (exec (.mma d a pa u tile) s)
            ∧ queues (.mma true w (o 0) (o 1) (o 2) (o 3)) (exec (.mmaZ d a pa u tile) s))
        ∧ (room (o 0) 64 16384 →
            queues (.acld (o 0) tr) (exec (.acld d u tr tile) s) ∧ queues (.acst (o 0) tr) (exec (.acst d u tr tile) s))
        ∧ queues .acz (exec (.acz d tile) s)
        ∧ (s.voteWord b = some w → fwOk w = true → room (o 0) 64 (512 * outBits (fwOut w)) →
            ((∃ m ∈ s.mops, m.uid = s.iss.uid ∧ m.tile = tile.toNat) → exec (.accvt d u b pa tile) s = stall s)
            ∧ ((∀ m ∈ s.mops, ¬ (m.uid = s.iss.uid ∧ m.tile = tile.toNat)) →
                ((∃ x ∈ s.tile s.iss.uid tile.toNat, accvtElem w x = none) →
                  exec (.accvt d u b pa tile) s = raise { cause := .cvtOverflow, lane := s.low } s)
                ∧ ((∀ x ∈ s.tile s.iss.uid tile.toNat, accvtElem w x ≠ none) →
                  queues (.accvt (o 0) w) (exec (.accvt d u b pa tile) s)))))

/-- R120, R121, R124, R234 to R238 and R286: the engine takes the oldest MMA; when it completes, each word of its tile is the old word
(zero for MMA.Z) with the groups of 32 products added one after the other, and its completion register holds 0. Of operand bytes
rewritten while it ran, each product takes the old one or the new one. ACLD, ACST and ACZ move a tile between the accumulator store
and the scratchpad, transposed where asked; ACCVT writes the codes of the converted words, packed from the lowest bit on, and adds what
their conversions count to the counters of the format word's tensor. -/
def MatrixEngine : Prop :=
  ∀ (s : State) (core : Nat) (o : MOp) (rest : List MOp), s.mops = o :: rest → o ∉ rest → o.core = core →
    let u := o.uid
    let done (scr : Bool) (stats : Bool) (t : State) : Prop :=
      t = { s with mops := rest, tiles := if scr then s.tiles else t.tiles, scratch := if scr then t.scratch else s.scratch,
                   teams := if stats then t.teams else s.teams, v := t.v, empty := t.empty }
      ∧ Completes s u o.gang o.lanes o.d 0 t
    let tile (f : Nat → Nat → Word) (t : State) : Prop :=
      (∀ i < 64, ∀ j < 64, (t.tile u o.tile).getD (64 * i + j) 0 = f i j)
      ∧ ∀ k, k ≠ tilekey u o.tile → NMap.get [] t.tiles k = NMap.get [] s.tiles k
    let old (zero : Bool) (i j : Nat) : Word := if zero then 0 else (s.tile u o.tile).getD (64 * i + j) 0
    (o.isMma = true → o.started = false →
      exec (.mmaStart core) s = .next { s with mops := { o with started := true, seen := s.opRows o } :: rest })
    ∧ (s.GoesOn u →
        (∀ zero w a b sa sb, o.kind = .mma zero w a b sa sb → o.started = true → ∀ s0 : State, o.seen = s0.mmaRows u a b sa sb →
          let k := kDepth w
          let rowA (s : State) (i : Nat) : List Byte × List Byte := (s.operandRow u a i, s.scaleRow u sa i)
          let rowB (s : State) (j : Nat) : List Byte × List Byte := (s.operandRow u b j, s.scaleRow u sb j)
          let mixed (was now r : List Byte × List Byte) : Prop :=
            (∀ n : Nat, r.1[n]? = was.1[n]? ∨ r.1[n]? = now.1[n]?) ∧ ∀ n : Nat, r.2[n]? = was.2[n]? ∨ r.2[n]? = now.2[n]?
          let word (i j : Nat) (ra rb : Nat → List Byte × List Byte) : Word :=
            if fwInt w then
              ofInt (accInt (old zero i j).toInt ((List.range k).map fun x => mmaInt (fwA w) (ra x).1 x)
                ((List.range k).map fun x => mmaInt (fwB w) (rb x).1 x) (k / 32)).1
            else
              toW (accFloat (old zero i j).toNat ((List.range k).map fun x => (mmaElem (fwA w) (ra x).1 (ra x).2 x).1)
                ((List.range k).map fun x => (mmaElem (fwB w) (rb x).1 (rb x).2 x).1) (k / 32))
          ∃ t, exec (.mmaComplete core) s = .next t ∧ done false true t
            ∧ TeamIn s u (fun tm => { tm with stats := (t.team u).stats }) t ∧ (fwNoStat w = true → t.teams = s.teams)
            ∧ ((∀ r < 64, rowA s0 r = rowA s r ∧ rowB s0 r = rowB s r) →
                tile (fun i j => word i j (fun _ => rowA s i) (fun _ => rowB s j)) t)
            ∧ ∃ ra rb : Nat → Nat → Nat → List Byte × List Byte,
                (∀ i < 64, ∀ j < 64, ∀ x < k, mixed (rowA s0 i) (rowA s i) (ra i j x) ∧ mixed (rowB s0 j) (rowB s j) (rb i j x))
                ∧ tile (fun i j => word i j (ra i j) (rb i j)) t)
        ∧ (∀ off tr, o.kind = .acld off tr → ∃ t, exec (.accumulatorOpComplete core) s = .next t ∧ done false false t
            ∧ tile (fun i j => toW (ofBytes (s.scr u (off + 4 * (if tr then 64 * j + i else 64 * i + j)) 4))) t)
        ∧ (o.kind = .acz → ∃ t, exec (.accumulatorOpComplete core) s = .next t ∧ done false false t ∧ tile (fun _ _ => 0) t)
        ∧ (∀ off tr, o.kind = .acst off tr → ∃ t, exec (.accumulatorOpComplete core) s = .next t ∧ done true false t
            ∧ (∀ i < 64, ∀ j < 64, t.scr u (off + 4 * (64 * i + j)) 4 =
                toBytes 4 ((s.tile u o.tile).getD (if tr then 64 * j + i else 64 * i + j) 0).toNat)
            ∧ ∀ k, (∀ j < 16384, k ≠ skey u (off + j)) → NMap.get 0 t.scratch k = NMap.get 0 s.scratch k)
        ∧ (∀ off w, o.kind = .accvt off w → ∃ t, exec (.accumulatorOpComplete core) s = .next t ∧ done true true t
            ∧ (let b := outBits (fwOut w)
               let el (k : Nat) : Nat × List Nat := (accvtElem w ((s.tile u o.tile).getD k 0)).getD (0, [])
               let packed := ((List.range 4096).map fun k => (el k).1 * 2 ^ (b * k)).sum
               let n (c : Nat) := ((List.range 4096).map fun k => (el k).2.count c).sum
               let st (s : State) (k : Nat) := NMap.get 0 (s.team u).stats k
               (∀ k < 512 * b, NMap.get 0 t.scratch (skey u (off + k)) = BitVec.ofNat 8 (packed / 2 ^ (8 * k)))
               ∧ (∀ k, (∀ j < 512 * b, k ≠ skey u (off + j)) → NMap.get 0 t.scratch k = NMap.get 0 s.scratch k)
               ∧ TeamIn s u (fun tm => { tm with stats := (t.team u).stats }) t ∧ (fwNoStat w = true → t.teams = s.teams)
               ∧ (fwNoStat w = false → (∀ c < 4, st t (4 * fwTensor w + c) = if n c = 0 then st s (4 * fwTensor w + c)
                   else (st s (4 * fwTensor w + c) + n c) % 2 ^ 64)
                 ∧ ∀ k, k / 4 ≠ fwTensor w → st t k = st s k))))

/-- R239, R241: a ROUTE or SORT whose descriptor passes is queued with its 64 bytes as read; 128 copies and routes in flight on the
core, or 16 jobs of the slice, make the fragment wait. An idle Strainer starts the oldest job of the slice whose turn it is. -/
def RouteAndSortIssues : Prop :=
  ∀ (s : State) (d : VReg) (a b : UReg) (scope : BitVec 4) (s1 : State) (bs : List Byte),
    let u := s.iss.uid
    let tm := s.team u
    (128 ≤ s.copiesOn tm.core → exec (.route d a) s = stall s)
    ∧ (s.copiesOn tm.core < 128 → s.descCheck s.low (s.rup a.toNat) none = (s1, .ok bs) → routeFieldsOk bs = true →
        routeArrays bs = none →
        ∃ t, exec (.route d a) s = .next t
          ∧ t = { s1.drain with
              routes := s1.drain.routes ++ [⟨u, tm.core, tm.slice, s.privL s.low, s.iss.gang, s.iss.lanes, d.toNat, bs⟩],
              empty := t.empty }
          ∧ Emptied s1.drain d.toNat 1 t)
    ∧ (let jobs := s.sorts.countP fun j => s.lead j.slice == s.lead tm.slice
       (16 ≤ jobs → exec (.sort a b scope) s = stall s)
       ∧ (jobs < 16 → s.descCheck s.low (s.rup a.toNat) (some (s.rup b.toNat)) = (s1, .ok bs) →
          exec (.sort a b scope) s = .next { s1.drain with
            sorts := s1.drain.sorts
              ++ [⟨u, coreDie tm.core, tm.core, tm.slice, s.privL s.low, bs, s.rup b.toNat, scope.toNat, false⟩] }))
    ∧ ∀ (die : Nat) (j : SortJob) (rest : List SortJob), s.sorts = j :: rest → j.die = die →
        ((∃ x ∈ s.sorts, x.die = die ∧ x.started = true) → exec (.strainerJobStart die) s = .next s)
        ∧ ((∀ x ∈ s.sorts, ¬ (x.die = die ∧ x.started = true)) → j.slice = NMap.get 0 s.sortTurn die % 8 →
          ∃ t, exec (.strainerJobStart die) s = .next t
            ∧ t = { s with sorts := { j with started := true } :: rest, sortTurn := t.sortTurn }
            ∧ NMap.get 0 t.sortTurn die = (NMap.get 0 s.sortTurn die + 1) % 8
            ∧ ∀ k, k ≠ die → NMap.get 0 t.sortTurn k = NMap.get 0 s.sortTurn k)

/-- R240, R242: the pairs of a sort are the given ones, in order of the compared bits, equal ones in their order of input; a refused
job, and one that ends, leaves its completion word. A ROUTE fills its completion register with the number of dropped tokens, or with
all ones where an array faults. Both come after every write that the operation has still to make (R103). -/
def RouteAndSortEnds : Prop :=
  (∀ (lo hi : Nat) (desc : Bool) (ps : List (Nat × Nat)),
    let r := sortPairs lo hi desc ps
    r.Perm ps
    ∧ r.Pairwise (fun x y => if desc then bits y.1 hi lo ≤ bits x.1 hi lo else bits x.1 hi lo ≤ bits y.1 hi lo)
    ∧ ∀ v, (r.filter fun x => bits x.1 hi lo == v) = ps.filter fun x => bits x.1 hi lo == v)
  ∧ (∀ (s : State) (die : Nat) (j : SortJob) (rest : List SortJob) (s1 : State) (w : Nat),
      s.sorts = j :: rest → j.die = die → j.started = true →
      State.runSort { s with sorts := rest } ⟨j.core, j.slice, j.priv, j.uid, (s.team j.uid).launch⟩ j.desc = (s1, w) →
      (let c : Ctx := ⟨j.core, j.slice, j.priv, j.uid, (s.team j.uid).launch⟩
       ((∀ p ∈ s1.parts, p.op ≠ s1.opNow) → (s1.writeCw c j.cw j.scope w).GoesOn j.uid →
         exec (.strainerJobDone die) s = .next (s1.writeCw c j.cw j.scope w))
       ∧ ((∃ p ∈ s1.parts, p.op = s1.opNow) → exec (.strainerJobDone die) s = .next { s1 with
            fins := s1.fins ++ [(j.uid, s1.opNow, .word c.core c.slice c.priv c.launch j.cw j.scope w)] })
       ∧ ∀ x, sortRefused j.desc = some x → w = x ∧ s1 = { s with sorts := rest }))
  ∧ ∀ (s : State) (r : RouteOp) (rest : List RouteOp) (s1 s2 : State) (fill : NMap Nat) (nd : Nat) (ok : Bool),
      s.routes = r :: rest →
      (let c : Ctx := ⟨r.core, r.slice, r.priv, r.uid, (s.team r.uid).launch⟩
       let tokens := List.range (bytesAt r.desc 40 4 * bytesAt r.desc 46 1)
       let ends (s' : State) (x : Word) : Prop :=
         ((∀ p ∈ s'.parts, p.op ≠ s'.opNow) → ∃ t, exec (.routeComplete 0) s = .next t ∧ t = { s' with v := t.v, empty := t.empty }
           ∧ Completes s' r.uid r.gang r.lanes r.d x t)
         ∧ ((∃ p ∈ s'.parts, p.op = s'.opNow) → exec (.routeComplete 0) s = .next { s' with
              fins := s'.fins ++ [(r.uid, s'.opNow, .reg r.gang r.lanes r.d x)] })
       (State.routeGo { s with routes := rest } c r.desc tokens [] 0 = (s1, none) → s1.GoesOn r.uid → ends s1 0xFFFFFFFF)
       ∧ (State.routeGo { s with routes := rest } c r.desc tokens [] 0 = (s1, some (fill, nd)) →
          s1.routeEnd c r.desc fill (List.range (bytesAt r.desc 44 2)) = (s2, ok) → s2.GoesOn r.uid →
            ends s2 (if ok then toW (min nd (2 ^ 32 - 1)) else 0xFFFFFFFF)))

/-- R94, R103: what ROUTE, SORT, presents and collectives write is cut at the naturally aligned 8-byte addresses, each piece with the translation of
its first byte's line, up to the first that does not translate. Each of the parts is written by itself, in any order, under the
Pump's rule; with the last part of an operation it ends, its completion word written or its registers filled. -/
def EngineWrites : Prop :=
  (∀ (s : State) (c : Ctx) (op va : Nat) (bs : List Byte),
    let r := s.engOut c op va bs
    let new := r.1.parts.drop s.parts.length
    let upto := match r.2 with | some x => x.2 - va | none => bs.length
    r.1 = { s with parts := s.parts ++ new, tlb := r.1.tlb }
    ∧ upto ≤ bs.length ∧ (new.map (·.bs)).flatten = bs.take upto
    ∧ (∀ pre p post, new = pre ++ p :: post →
        p.uid = c.uid ∧ p.op = op ∧ p.core = c.core ∧ p.va = va + ((pre.map (·.bs)).flatten).length
        ∧ 1 ≤ p.bs.length ∧ p.va % 8 + p.bs.length ≤ 8)
    ∧ ∀ x a, r.2 = some (x, a) → upto < bs.length ∧ (a = va ∨ a % 64 = 0))
  ∧ (∀ (s : State) (c : Ctx) (op va : Nat) (bs : List Byte) (e : Tlb), bs ≠ [] → va % 8 + bs.length ≤ 8 → s.engXlat c .write va = .ok e →
      s.engOut c op va bs = ({ s.hold (194 + coreDie c.core) e with parts := s.parts ++ [⟨c.uid, op, c.core, va, e, bs⟩] }, none))
  ∧ ∀ (s : State) (k : Nat) (p : EngPart), s.parts[k]? = some p →
      let s1 : State := { s with parts := s.parts.eraseIdx k }
      let s2 := (if s.discarded p.tr then s1.revive p.tr else s1).engWrite p.core (p.tr.paOf p.va) p.bs
      ((∃ q ∈ s2.parts, q.op = p.op) → s.enginePart k = s2)
      ∧ ((∀ q ∈ s2.parts, q.op ≠ p.op) →
          (∀ f ∈ s2.fins, f.2.1 ≠ p.op) → s2.GoesOn p.uid → s.enginePart k = s2)
      ∧ ∀ core slice priv launch va scope w rest, (∀ q ∈ s2.parts, q.op ≠ p.op) → (∀ f ∈ rest, f.2.1 ≠ p.op) →
          s2.fins = (p.uid, p.op, EngFin.word core slice priv launch va scope w) :: rest →
          (let s3 := State.writeCw { s2 with fins := rest } ⟨core, slice, priv, p.uid, launch⟩ va scope w
           s3.GoesOn p.uid → s.enginePart k = s3)

/-- R252, R332: TRACE gives each active lane a traversal of its ray at the root, one that misses at once where the ray is not a ray,
after the gang's pending operations; a thread with a traversal under way makes it wait, and a reserved byte that is set traps. -/
def TraceIssues : Prop :=
  ∀ (s : State) (a : VReg) (pa : Bool) (b : UReg) (w : TraceW) (s1 : State) (bs : List Byte),
    ((∃ l ∈ s.iss.lanes, s.travBusy s.iss.uid (s.tOf l) = true) → exec (.trace a pa b w) s = stall s)
    ∧ ((∀ l ∈ s.iss.lanes, s.travBusy s.iss.uid (s.tOf l) = false) → s.iss.lanes.Nodup →
        s.descCheck s.low (s.rup b.toNat) none = (s1, .ok bs) →
        (bytesAt bs 20 44 ≠ 0 → exec (.trace a pa b w) s = raise { cause := .illegalField, lane := s.low } s)
        ∧ (bytesAt bs 20 44 = 0 →
          let r (l k : Nat) := s1.rv l (a.toNat + k)
          let miss (l : Nat) : Bool := ([0, 1, 2, 4, 5, 6].any fun k => !isFinite32 (r l k).toNat) || isNan32 (r l 7).toNat
            || isNan32 (bytesAt bs 16 4) || lt32 (r l 7).toNat (bytesAt bs 16 4)
          let ray (l : Nat) : Trav :=
            { org := [r l 0, r l 1, r l 2], user := r l 3, dir := [r l 4, r l 5, r l 6], tmax := r l 7,
              tmin := toW (bytesAt bs 16 4), root := bytesAt bs 0 8, table := bytesAt bs 8 8, priv := s1.privL l, emit := w.emit,
              cullb := w.cullb, first := w.first, rtype := w.rtype.toNat, mask := w.mask.toNat,
              seq := (s1.team s1.iss.uid).emSeq + s1.iss.lanes.idxOf l, lim := r l 7,
              cur := if miss l then none else some ⟨0, bytesAt bs 0 8, 1, 1, 0xFF800000, none⟩,
              stack := [], drops := [], trail := 0, redo := 0, best := none, fault := none, told := false, sure := none }
          s1.iss.lanes = s.iss.lanes →
          ∃ t, exec (.trace a pa b w) s = .next t ∧ t = { s1 with threads := t.threads, teams := t.teams }
            ∧ TeamIn s1 s1.iss.uid (fun tm => { tm with emSeq := tm.emSeq + s1.iss.lanes.length }) t
            ∧ ThreadsIn s1 s1.iss.lanes (fun l th => { th with trw := [], tres := {}, trav := some (ray l) }) t))

/-- R254, R331: TRRES gives the results of ended traversals, traps where one has stopped or would stop, leaves its registers empty
where the traversals run to an end, and waits where that cannot be told yet. That it looks ahead, and that what an earlier TRRES found
stands, is log 25. -/
def TraversalReads : Prop :=
  ∀ (s : State) (d : VReg) (sel : Bool), d.toNat % 4 = 0 → s.iss.lanes.Nodup →
    let ahead := s.travAhead
    let r := exec (.trres d sel) s
    ((∀ l ∈ s.iss.lanes, let th := s.thr s.iss.uid (s.tOf l); th.exited = false ∧ th.trav = none ∧ th.trw = []) →
      ∃ t, r = .next t ∧ t = { s with v := t.v, empty := t.empty, threads := t.threads }
        ∧ PutsIn s d.toNat 4 (fun l k => ((s.thr s.iss.uid (s.tOf l)).tres.words sel).getD k 0) t
        ∧ (∀ l ∈ s.iss.lanes, ∀ k < 4, t.isEmpty s.iss.uid (s.tOf l) (d.toNat + k) = false)
        ∧ (∀ k, ¬ s.dest d.toNat 4 k → NMap.get false t.empty k = NMap.get false s.empty k)
        ∧ ∀ k, NMap.get {} t.threads k = NMap.get {} s.threads k)
    ∧ (∀ tr, ahead.iss.lanes.findSome? ahead.newTravFault = some tr → ∃ t, r = .next t ∧ t.iss.trap = some tr)
    ∧ (ahead.iss.lanes.findSome? ahead.newTravFault = none → (∃ l ∈ s.iss.lanes, ahead.travLeft l = true) → r = stall s)
    ∧ ((∀ l ∈ s.iss.lanes, ∃ v, (s.thr s.iss.uid (s.tOf l)).trav = some v ∧ v.fault = none) →
      ahead.iss.lanes.findSome? ahead.newTravFault = none → (∀ l ∈ s.iss.lanes, ahead.travLeft l = false) →
      ∃ t, r = .next t ∧ t = { s with empty := t.empty, threads := t.threads } ∧ Emptied s d.toNat 4 t
        ∧ ThreadsIn s s.iss.lanes (fun l th => { th with
            trw := th.trw ++ [(d.toNat, sel)],
            trav := th.trav.map fun v => { v with
              sure := match (ahead.thL l).trav with | some w => some w.best | none => v.sure } }) t)

/-- R330 to R335, R338: a visit of a node takes the traversal one node further, and the node cache then holds the node. A deferred
child beyond the nearest hit is passed over; a malformed node and a fault stop the traversal for its TRRES; a node error poisons it,
fences the line, records the node in TRAV.NODEUE and is reported, and a fenced node poisons without a fetch. -/
def NodeVisits : Prop :=
  ∀ (s : State) (u k : Nat) (v : Trav), (s.thr u k).trav = some v →
    let r := exec (.traversalNodeVisit u k) s
    let core := (s.team u).core
    let put (s1 : State) (v : Trav) : Res := .next (s1.setThr u k { s1.thr u k with trav := some v })
    let poisoned (s1 : State) : Res := .next ((s1.endTrav u k { t := 0x7FC00000, status := 2 }).engineDone u)
    (v.fault ≠ none ∨ s.halted u = true → r = .next s)
    ∧ ∀ n, v.fault = none → s.halted u = false → v.cur = some n →
        (v.redo = 0 → lt32 v.lim.toNat n.near.toNat = true → r = put s v.next)
        ∧ (v.redo ≠ 0 ∨ lt32 v.lim.toNat n.near.toNat = false →
          let stops (s1 : State) (c : Cause) : Prop :=
            (s1.thr u k).exited = false → (s1.thr u k).trw = [] → r = put s1 { v with fault := some (c, n.addr), told := false }
          let badPlace : Prop := 64 < n.level ∨ (n.level = 1 ∧ v.root % 64 ≠ 0)
          (badPlace → stops s .illegalField)
          ∧ (¬ badPlace → s.nodeFenced core n = true → r = poisoned s)
          ∧ ∀ s1 x, ¬ badPlace → s.nodeFenced core n = false → s.fetchNode (s.ctxOf u v.priv) n = (s1, x) →
              (∀ c a, x = .error (c, a) → c ≠ .memUe → stops s1 c)
              ∧ (∀ a, x = .error (.memUe, a) → r = poisoned (s1.nodeUe u n.addr a))
              ∧ (∀ b, x = .ok b → nodeBad n b = true → stops s1 .illegalField)
              ∧ (∀ b, x = .ok b → nodeBad n b = false →
                  let s2 := s1.cacheNode u n.addr b
                  r = put (if n.kind = 0 ∧ v.redo = 0 then s2.prefetchNodes (s.ctxOf u v.priv) (v.entered n b) else s2) (v.step n b)))

/-- R332 to R334: what a well-formed node does to a traversal. The nearer entered child comes next and the other is deferred; the short
stack keeps the eight newest; a leaf's hits leave the best one, and the search goes on below its distance; a leaf or an instance
leads on to the newest deferred child or, where it has been dropped, to the root again. -/
def NodeSteps : Prop :=
  (∀ (v : Trav) (n : TNode) (b : List Byte), v.redo = 0 →
    (n.kind = 0 →
      (v.entered n b = [] → v.step n b = v.next)
      ∧ (∀ x, v.entered n b = [x] → v.step n b = { v with cur := some x })
      ∧ (∀ x y, v.entered n b = [x, y] → lt32 y.near.toNat x.near.toNat = false
          ∧ v.step n b = { v with
              cur := some x, stack := (y :: v.stack).take 8, drops := ((y :: v.stack).drop 8).map (·.level) ++ v.drops }))
    ∧ (n.kind = 1 →
        let recs := (List.range n.cnt).map fun k => (b.drop (48 * k)).take 48
        let w := v.step n b
        ((∀ x ∈ recs, v.tri n x = none) → w = v.next)
        ∧ (∀ x h, recs = [x] → v.tri n x = some h →
            w.lim = h.t ∧ w.best = some (match v.best with | some g => if h.before g then h else g | none => h)
            ∧ (v.first = true → w.cur = none)))
    ∧ (n.kind = 2 → v.step n b = match v.enter n b with | some x => { v with cur := some x } | none => v.next))
  ∧ ∀ v : Trav,
      (∀ x st, v.stack = x :: st → v.next.cur = some x ∧ v.next.stack = st ∧ v.next.drops = v.drops)
      ∧ (∀ l ls, v.stack = [] → v.drops = l :: ls → v.next.cur = some v.top ∧ v.next.drops = ls ∧ v.next.redo = l)
      ∧ (v.stack = [] → v.drops = [] → v.next.cur = none)

/-- R253, R254, R333, R337, R338: a traversal with nothing left to visit ends: with the miss values, or with its best hit; with EMIT
the hit also goes along the edge of its shader's entry or is counted in the table, as the status bits say. A node error sets V and the
address in TRAV.NODEUE where V is 0 and adds one to COUNT up to 63, and fences the line. -/
def TraversalEnds : Prop :=
  (∀ (s : State) (u k : Nat) (v : Trav), (s.thr u k).trav = some v → v.fault = none → s.halted u = false → v.cur = none →
    let r := exec (.traversalNodeVisit u k) s
    let ends (s1 : State) (x : TravRes) : Prop := r = .next ((s1.endTrav u k x).engineDone u)
    let hit (h : Hit) (st : Nat) : TravRes :=
      { t := h.t, prim := h.prim, instIx := h.instIx, geom := h.geom, u := h.u, v := h.v, status := toW st }
    (v.best = none → ends s {})
    ∧ ∀ h, v.best = some h →
        (v.emit = false → ends s (hit h 1))
        ∧ (v.emit = true → ∀ s1 hd, s.engRead (s.ctxOf u v.priv) v.table 8 = (s1, .ok hd) →
            let c := s.ctxOf u v.priv
            let ix := h.shader + v.rtype
            let tm := s1.team u
            (bytesAt hd 0 4 ≤ ix →
              let s2 := s1.setTeam u { tm with status := tm.status ||| 0x20000000 }
              let e := bytesAt hd 4 4
              (e = 0xFFFFFFFF → ends (s2.bumpTable c (v.table + 8)) (hit h (1 + 16 + 8)))
              ∧ (e < 1024 → s2.edgeFree u e = true → ends (s2.emitHit u k e v h) (hit h (1 + 16 + 4))))
            ∧ (ix < bytesAt hd 0 4 → ∀ s2 b, s1.engRead c (v.table + 32 + 4 * ix) 4 = (s2, .ok b) →
              let e := ofBytes b
              (e = 0xFFFFFFFF → ends (s2.bumpTable c (v.table + 8)) (hit h (1 + 8)))
              ∧ (e < 1024 → s2.edgeFree u e = true → ends (s2.emitHit u k e v h) (hit h (1 + 4)))
              ∧ (e ≠ 0xFFFFFFFF → 1024 ≤ e ∨ s2.edgeFree u e = false → ends (s2.bumpTable c (v.table + 16)) (hit h (1 + 32))))))
  ∧ ∀ (s : State) (u addr at_ : Nat), (s.team u).core < 192 → (s.team u).slice < 8 →
      let core := (s.team u).core
      let reg := s.sysr 0x38 core
      let t := s.nodeUe u addr at_
      t.sysr 0x38 core = (if nbit reg 63 then reg - reg % 64 + min 63 (reg % 64 + 1) else 2 ^ 63 + bits addr 56 6 * 64 + 1)
      ∧ (core, at_ / 64) ∈ t.nodeFences

/-- R255, R257: a SAMPLE whose texture and filter slot are good is a job of its lanes; the job gives its next lane the four channels of
the filter, each the canonical NaN for a coordinate that is not finite or not below 2^24, and ends with its last lane. -/
def Sampling : Prop :=
  (∀ (s : State) (d a : VReg) (pa : Bool) (b : UReg) (slot : BitVec 4) (s1 : State) (bs : List Byte) (taps : List Tap),
    s.descCheck s.low (s.rup b.toNat) none = (s1, .ok bs) → texOk bs = true →
    NMap.find s.filters (slotKey (s.team s.iss.uid).core slot.toNat) = some taps →
      ∃ t, exec (.sample d a pa b slot) s = .next t
        ∧ t = { s1 with
            samples := s1.samples ++ [⟨s.tick, s.iss.uid, (s.team s.iss.uid).core, (s.team s.iss.uid).slice, s.privL s.low,
              d.toNat, s.iss.lanes.map fun l => (s.tOf l, s.rv l a.toNat, s.rv l (a.toNat + 1), s.rv l (a.toNat + 2)), bs,
              slot.toNat, taps, false⟩],
            empty := t.empty }
        ∧ Emptied s1 d.toNat 4 t)
  ∧ ∀ (s : State) (j : SampJob) (jobs : List SampJob) (t : Nat) (x y ref : Word) (more : List (Nat × Word × Word × Word))
      (s1 : State) (xs : List Nat),
      s.samples = j :: jobs → j.susp = false → j.lanes = (t, x, y, ref) :: more →
      s.sampleLane ⟨j.core, j.slice, j.priv, j.uid, (s.team j.uid).launch⟩ j.desc j.taps x.toNat y.toNat ref.toNat = (s1, .ok xs) →
        let far (z : Word) : Prop := isFinite32 z.toNat = false ∨ lt32 (z.toNat % 2 ^ 31) 0x4B800000 = false
        (far x ∨ far y ∨ isFinite32 ref.toNat = false →
          s1 = s ∧ xs = List.replicate 4 f32.cnan)
        ∧ (xs.length = 4 → (s1.thr j.uid t).exited = false → (more = [] → s1.GoesOn j.uid) →
          ∃ s2, exec (.sampleJob 0) s = .next s2
            ∧ s2 = { s1 with
                v := s2.v, empty := s2.empty,
                samples := if more = [] then s1.samples.eraseIdx 0 else s1.samples.set 0 { j with lanes := more } }
            ∧ (∀ k < 4, s2.vAt j.uid t (j.d + k) = toW (xs.getD k 0) ∧ s2.isEmpty j.uid t (j.d + k) = false)
            ∧ ∀ k, (∀ i < 4, k ≠ vkey j.uid t (j.d + i)) →
                NMap.get 0 s2.v k = NMap.get 0 s1.v k ∧ NMap.get false s2.empty k = NMap.get false s1.empty k)

/-- R200, R258 to R261: RAST, once every lane's record has passed the checks of an access (the lowest lane that fails traps), gives each lane the class of its triangle and queues those of class 1 at the rasteriser of the die; the
rasteriser draws its oldest triangle, and RAST.FLUSH gives 0 once the team's triangles before it are drawn. -/
def Rasterising : Prop :=
  (∀ (s : State) (d a : VReg) (pa : Bool) (b : UReg) (s1 : State) (bs : List Byte) (pre post : List Nat) (l : Nat) (tr : Trap),
    s.descCheck s.low (s.rup b.toNat) none = (s1, .ok bs) → s.iss.lanes = pre ++ l :: post → (∀ x ∈ pre, s.triCheck a x = none) →
    s.triCheck a l = some tr → exec (.rast d a pa b) s = raise tr s)
  ∧ (∀ (s : State) (d a : VReg) (pa : Bool) (b : UReg) (s1 s2 : State) (bs : List Byte) (rs : List (Nat × List Byte)),
    s.descCheck s.low (s.rup b.toNat) none = (s1, .ok bs) → (∀ l ∈ s.iss.lanes, s.triCheck a l = none) →
    s1.readTris a s.iss.lanes = (s2, .ok rs) → s.targetCheck bs = none → (rs.map (·.1)).Nodup →
      (let lim := (s.team s.iss.uid).area.toNat % 2 ^ 24
       let s3 := s2
       ∃ t, exec (.rast d a pa b) s = .next t
         ∧ t = { s3 with
             v := t.v,
             rasts := s3.rasts ++ (rs.filter fun x => rastClass x.2 lim == 1).map fun x =>
               ⟨s.iss.uid, coreDie (s.team s.iss.uid).core, (s.team s.iss.uid).core, (s.team s.iss.uid).slice, s.privL x.1, x.2, bs,
                 0, false⟩ }
         ∧ (∀ x ∈ rs, t.vAt s3.iss.uid (s3.tOf x.1) d.toNat = toW (rastClass x.2 lim))
         ∧ ∀ k, (∀ x ∈ rs, k ≠ vkey s3.iss.uid (s3.tOf x.1) d.toNat) → NMap.get 0 t.v k = NMap.get 0 s3.v k))
  ∧ (∀ (r : List Byte) (lim : Nat), rastClass r lim ≤ 3 ∧ (rastClass r lim = 3 ↔ triOf r = none)
      ∧ ∀ t, triOf r = some t → (t.cr = 0 ↔ rastClass r lim = 2) ∧ (rastClass r lim = 0 ↔ t.cr ≠ 0 ∧ t.cr.natAbs < 512 * lim))
  ∧ (∀ (s : State) (j : RastJob) (rest : List RastJob) (t : Tri) (s1 : State), s.rasts = j :: rest →
      (∀ x ∈ s.rasts, ¬ (x.uid = j.uid ∧ x.susp = true)) → triOf j.tri = some t →
      s.drawGo j t.orient ((t.orient.pixels j.target).drop j.pix) j.pix = (s1, none) → s1.GoesOn j.uid →
      (∀ x ∈ s1.rastFls, x.uid ≠ j.uid) →
        exec (.rasteriseTriangle j.die) s = .next { s1 with rasts := s1.rasts.eraseIdx 0 })
  ∧ ∀ (s : State) (d : VReg),
      let n := s.rasts.countP fun j => j.uid == s.iss.uid
      (n = 0 → LateOne s d (fun _ => 0) (exec (.rastFlush d) s))
      ∧ (n ≠ 0 → ∃ t, exec (.rastFlush d) s = .next t
          ∧ t = { s with rastFls := s.rastFls ++ [⟨s.iss.uid, s.iss.gang, s.iss.lanes, d.toNat, n⟩], empty := t.empty }
          ∧ Emptied s d.toNat 1 t)

/-- R52, R62, R64, R97, R107, R188, R352: a launch with nothing left, or one that was aborted, publishes its writes and, once no write to
another package that is its own, or no team's, is unanswered and no operation of an ended team of its slice waits for its line, ends; an
aborted one whose own such writes or operations are left ends later likewise; the flush point of a phase applies what was buffered and, once
every answer is there, begins the next phase. That writes of no team are awaited too is log 62. -/
def LaunchEnds : Prop :=
  (∀ (s : State) (l : Nat),
    let ln := s.launch l
    let ended : Prop := ln.live = true ∧ (ln.dying ≠ none ∨ (s.launchBusy l = false ∧ (ln.det = false ∨ 16 ≤ ln.phase)))
    let s1 := s.publishSlice ln.slice
    let waits : Prop := (∃ o ∈ s1.remote, readsOnly o.req.kind = false
        ∧ (o.launch = l ∨ (o.launch = 0 ∧ o.slice = s1.lead (s1.launch l).slice)))
      ∨ ∃ p ∈ s1.atoms ++ s1.scops, (s1.team p.uid).live = false ∧ s1.lead p.slice = s1.lead (s1.launch l).slice
    (¬ ended → exec (.launchEnd l) s = .next s)
    ∧ (ended → waits → exec (.launchEnd l) s = .next s1)
    ∧ (ended → ¬ waits → exec (.launchEnd l) s = .next (s1.finishLaunch l (ln.dying.getD ln.st) 0))
    ∧ ∀ st rs, ((s.finishLaunch l st rs).launch l).live = false)
  ∧ ∀ (s : State) (l : Nat),
      let ln := s.launch l
      let ended : Prop := ln.live = true ∧ ln.dying = none ∧ ln.det = true ∧ ln.phase < 16 ∧ s.phaseOver l = true
      let s1 := (s.publishSlice ln.slice).flushBufs fun b => b.launch == l
      (¬ ended → exec (.phaseFlushPoint l) s = .next s)
      ∧ (ended → (∃ b ∈ s1.bufops, b.launch = l) → exec (.phaseFlushPoint l) s = .next s1)
      ∧ (ended → (∀ b ∈ s1.bufops, b.launch ≠ l) → exec (.phaseFlushPoint l) s = .next (s1.nextPhase l))

/-- R65 to R69, R125, R350: a stopping team whose issue has stopped is first given the choice of R66 where it is pre-empted; when all
that R65 waits for has ended, its writes are published and it is flushed, saved at the place found for it, or, where neither can be,
kept for its faults, chosen for again, or left to run. The choice meets the bound at the least cost where a choice does; else it has
the least latency, but without room for a save it is to drain, with LATE set, only where no choice meets the bound. -/
def TeamStops : Prop :=
  (∀ (s : State) (u : Nat),
    let tm := s.team u
    let k := s.lead tm.slice
    let r := exec (.preemptionWaitEnd u) s
    (tm.stop = none → r = .next s)
    ∧ ∀ st, tm.stop = some st →
        (tm.live = false ∨ s.issueStopped u = false → r = .next s)
        ∧ (tm.live = true → s.issueStopped u = true →
          (st.reason = 1 → st.chosen = false → r = .next (s.decide k u st))
          ∧ (st.reason ≠ 1 ∨ st.chosen = true →
            let s1 := s.publish tm.core 7 u 0
            (s.opsStopped u = false → r = .next s)
            ∧ (s.opsStopped u = true → (∃ x ∈ s1.remote, x.uid = u) → r = .next s1)
            ∧ (s.opsStopped u = true → (∀ x ∈ s1.remote, x.uid ≠ u) →
              (st.flush = true → s1.flushFits u = true → r = .next ((s1.flushTeam u).maybeLate k u))
              ∧ (st.flush = true → s1.flushFits u = false → r = .next (s1.decide k u st))
              ∧ (st.flush = false → ∀ a, s1.saveRoom u = some a →
                  (st.reason ≠ 1 → r = .next (s1.saveTeam u a st))
                  ∧ (st.reason = 1 → r = .next ((s1.saveTeam u a st).maybeLate k u)))
              ∧ (st.flush = false → s1.saveRoom u = none →
                  (st.faults ≠ [] → r = .next (s1.keepTeam u st))
                  ∧ (st.faults = [] → st.reason = 1 → r = .next (s1.decide k u st))
                  ∧ (st.faults = [] → st.reason ≠ 1 → r = .next (s1.setTeam u { s1.team u with stop := none, drain := true })))))))
  ∧ ∀ (s : State) (k u bound n : Nat) (st : Stop),
      let c := s.choose u bound n
      let within (x : Nat × Option Nat × Nat) : Prop := ∃ y, x.2.1 = some y ∧ y ≤ bound * usec
      ((∃ x ∈ s.choices u n, within x) →
        c.2 = false ∧ ∃ x ∈ s.choices u n, x.1 = c.1 ∧ within x ∧ ∀ y ∈ s.choices u n, within y → x.2.2 ≤ y.2.2)
      ∧ ((∀ x ∈ s.choices u n, ¬ within x) →
        (s.saveRoom u = none → c = (0, true))
        ∧ (s.saveRoom u ≠ none → c.2 = false ∧ ∃ x ∈ s.choices u n, x.1 = c.1
            ∧ ∀ y ∈ s.choices u n, ∀ a, y.2.1 = some a → ∃ b, x.2.1 = some b ∧ b ≤ a))
      ∧ ((∃ x ∈ s.choices u n, x.1 = 1) ↔ s.saveRoom u ≠ none)
      ∧ ((∃ x ∈ s.choices u n, x.1 = 2) ↔ s.flushFits u = true)
      ∧ (let d := s.choose u st.bound st.n
         let w := s.decide k u st
         (d = (0, true) → w = (s.setLate k).setTeam u { s.team u with stop := none, drain := true })
         ∧ (d = (0, false) → w = s.setTeam u { s.team u with stop := none, drain := true })
         ∧ (d.1 ≠ 0 → w = s.setTeam u { s.team u with stop := some { st with flush := d.1 == 2, chosen := true } }))

/-- R17, R24, R85, R311, R338, R359, R365: what a write of a register of the device does. A value out of its range, or a change that the
device's state forbids, sets the register's ERR bit and nothing else; otherwise the fields are as written, error bits stay unless
written as 1, and what the write is to cause happens. A trigger counts SEQ and latches only while VALID is 0. The model's own: that RELAY 3
is refused also without EN (log 35), that the clock goes one step at a time (log 48), that ADDR stays when TRAV.NODEUE is cleared
(log 27), that queues and awaited answers pass to a new lead (log 70), and that a skew write waits for the team's accesses (log
13). -/
def DeviceRegisters : Prop :=
  ∀ (s : State) (v : BitVec 32), s.recovery = false →
    let x := v.toNat
    let keeps (old b : Nat) : Nat := if nbit old b = true ∧ nbit x b = false then 2 ^ b else 0
    let flag (b : Nat) : Nat := if nbit x b then 2 ^ b else 0
    (∀ d < 2,
      let old := s.sysr 0x10 d
      let bad : Prop := 32 < bits x 13 8 ∨ 32 < x % 64 ∨ (∃ e ∈ s.teams, e.2.live = true ∧ coreDie e.2.core = d) ∨ s.dieFlits d ≠ 0
      (bad → SetsSys s 0x10 d (withBit old 31) (exec (.dieCarveWrite d v) s))
      ∧ (¬ bad → (∀ c ∈ s.cistern, c.home / 32 ≠ d) → s.linesAt (192 + d) = [] →
          SetsSys s 0x10 d (keeps old 31 + bits x 13 8 * 2 ^ 8 + x % 64) (exec (.dieCarveWrite d v) s)))
    ∧ (let old := s.sysr 0x41 0
       let new := State.setSys s 0x41 0 (keeps old 31 + x % 128)
       let free (k : Nat) : Prop := nbit (s.sysr 0x22 (s.lead k)) 29 = true ∧ ∀ w ∈ s.saved, s.lead w.team.slice ≠ s.lead k
       ((∃ k < 8, s.members k ≠ new.members k ∧ ¬ free k) → SetsSys s 0x41 0 (withBit old 31) (exec (.sliceGroupWrite v) s))
       ∧ ((∀ k < 8, s.members k ≠ new.members k → free k) → ∃ t, exec (.sliceGroupWrite v) s = .next t
          ∧ t = { s with
              sys := t.sys, heads := t.heads, sendQ := s.sendQ.map fun q => { q with slice := new.lead q.slice },
              remote := s.remote.map fun r => { r with slice := new.lead r.slice } }
          ∧ SysIn s 0x41 0 (keeps old 31 + x % 128) t
          ∧ t.heads = s.heads.map fun e => (e.1, if e.1 < 8 ∧ s.members e.1 ≠ new.members e.1 then { e.2 with encRef := none } else e.2)))
    ∧ (let old := s.sysr 0x30 0
       let fields := x % 2 ^ 30 / 64
       let bad : Prop := bits x 7 6 = 3
         ∨ (nbit x 31 = true ∧ (bits x 29 26 = 0 ∨ bits x 19 14 < 4 ∨ 40 < bits x 19 14 ∨ bits x 13 8 < 10 ∨ 50 < bits x 13 8))
         ∨ (nbit old 31 = true ∧ fields ≠ old % 2 ^ 30 / 64)
       (bad → SetsSys s 0x30 0 (withBit old 30) (exec (.fabricCtlWrite v) s))
       ∧ (¬ bad → nbit x 31 = false ∨ nbit old 31 = true →
          SetsSys s 0x30 0 (flag 31 + keeps old 30 + fields * 64) (exec (.fabricCtlWrite v) s))
       ∧ (¬ bad → nbit x 31 = true → nbit old 31 = false →
          exec (.fabricCtlWrite v) s = .next (s.setSys 0x30 0 (flag 31 + keeps old 30 + fields * 64)).readCal))
    ∧ (let old := s.sysr 0x50 0
       let bad : Prop := x % 65536 < 500 ∨ 4000 < x % 65536
       (bad → SetsSys s 0x50 0 (withBit old 30) (exec (.powerCapWrite v) s))
       ∧ (¬ bad → SetsSys s 0x50 0 (flag 31 + keeps old 30 + x % 65536) (exec (.powerCapWrite v) s)))
    ∧ (∀ (u : Nat) (second : Bool), (s.team u).live = true →
        (s.scrBusy u = true → exec (.scrSkewWrite u second v) s = .next s)
        ∧ (s.scrBusy u = false → ∃ t, exec (.scrSkewWrite u second v) s = .next t ∧ t = { s with teams := t.teams }
            ∧ TeamIn s u (fun tm => if second then { tm with skew1 := toW (x / 128 * 128) } else { tm with skew0 := toW (x / 128 * 128) }) t))
    ∧ (∀ (core : Nat) (w : BitVec 64), core < 192 →
        (nbit w.toNat 63 = false → exec (.travNodeueClear core w) s = .next s)
        ∧ (nbit w.toNat 63 = true → ∃ t, exec (.travNodeueClear core w) s = .next t
            ∧ t = { s with sys := t.sys, nodeFences := s.nodeFences.filter fun f => f.1 != core }
            ∧ SysIn s 0x38 core (bits (s.sysr 0x38 core) 56 6 * 64) t))
    ∧ (let r := s.sysr 0x40 0
       let r1 := r - r % 2 ^ 16 + (r + 1) % 2 ^ 16
       (nbit r 28 = true → SetsSys s 0x40 0 r1 (exec .snapTrigger s))
       ∧ (nbit r 28 = false → ∃ t, exec .snapTrigger s = .next t
          ∧ t = { s with sys := t.sys, snap := t.snap, out := s.out ++ [Out.msix 8] } ∧ SysIn s 0x40 0 (r1 + 2 ^ 28) t
          ∧ ∀ k, k ≠ sreg 0x40 0 → NMap.find t.snap k = NMap.find s.sys k))
    ∧ (∀ (w : BitVec 16),
        let cap := s.sysr 0x50 0
        let f := bits (s.sysr 0x51 0) 23 16
        SetsSys s 0x51 0 ((if nbit cap 31 = true ∧ cap % 65536 < w.toNat then max 12 (f - 1) else min 36 (f + 1)) * 2 ^ 16 + w.toNat)
          (exec (.fstepAdjust w) s))
    ∧ ∀ (n i : Nat) (w : BitVec 64) (w64 : Bool) (k : Nat), n < 256 → i < 256 → sregInfo n = some (w64, k) →
        (n < 0x10 ∨ k ≤ i → exec (.sysregWrite (BitVec.ofNat 16 (n * 256 + i)) w) s = .next s)
        ∧ (0x10 ≤ n → i < k → exec (.sysregWrite (BitVec.ofNat 16 (n * 256 + i)) w) s
            = .next (s.writeSys n i (if w64 then w.toNat else w.toNat % 2 ^ 32)))

/-- R81, R83: an invalidation of a slice that is not busy with one sets BUSY and drops at once the translations of the slice that it names,
with the faults that the Sluice held back for copies of its teams; while BUSY is set another sets ERR; BUSY clears when no access that used a dropped translation is on its way. -/
def Invalidations : Prop :=
  ∀ (s : State) (k va : Nat), k < 8 → s.recovery = false → s.lead k = k →
    let r := s.sysr 0x29 k
    let page := bits va 56 12 * 4096
    let begins (x : Nat) (hit : Tlb → Prop) (i : Instr) : Prop :=
      (nbit r 63 = true → SetsSys s 0x29 k (withBit r 62) (exec i s))
      ∧ (nbit r 63 = false → ∃ t, exec i s = .next t
          ∧ t = { s with sys := t.sys, tlb := t.tlb, teams := t.teams, invals := s.invals ++ [(k, x)] } ∧ SysIn s 0x29 k (r + 2 ^ 63) t
          ∧ t.teams = s.teams.map (fun e => if s.lead e.2.slice = k then (e.1, { e.2 with chans := e.2.chans.map fun c =>
              (c.1, { c.2 with queue := c.2.queue.map fun (q : Copy) => { q with met := [] } }) }) else e)
          ∧ ∀ e, e ∈ t.tlb ↔ e ∈ s.tlb ∧ ¬ (e.slice = k ∧ hit e))
    begins (page + 1) (fun e => e.va ≤ page ∧ page < e.va + e.size) (.xlatInvalPage k va)
    ∧ begins 0 (fun _ => True) (.xlatInvalAll k)
    ∧ ((∀ i ∈ s.invals, i.1 ≠ k) → exec (.xlatInvalDone k) s = .next s)
    ∧ ∀ (x : Nat) (rest : List (Nat × Nat)), s.invals = (k, x) :: rest →
        (s.invalBusy k x = true → exec (.xlatInvalDone k) s = .next s)
        ∧ (s.invalBusy k x = false → nbit r 63 = true → ∃ t, exec (.xlatInvalDone k) s = .next t
            ∧ t = { s with sys := t.sys, invals := rest } ∧ SysIn s 0x29 k (r - 2 ^ 63) t)

/-- R312, R313, R315: a marker begins a rotation of its plane and takes the plane down where it is late; a slot that is dark, or of a plane
that is down or while the fabric is off, sends nothing; a frame from another source than the calendar's peer is discarded with its
messages and counted, and what was sent in that slot is treated as not sent: it stands at the heads of its queues and wells again; of
other frames the messages are received in order and, on a plane that is up, heads are relayed within the allowances published. -/
def FabricSlots : Prop :=
  (∀ (s : State) (p : Nat) (onTime : Bool) (f : Frame),
    let pl := s.plane p
    let slot := match pl.cur with | some k => k + 1 | none => 0
    let begun := s.setPlane p { pl with cur := some slot, left := 0, used := [], allow := [], sentQ := [], sentW := [], sentA := [] }
    (∃ t, exec (.slotMarker p onTime) s = .next t ∧ t = { s with planes := t.planes }
      ∧ t.plane p = { pl with up := onTime, cur := none, rot := pl.rot + 1, allow := [], sentQ := [], sentW := [], sentA := [] }
      ∧ ∀ k, k ≠ p → t.plane k = s.plane k)
    ∧ (s.nslot ≤ slot → exec (.slotStart p) s = .next s)
    ∧ (slot < s.nslot →
        (begun.fabOn = false ∨ pl.up = false ∨ begun.peer p slot = none → exec (.slotStart p) s = .next begun)
        ∧ ∀ d, begun.fabOn = true → pl.up = true → begun.peer p slot = some d →
            exec (.slotStart p) s = .next (begun.sendFrame p slot d))
    ∧ (pl.cur = none ∨ s.fabOn = false → exec (.slotFrameReceive p f) s = .next s)
    ∧ ∀ k, pl.cur = some k → s.fabOn = true →
        let got := f.msgs.foldl (fun s m => s.receive p m) s
        (s.peer p k ≠ some f.src → exec (.slotFrameReceive p f) s = .next ((s.countFab false).unsend p))
        ∧ (s.peer p k = some f.src → pl.up = false → exec (.slotFrameReceive p f) s = .next got)
        ∧ (s.peer p k = some f.src → pl.up = true →
            (bits (got.sysr 0x30 0) 7 6 = 0 → exec (.slotFrameReceive p f) s = .next got)
            ∧ exec (.slotFrameReceive p f) s = .next (got.relayAll p k f.src f.allow)))
  ∧ ∀ (s : State) (p : Nat), (∀ q ∈ (s.plane p).sentQ, q.coll = none) →
      let t := s.unsend p
      ∃ back, t.sendQ = back ++ s.sendQ ∧ t.wells = (s.plane p).sentW ++ s.wells
        ∧ back.map (fun q => (q.slice, q.msg)) = ((s.plane p).sentQ.filter s.live).map (fun q => (q.slice, q.msg))

/-- R314 to R319, R329: the frame of a slot. It goes to the calendar's peer and holds, in this order, relayed messages of the wells, in
their order of arrival, the acknowledgment and chunk refusals due, and the heads of the slices' queues for the peer, each queue's in
its order, the first from the first slice in turn that has one that fits; it holds no more flits than the slot, nor more of a slice's
than its cap, and when it is sent no head still fits. A head that is left is marked overrun. When a chunk has been placed it no longer
stands refused, and the next of its member is queued. That heads which go by relay join the frame later is log 36, and that a head
waits for a write-back of its place, or a request for its line, in another queue log 65. -/
def SentFrames : Prop :=
  (∀ (s : State) (p slot d : Nat), (∀ m ∈ s.pendRefs, m.len = 0) →
    let allow := s.allowances d
    let left := s.slotFlits - 1 - (allow.length + 15) / 16
    let ws := takeWells left (s.wells.filter fun w => w.msg.odst == d)
    let begun : State := { s.setPlane p { s.plane p with
        left := s.ownFlits (left - (ws.map fun w => msgFlits w.msg).sum), used := [], allow := allow, sentQ := [], sentW := ws, sentA := [] }
      with wells := ws.foldl (fun l w => l.erase w) s.wells }
    let s0 := ((begun.dueAcks d).take (begun.plane p).left).foldl (fun s m => s.placeAck p d m) begun
    let acks := (s0.plane p).sentA.map fun (m : Msg) => if m.typ = 4 then { m with off := 0 } else m
    (ws <+: s.wells.filter fun w => w.msg.odst == d)
    ∧ (∀ w rest, s.wells.filter (fun w => w.msg.odst == d) = ws ++ w :: rest → left < (ws.map fun w => msgFlits w.msg).sum + msgFlits w.msg)
    ∧ (∀ m ∈ acks, m.typ = 4 ∨ ∃ x ∈ s.pendRefs, x.odst = d ∧ m = { x with seq := m.seq })
    ∧ ∃ (s1 : State) (f : Frame) (took sent : List QMsg),
      s.sendFrame p slot d = s1.chunksPlaced sent ∧ s1.out = s.out ++ [Out.frame f]
      ∧ f.src = s.pkg ∧ f.dst = d ∧ f.slot = slot ∧ f.plane = p ∧ f.allow = allow
      ∧ f.msgs = ws.map (·.msg) ++ acks ++ sent.map (·.msg)
      ∧ (f.msgs.map msgFlits).sum ≤ left
      ∧ sent.map (fun q => (q.slice, { q.msg with seq := 0, relayed := false }))
          = took.map (fun q => (q.slice, { q.msg with seq := 0, relayed := false }))
      ∧ (∀ q ∈ sent, q.seqd = true ∧ q.msg.relayed = false)
      ∧ (∀ k, (took.filter fun q => q.slice == k) <+: s.sendQ.filter fun q => q.slice == k && q.msg.odst == d)
      ∧ (∀ k, ((sent.filter fun q => q.slice == k).map fun q => msgFlits q.msg).sum ≤ s.scap k)
      ∧ s0.sendQ = s.sendQ
      ∧ (let first (i : Nat) : Option QMsg := (s0.headOf ((slot % 8 + i) % 8) d).filter fun q => s0.fits p q false
         ∀ i < 8, (∀ j < i, first j = none) → ∀ q, first i = some q → took.head? = some q)
      ∧ ∀ k < 8, ∀ q, s1.headOf k d = some q → q.overrun = true
          ∧ (seqDist (NMap.get 0 s.txAck d) (NMap.get 0 s.txSeq d) ≤ 4096 → s1.fits p q false = false))
  ∧ ∀ (s : State) (id mid off : Nat) (c : Coll) (m : CMember),
      s.colls.find? (fun c => c.id == id) = some c → c.members.find? (fun m => m.id == mid) = some m →
      let s1 := s.setColl (c.setMember { m with
        queued := false, refused := m.refused.filter (· != off), out := m.out ++ [(off, m.refused.contains off)] })
      (∀ off' more, m.todo = off' :: more → s.chunkPlaced id mid off = s1.queueChunk id mid off')
      ∧ (m.todo = [] → m.next < m.total → s.chunkPlaced id mid off = s1.queueChunk id mid m.next)
      ∧ (m.todo = [] → m.total ≤ m.next → s.chunkPlaced id mid off = s1)

/-- R315, R316, R320, R321, R358: what becomes of a message received. One of a reserved form is counted and dropped; one for this package
that is FREE is taken in at once, one that is ORDERED in its turn of the sequence; one for another package is kept in the wells where
it is relayed within the allowance, which it uses up, and else counted and dropped. Heads are relayed within an allowance, and join the
slot's one frame (log 36). -/
def ReceivedMessages : Prop :=
  (∀ (s : State) (p : Nat) (m : Msg),
    let pl := s.plane p
    let granted := (pl.allow.map fun a => if a.1 = m.odst then a.2 else 0).sum
    let bad : Prop := m.rsv = true ∨ 4 < m.typ ∨ (m.typ = 0 ∧ m.req = none)
    (bad → s.receive p m = s.countFab true)
    ∧ (¬ bad → m.odst = s.pkg →
        (m.ordered = false → s.receive p m = s.takeIn m)
        ∧ (m.ordered = true → m.seq = NMap.get 0 s.rxNext m.osrc → m.len < 4096 → m.seq < 2 ^ 32 → s.rxHeld = [] →
            ∃ t, s.receive p m = t
              ∧ t = State.takeIn { s with rxNext := NMap.put s.rxNext m.osrc ((m.seq + m.len + 1) % 2 ^ 32) } m))
    ∧ (¬ bad → m.odst ≠ s.pkg → m.relayed = true → msgFlits m ≤ granted →
        ∃ t w, s.receive p m = t ∧ t = { s with wells := s.wells ++ [w], planes := t.planes } ∧ w.msg = m
          ∧ t.plane p = { pl with allow := pl.allow.map fun a => if a.1 = m.odst then (a.1, a.2 - msgFlits m) else a })
    ∧ (¬ bad → m.odst ≠ s.pkg → m.relayed = false ∨ granted < msgFlits m → s.receive p m = s.countFab true))
  ∧ (∀ (s : State) (m : Msg),
      (m.typ = 0 → s.takeIn m = { s with inReqs := s.inReqs ++ [m] })
      ∧ (m.typ = 1 → s.takeIn m = { s with inResps := s.inResps ++ [m] })
      ∧ (m.typ = 2 → m.req ≠ none → s.takeIn m = { s with inRefs := s.inRefs ++ [m] })
      ∧ (m.typ = 2 → m.req = none → s.takeIn m = { s with inCRefs := s.inCRefs ++ [m] })
      ∧ (m.typ = 3 → s.takeIn m = { s with inChunks := s.inChunks ++ [m] })
      ∧ (m.typ = 4 → s.takeIn m = { s with inAcks := s.inAcks ++ [m] }))
  ∧ (∀ (s : State) (p x fuel a : Nat) (ks : List Nat),
      let t := State.relayTo p x fuel a ks s
      ∃ sent, (t.plane p).sentQ = (s.plane p).sentQ ++ sent ∧ (sent.map fun q => msgFlits q.msg).sum ≤ a
        ∧ ∀ q ∈ sent, q.msg.odst = x ∧ q.msg.relayed = true ∧ q.seqd = true)
  ∧ ∀ (q : Out → Bool) (ms : List Msg) (pre post : List Out) (f : Frame), q (.frame f) = true → (∀ o ∈ post, q o = false) →
      extendFrame q ms (pre ++ Out.frame f :: post) = pre ++ Out.frame { f with msgs := f.msgs ++ ms } :: post

end Sys2Proof.Machine.Claims

section

open Sys2Proof Sys2Proof.Machine

/-- R149: the twelve integer operations, without and with `.cc`. In each active lane register d receives r mod 2^32, with r
the exact integer of the rule's table and cin the carry of c0, or of the set that a `.cc` form names. Nothing else changes
but, in a `.cc` form, that set (O2). -/
def Obligations.IntegerResults : Prop :=
  ∀ (s : State) (d a b : VReg) (pa pb : Bool) (c : BitVec 2),
    let x (l : Nat) : Int := (s.rv l a.toNat).toNat
    let y (l : Nat) : Int := (s.rv l b.toNat).toNat
    let sx (l : Nat) : Int := (s.rv l a.toNat).toInt
    let sy (l : Nat) : Int := (s.rv l b.toNat).toInt
    let cin (k l : Nat) : Int := (ccC (s.rcc l k)).toNat
    let sets (r : Nat → Int) (i j : Instr) : Prop :=
      Puts1 s d (fun l => BitVec.ofInt 32 (r l)) (exec i s) ∧
        ∃ g, PutsCc s d c (fun l => BitVec.ofInt 32 (r l)) g (exec j s)
    sets (fun l => x l + y l) (.iadd d a b pa pb) (.iaddCc c d a b pa pb)
    ∧ sets (fun l => x l - y l) (.isub d a b pa pb) (.isubCc c d a b pa pb)
    ∧ Puts1 s d (fun l => BitVec.ofInt 32 (x l + y l + cin 0 l)) (exec (.iaddx d a b pa pb) s)
    ∧ (∃ g, PutsCc s d c (fun l => BitVec.ofInt 32 (x l + y l + cin c.toNat l)) g (exec (.iaddxCc c d a b pa pb) s))
    ∧ Puts1 s d (fun l => BitVec.ofInt 32 (x l - y l - (1 - cin 0 l))) (exec (.isubx d a b pa pb) s)
    ∧ (∃ g, PutsCc s d c (fun l => BitVec.ofInt 32 (x l - y l - (1 - cin c.toNat l))) g (exec (.isubxCc c d a b pa pb) s))
    ∧ sets (fun l => sx l * sy l) (.imul d a b pa pb) (.imulCc c d a b pa pb)
    ∧ sets (fun l => sx l * sy l / 2 ^ 32) (.imulhI32 d a b pa pb) (.imulhI32Cc c d a b pa pb)
    ∧ sets (fun l => x l * y l / 2 ^ 32) (.imulhN32 d a b pa pb) (.imulhN32Cc c d a b pa pb)
    ∧ sets (fun l => min (sx l) (sy l)) (.iminI32 d a b pa pb) (.iminI32Cc c d a b pa pb)
    ∧ sets (fun l => min (x l) (y l)) (.iminN32 d a b pa pb) (.iminN32Cc c d a b pa pb)
    ∧ sets (fun l => max (sx l) (sy l)) (.imaxI32 d a b pa pb) (.imaxI32Cc c d a b pa pb)
    ∧ sets (fun l => max (x l) (y l)) (.imaxN32 d a b pa pb) (.imaxN32Cc c d a b pa pb)
    ∧ sets (fun l => max (-2 ^ 31) (min (2 ^ 31 - 1) (sx l + sy l))) (.iaddsI32 d a b pa pb) (.iaddsI32Cc c d a b pa pb)

/-- R150: the four bits of the set that a `.cc` form writes. Z and S come from the result; C and V as the rule's table says. -/
def Obligations.IntegerFlags : Prop :=
  ∀ (s : State) (d a b : VReg) (pa pb : Bool) (c : BitVec 2),
    let x (l : Nat) : Int := (s.rv l a.toNat).toNat
    let y (l : Nat) : Int := (s.rv l b.toNat).toNat
    let sx (l : Nat) : Int := (s.rv l a.toNat).toInt
    let sy (l : Nat) : Int := (s.rv l b.toNat).toInt
    let cin (l : Nat) : Int := (ccC (s.rcc l c.toNat)).toNat
    let out (r : Int) : Prop := r < -2 ^ 31 ∨ 2 ^ 31 ≤ r
    let sets (i : Instr) (carry ovf : Nat → Prop) : Prop :=
      ∃ f g, PutsCc s d c f g (exec i s) ∧ ∀ l ∈ s.iss.lanes,
        (ccZ (g l) = true ↔ f l = 0) ∧ ccS (g l) = (f l).msb ∧ (ccC (g l) = true ↔ carry l) ∧ (ccV (g l) = true ↔ ovf l)
    sets (.iaddCc c d a b pa pb) (fun l => 2 ^ 32 ≤ x l + y l) (fun l => out (sx l + sy l))
    ∧ sets (.iaddxCc c d a b pa pb) (fun l => 2 ^ 32 ≤ x l + y l + cin l) (fun l => out (sx l + sy l + cin l))
    ∧ sets (.isubCc c d a b pa pb) (fun l => y l ≤ x l) (fun l => out (sx l - sy l))
    ∧ sets (.isubxCc c d a b pa pb) (fun l => y l + (1 - cin l) ≤ x l) (fun l => out (sx l - sy l - (1 - cin l)))
    ∧ sets (.imulCc c d a b pa pb) (fun l => 2 ^ 32 ≤ x l * y l) (fun l => out (sx l * sy l))
    ∧ sets (.iaddsI32Cc c d a b pa pb) (fun _ => False) (fun l => out (sx l + sy l))
    ∧ sets (.imulhI32Cc c d a b pa pb) (fun _ => False) (fun _ => False)
    ∧ sets (.imulhN32Cc c d a b pa pb) (fun _ => False) (fun _ => False)
    ∧ sets (.iminI32Cc c d a b pa pb) (fun _ => False) (fun _ => False)
    ∧ sets (.iminN32Cc c d a b pa pb) (fun _ => False) (fun _ => False)
    ∧ sets (.imaxI32Cc c d a b pa pb) (fun _ => False) (fun _ => False)
    ∧ sets (.imaxN32Cc c d a b pa pb) (fun _ => False) (fun _ => False)
    ∧ ∃ g, OnlyCc s c g (exec (.icmp c a b pa pb) s) ∧ ∀ l ∈ s.iss.lanes,
        (ccZ (g l) = true ↔ x l = y l) ∧ ccS (g l) = (BitVec.ofInt 32 (x l - y l)).msb
        ∧ (ccC (g l) = true ↔ y l ≤ x l) ∧ (ccV (g l) = true ↔ out (sx l - sy l))

/-- R152: 64-bit sums and differences of pairs, and ADDR's sum of a pair and a signed word; no condition code changes. A form whose D
or A, or in IADD64 and ISUB64 whose B, is odd is not well formed. -/
def Obligations.PairResults : Prop :=
  (∀ (N : Nat) (d a b : VReg) (pa pb : Bool),
    let even (r : VReg) : Prop := r.toNat % 2 = 0
    ((Instr.iadd64 d a b pa pb).wf N = true → even d ∧ even a ∧ even b)
    ∧ ((Instr.isub64 d a b pa pb).wf N = true → even d ∧ even a ∧ even b)
    ∧ ((Instr.addr d a b pa pb).wf N = true → even d ∧ even a))
  ∧ ∀ (s : State) (d a b : VReg) (pa pb : Bool), d.toNat % 2 = 0 →
    Puts2 s d (fun l => (s.rp l a.toNat + s.rp l b.toNat) % 2 ^ 64) (exec (.iadd64 d a b pa pb) s)
    ∧ Puts2 s d (fun l => (((s.rp l a.toNat : Int) - s.rp l b.toNat) % 2 ^ 64).toNat) (exec (.isub64 d a b pa pb) s)
    ∧ Puts2 s d (fun l => (((s.rp l a.toNat : Int) + (s.rv l b.toNat).toInt) % 2 ^ 64).toNat) (exec (.addr d a b pa pb) s)

/-- R154: the immediate forms, with i := SExt(IMM, 12). Nothing but register d of the active lanes changes. A word of SHLI or SHRI
with a bit of IMM[11:5], or of MOVI with a bit of A, is refused with the error that raises ILLEGAL_FIELD. -/
def Obligations.ImmediateResults : Prop :=
  (∀ (s : State) (d a : VReg) (imm : BitVec 12) (n : BitVec 5),
    let x (l : Nat) : Word := s.rv l a.toNat
    let i : Int := sext imm.toNat 12
    Puts1 s d (fun l => BitVec.ofInt 32 ((x l).toNat + i)) (exec (.iaddi d a imm) s)
    ∧ Puts1 s d (fun l => x l &&& BitVec.ofInt 32 i) (exec (.andi d a imm) s)
    ∧ Puts1 s d (fun l => x l ||| BitVec.ofInt 32 i) (exec (.ori d a imm) s)
    ∧ Puts1 s d (fun l => x l ^^^ BitVec.ofInt 32 i) (exec (.xori d a imm) s)
    ∧ Puts1 s d (fun l => BitVec.ofNat 32 ((x l).toNat * 2 ^ n.toNat)) (exec (.shli d a n) s)
    ∧ Puts1 s d (fun l => BitVec.ofNat 32 ((x l).toNat / 2 ^ n.toNat)) (exec (.shri d a n) s)
    ∧ Puts1 s d (fun _ => BitVec.ofInt 32 i) (exec (.movi d imm) s))
  ∧ ∀ w o : BitVec 32,
      let major := w.toNat / 2 ^ 24 % 128
      ((major = 0x14 ∨ major = 0x15) → w.toNat / 2 ^ 5 % 2 ^ 7 ≠ 0 → decode w o = .error .badField)
      ∧ (major = 0x16 → w.toNat / 2 ^ 12 % 2 ^ 6 ≠ 0 → decode w o = .error .badField)

/-- Conditions after ICMP, and the logic, shift and bit-field operations: the parts below, each as its own comment says. -/
def Obligations.ComparisonsAndLogic : Prop :=
  Claims.ConditionsCompare
  ∧ Claims.LogicResults

/-- Floating-point results in every rounding mode, and NaN sources: the parts below, each as its own comment says. -/
def Obligations.FloatResults : Prop :=
  Claims.FloatResults
  ∧ Claims.NanSources

/-- R157 and R147: a special function marks its destination empty at the issue and its result arrives later; the result is that
of the source after the flush of FTZ32, flushed again. The Specials column gives the results at zeros, infinities, negative numbers,
1 in LOG2 and integers in EXP2; a NaN gives the canonical one. Division by zero, by an infinity and of both kinds is IEEE 754's.
The value of a special function is the model's, correctly rounded up to the last precision it tries (log 52). -/
def Obligations.SpecialFunctions : Prop :=
  (let nan : Nat := 0x7FC00000
  let zero (n : Bool) : Nat := if n then 0x80000000 else 0
  let inf (n : Bool) : Nat := if n then 0xFF800000 else 0x7F800000
  let one (n : Bool) : Nat := if n then 0xBF800000 else 0x3F800000
  (∀ f ∈ [rcpV, rsqrtV, sqrtV, exp2V, log2V, sinV, cosV, tanhV], f .nan = nan)
  ∧ (∀ (n : Bool) (e : Int),
      rcpV (.fin n 0 e) = inf n ∧ rcpV (.inf n) = zero n
      ∧ rsqrtV (.fin n 0 e) = inf n ∧ rsqrtV (.inf n) = (if n then nan else 0)
      ∧ sqrtV (.fin n 0 e) = zero n ∧ sqrtV (.inf n) = (if n then nan else inf false)
      ∧ exp2V (.fin n 0 e) = one false ∧ exp2V (.inf n) = (if n then 0 else inf false)
      ∧ log2V (.fin n 0 e) = inf true ∧ log2V (.inf n) = (if n then nan else inf false)
      ∧ sinV (.fin n 0 e) = zero n ∧ sinV (.inf n) = nan
      ∧ cosV (.fin n 0 e) = one false ∧ cosV (.inf n) = nan
      ∧ tanhV (.fin n 0 e) = zero n ∧ tanhV (.inf n) = one n)
  ∧ (∀ (m : Nat) (e : Int), 0 < m →
      rsqrtV (.fin true m e) = nan ∧ sqrtV (.fin true m e) = nan ∧ log2V (.fin true m e) = nan)
  ∧ log2V (decodeF f32 0x3F800000) = 0
  ∧ (∀ k : Int, -149 ≤ k → k ≤ 127 → exp2V (.fin (decide (k < 0)) k.natAbs 0)
      = (if k < -126 then 2 ^ (k + 149).toNat else (k + 127).toNat * 2 ^ 23))
  ∧ ∀ ftz n n', fDiv f32 ftz (zero n) (zero n') = nan ∧ fDiv f32 ftz (inf n) (inf n') = nan
      ∧ fDiv f32 ftz (one n) (zero n') = inf (n != n') ∧ fDiv f32 ftz (one n) (inf n') = zero (n != n'))
  ∧ ∀ (s : State) (d a b : VReg) (pa pb : Bool),
    let res (f : FVal → Nat) (l : Nat) : Word := toW (flushF f32 s.ftz32 (f (srcF f32 s.ftz32 (s.rv l a.toNat).toNat)))
    LateOne s d (res rcpV) (exec (.rcpF32 d a pa) s)
    ∧ LateOne s d (res rsqrtV) (exec (.rsqrtF32 d a pa) s)
    ∧ LateOne s d (res sqrtV) (exec (.sqrtF32 d a pa) s)
    ∧ LateOne s d (res exp2V) (exec (.exp2F32 d a pa) s)
    ∧ LateOne s d (res log2V) (exec (.log2F32 d a pa) s)
    ∧ LateOne s d (res sinV) (exec (.sinF32 d a pa) s)
    ∧ LateOne s d (res cosV) (exec (.cosF32 d a pa) s)
    ∧ LateOne s d (res tanhV) (exec (.tanhF32 d a pa) s)
    ∧ LateOne s d (fun l => toW (fDiv f32 s.ftz32 (s.rv l a.toNat).toNat (s.rv l b.toNat).toNat)) (exec (.fdivF32 d a b pa pb) s)

/-- FCMP, CVT, PACK, UNPACK and SEL: the parts below, each as its own comment says. -/
def Obligations.FloatComparesAndConversions : Prop :=
  Claims.FloatCompare
  ∧ Claims.Conversions

/-- LANE, POLL, FOLD and SCAN over the active lanes: the parts below, each as its own comment says. -/
def Obligations.LaneExchange : Prop :=
  Claims.LaneMoves
  ∧ Claims.PollsAndFolds

/-- BSORT sorts, INTERSECT matches, PRUNE keeps the greatest: the parts below, each as its own comment says. -/
def Obligations.BlockOperations : Prop :=
  Claims.BlockSort
  ∧ Claims.Intersection
  ∧ Claims.Pruning

/-- R173 and R174: VTOS takes the lowest active lane's value, STOV gives every active lane the uniform one, and the uniform
operations act once on the issuing gang's registers. -/
def Obligations.UniformOperations : Prop :=
  (∀ (s : State) (d a : UReg) (v : VReg) (pa : Bool),
    PutsU s d (s.rv s.low v.toNat) (exec (.vtos d v pa) s)
    ∧ Puts1 s v (fun _ => s.ru a.toNat) (exec (.stov v a) s))
  ∧ ∀ (s : State) (d a b : UReg) (imm : BitVec 9),
    let x := (s.ru a.toNat).toNat
    let op (f : Nat → Nat → Int) (i j : Instr) : Prop :=
      PutsU s d (BitVec.ofInt 32 (f x (s.ru b.toNat).toNat)) (exec i s)
      ∧ PutsU s d (BitVec.ofInt 32 (f x (BitVec.ofInt 32 (sext imm.toNat 9)).toNat)) (exec j s)
    op (fun x o => (x : Int) + o) (.uadd d a b) (.uaddImm d a imm)
    ∧ op (fun x o => (x : Int) - o) (.usub d a b) (.usubImm d a imm)
    ∧ op (fun x o => (x &&& o : Nat)) (.uand d a b) (.uandImm d a imm)
    ∧ op (fun x o => (x ||| o : Nat)) (.uor d a b) (.uorImm d a imm)
    ∧ op (fun x o => (x ^^^ o : Nat)) (.uxor d a b) (.uxorImm d a imm)
    ∧ op (fun x o => (x * 2 ^ (o % 64) : Nat)) (.ushl d a b) (.ushlImm d a imm)
    ∧ op (fun x o => (x / 2 ^ (o % 64) : Nat)) (.ushr d a b) (.ushrImm d a imm)
    ∧ PutsU s d (s.ru b.toNat) (exec (.umov d b) s)
    ∧ PutsU s d (BitVec.ofInt 32 (sext imm.toNat 9)) (exec (.umovImm d imm) s)

/-- Packet indices, branches and indirect transfers: the parts below, each as its own comment says. -/
def Obligations.ControlTransfers : Prop :=
  Claims.PacketIndices
  ∧ Claims.Branches
  ∧ Claims.IndirectTransfers

/-- Meeting addresses and the release of the threads held at them: the parts below, each as its own comment says. -/
def Obligations.Meetings : Prop :=
  Claims.MeetingAddresses
  ∧ Claims.MeetingRelease

/-- SPRD, NOP, ELECT and YIELD: the parts below, each as its own comment says. -/
def Obligations.SpecialRegistersAndSmallControl : Prop :=
  Claims.SpecialRegisters
  ∧ Claims.SmallControl

/-- R182 and R42: EXIT ends the active threads and no other; with no thread left and no operation under way the team ends. (At every
barrier of the team nothing has arrived, so that no barrier completes by the exit.) -/
def Obligations.Exits : Prop :=
  ∀ (s : State), (∀ b < 16, (s.bar s.iss.uid b).arrived = []) →
    let u := s.iss.uid
    ((∃ x ∈ s.liveThreads u, ∀ l ∈ s.iss.lanes, x ≠ s.tOf l) →
      ∃ t, exec .exit s = .next t ∧ t = { s with threads := t.threads }
        ∧ (∀ l ∈ s.iss.lanes, (t.thr u (s.tOf l)).exited = true)
        ∧ ∀ k, (∀ l ∈ s.iss.lanes, k ≠ tkey u (s.tOf l)) →
            let th := NMap.get {} t.threads k
            let th0 := NMap.get {} s.threads k
            th = { th0 with wait := th.wait, frag := th.frag, stamp := th.stamp })
    ∧ ((s.team u).live = true → (∀ x ∈ s.liveThreads u, ∃ l ∈ s.iss.lanes, x = s.tOf l) → s.engineBusy u = false →
        (s.team u).open_ = [] → (s.team u).stop = none →
        ∃ t, exec .exit s = .next t ∧ (t.team u).live = false)

/-- Taking a trap on the team-handler route and on the host route: the parts below, each as its own comment says.
That FMT_DIVERGE counts as its trap is taken is log 23. -/
def Obligations.TrapEntry : Prop :=
  Claims.TrapDetailFields
  ∧ Claims.HandlerEntry
  ∧ Claims.HostRouteEntry

/-- R196, R349 and R354: ERET of privileged threads leaves handler mode and goes to TRAP.EPC, and a thread that the fault found waiting
at a barrier or PHASE, and whose TRAP.EPC is still the position it was given, waits on, or departs if the phase has completed
meanwhile; an unprivileged thread raises ACCESS, and a TRAP.EPC that is no position raises ALIGN. (No deferred LD of the gang is there
to be replayed. That a privileged thread outside handler mode also goes to its TRAP.EPC is the model's reading, log 21.) -/
def Obligations.ReturnFromHandler : Prop :=
  ∀ (s : State),
    let u := s.iss.uid
    let epc (l : Nat) : Nat := (s.thr u (s.tOf l)).epc.toNat
    let priv (l : Nat) : Prop := (s.team u).priv = true ∨ (s.thr u (s.tOf l)).handler = true
    let posOk (l : Nat) : Prop := packetAddr (epc l / 4 * 4) = true ∧ epc l % 4 ≠ 3
    let out (th : Thread) : Thread := { th with
      handler := false, hrun := none, hback := none,
      mrun := match th.mrun with | some r => if r.at_ = th.epc.toNat % 2 ^ 57 then some r else none | none => none }
    let goes (th : Thread) : Thread :=
      let p := th.epc.toNat % 2 ^ 57
      { out th with pos := p, wait := if p ≠ 0 ∧ p = th.meet then .held else .none }
    let stays (th : Thread) : Thread := match th.hback with
      | none => goes th
      | some b =>
        if b.wait = .held ∨ b.next ≠ th.epc.toNat % 2 ^ 57 then goes th
        else match b.wait with
          | .departed _ _ => { goes th with next := b.next }
          | .none => if th.mwait = .none then { goes th with next := b.next }
            else { out th with pos := b.pos, next := b.next, wait := .none }
          | w => { out th with pos := b.pos, next := b.next, wait := w }
    ((∀ l ∈ s.iss.lanes, l < 32 ∧ priv l ∧ posOk l) → s.iss.lanes.Nodup → s.logs u s.iss.gang = [] →
      ∃ t, exec .eret s = .next t
        ∧ t = { s with v := t.v, threads := t.threads, iss := { s.iss with moved := s.iss.moved ++ s.iss.lanes } }
        ∧ ThreadsIn s s.iss.lanes (fun _ th => stays th) t
        ∧ ((∀ l ∈ s.iss.lanes, (s.thr u (s.tOf l)).hback = none) → t.v = s.v)
        ∧ ∀ l b d w, s.iss.lanes = [l] → (s.thr u (s.tOf l)).hback = some b → b.wait = .departed d w → b.next = epc l % 2 ^ 57 →
            t.v = NMap.put s.v (vkey u (s.tOf l) d) w)
    ∧ ∀ pre l post, s.iss.lanes = pre ++ l :: post → (∀ k ∈ pre, priv k) →
        (¬ priv l → exec .eret s = raise { cause := .access, lane := l } s)
        ∧ ((∀ k ∈ l :: post, priv k) → (∀ k ∈ pre, posOk k) → ¬ posOk l →
            exec .eret s = raise { cause := .align, lane := l, addr := epc l % 2 ^ 57 } s)

/-- Unassigned words raise ILLEGAL_OP, broken fields ILLEGAL_FIELD; MCALL starts a macro: the parts below, each as its own comment says.
CHECK 3 of both causes is log 10. -/
def Obligations.UnassignedWordsAndMacroCalls : Prop :=
  Claims.UnassignedWords
  ∧ Claims.MacroCalls

/-- Barrier arrivals, the completion of a phase, and PHASE: the parts below, each as its own comment says. -/
def Obligations.BarriersAndPhases : Prop :=
  Claims.BarrierArrivals
  ∧ Claims.BarrierCompletion
  ∧ Claims.PhaseWait

/-- R197, R344 and R345: RDSYS writes the register's value, of its width, to every active lane. A thread register outside handler mode
raises ACCESS; team registers read as they stand; an unprivileged thread reads zero from a privileged register and its write changes
nothing.
Which registers read alike in both views, and WRITE of the trap, are log 13. -/
def Obligations.SystemRegisterAccess : Prop :=
  ∀ (s : State) (d a : VReg) (pa w64 : Bool) (sreg : BitVec 16),
    let u := s.iss.uid
    let n := sreg.toNat / 256
    let tm := s.team u
    let th (l : Nat) := s.thr u (s.tOf l)
    let mine : Prop := n < 0x08 ∨ 0x0A < n ∨ ∀ l ∈ s.iss.lanes, (th l).handler = true
    let priv (l : Nat) : Prop := tm.priv = true ∨ (th l).handler = true
    (mine → d.toNat % 2 = 0 →
      ∃ x : Nat → Nat,
        (if w64 then Puts2 s d x (exec (.rdsys d w64 sreg) s) else Puts1 s d (fun l => toW (x l)) (exec (.rdsys d w64 sreg) s))
        ∧ ∀ l ∈ s.iss.lanes,
            (n = 0x01 → x l = tm.status.toNat) ∧ (n = 0x02 → x l = tm.fpctl.toNat) ∧ (n = 0x03 → x l = tm.skew0.toNat)
            ∧ (n = 0x04 → x l = tm.skew1.toNat) ∧ (n = 0x05 → x l = tm.area.toNat) ∧ (n = 0x06 → x l = tm.lcoord.toNat)
            ∧ (n = 0x08 → x l = (th l).epc.toNat) ∧ (n = 0x09 → x l = (th l).detail.toNat)
            ∧ (n = 0x0A → x l = (th l).taddr.toNat)
            ∧ (¬ priv l → 0x10 ≤ n → n ∉ [0x10, 0x38, 0x48, 0x49, 0x4A, 0x4B, 0x4C] → x l = 0))
    ∧ ((∀ l ∈ s.iss.lanes, ¬ priv l) → 0x10 ≤ n → exec (.wrsys a pa w64 sreg) s = .next s)
    ∧ (∀ pre l, s.iss.lanes = pre ++ [l] →
        (sreg = 0x0200 → ∃ t, exec (.wrsys a pa false sreg) s = .next t ∧ t = { s with teams := t.teams }
          ∧ TeamIn s u (fun tm => { tm with fpctl := BitVec.ofNat 32 ((s.rv l a.toNat).toNat % 4) }) t)
        ∧ (sreg = 0x0500 → ∃ t, exec (.wrsys a pa false sreg) s = .next t ∧ t = { s with teams := t.teams }
          ∧ TeamIn s u (fun tm => { tm with area := BitVec.ofNat 32 ((s.rv l a.toNat).toNat % 2 ^ 24) }) t))
    ∧ (sreg = 0x0800 → s.iss.lanes.Nodup → (∀ l ∈ s.iss.lanes, (th l).handler = true) →
        ∃ t, exec (.wrsys a pa true sreg) s = .next t ∧ t = { s with threads := t.threads }
          ∧ ThreadsIn s s.iss.lanes (fun l th => { th with epc := BitVec.ofNat 64 (s.rp l a.toNat % 2 ^ 57) }) t)
    ∧ ∀ pre l post, s.iss.lanes = pre ++ l :: post → (∀ k ∈ pre, (th k).handler = true) → (th l).handler = false →
        0x08 ≤ n → n ≤ 0x0A →
        exec (.rdsys d w64 sreg) s = raise { cause := .access, lane := l } s
        ∧ exec (.wrsys a pa w64 sreg) s = raise { cause := .access, lane := l, write := true } s

/-- R207, R209 and R64: before an operation of a gang, what the gang has pending on the lines that the operation meets, and every SC
operation and ACQ, is performed: the additions to the Cistern first and then the operations in their order, as the events that perform
them would. That the values of its plain loads of those lines are then settled as its issue or a later look found them is log 17, and
that the additions go first is the model's own order. An access meets its own lines, and between a local and a domain-global address
any; an edge meets all. A memory instruction of the gang starts from the state after it, as each one's own statement says. An operation
on a domain-global line that no copy serves yet (R366) asks for the line, and it and those after it stay; such a gang issues no memory
instruction. -/
def Obligations.PendingFirst : Prop :=
  (∀ (s : State) (u g : Nat) (hit : Nat → Bool),
    let mine (p : Pend) : Bool := p.uid == u && p.t / 32 == g && (p.ordered || hit (lineOf p.tr p.va))
    let add (q : CisAdd) : Bool := q.uid == u && q.t / 32 == g && hit (q.pa / 64)
    let load (f : Fill) : Bool := f.uid == u && (if f.uni then f.t == g else f.t / 32 == g)
      && match f.src with | some l => hit (lineOf l.tr l.va) | none => false
    let s1 := (s.cisAdds.filter add).foldl State.cisArrive { s with cisAdds := s.cisAdds.filter fun q => !add q }
    let ps := s1.atoms.filter mine ++ s1.scops.filter mine
    let s2 := { s1 with
      atoms := s1.atoms.filter (fun p => !mine p), scops := s1.scops.filter (fun p => !mine p),
      loads := s1.loads.map fun (f : Fill) => if load f then { f with src := none } else f }
    let does (s : State) (p : Pend) : State := (s.ready p).perform p
    let d := s.drainHit u g hit
    d.iss = s.iss
    ∧ ((∀ pre p post, ps = pre ++ p :: post → ((pre.foldl does s2).ready p).blocked p = false) →
        d = ps.foldl does s2 ∧ (∀ p ∈ d.atoms ++ d.scops, mine p = false) ∧ ∀ q ∈ d.cisAdds, add q = false)
    ∧ (∀ p rest, ps = p :: rest → (s2.ready p).blocked p = true →
        let s3 := (s2.ready p).fetchLine p
        d = { s3 with atoms := ps.filter (fun p => !p.ordered) ++ s3.atoms, scops := ps.filter Pend.ordered ++ s3.scops })
    ∧ (∀ p, s.atoms = [p] → mine p = true → s.scops.all (fun p => !mine p) = true → s.cisAdds.all (fun q => !add q) = true →
        s.loads.all (fun f => !load f) = true → exec (.atomicPerform 0) s = .next d)
    ∧ ∀ q, s.cisAdds = [q] → add q = true → (s.atoms ++ s.scops).all (fun p => !mine p) = true →
        s.loads.all (fun f => !load f) = true → exec (.cisternAddition 0) s = .next d)
  ∧ ∀ s : State, s.drain = s.drainHit s.iss.uid s.iss.gang (fun _ => true)
    ∧ ∀ l, s.drainFor l = s.drainHit s.iss.uid s.iss.gang fun line =>
        l.any fun x => lineOf x.2.2 x.2.1 == line || isDline (lineOf x.2.2 x.2.1) != isDline line

/-- EMIT, SPAWN, JOIN and FINISH, and the arrival of what they send: the parts below, each as its own comment says.
That a record takes the lowest free slot is the model's choice (log 22), and that record edges publish at package scope log 19. -/
def Obligations.Records : Prop :=
  Claims.RecordEmission
  ∧ Claims.RecordJoins
  ∧ Claims.RecordArrivals

/-- R200: the checks of an access are made in the rule's order, lane by lane; the lowest failing lane and its first failing check make
the trap, and then no lane of a store, a uniform access, an atomic, a reduction, an AMAX, an SC operation or a REL performs anything. -/
def Obligations.AccessChecks : Prop :=
  (∀ (s : State) (u t : Nat) (k : Acc) (size va : Nat),
    (va % size ≠ 0 → s.checkAt u t k size va = .error (.align, 1))
    ∧ (va % size = 0 → nbit va 63 = true → s.checkAt u t k size va = .ok none)
    ∧ (va % size = 0 → nbit va 63 = false → canonical va = false → s.checkAt u t k size va = .error (.access, 2))
    ∧ (va % size = 0 → canonical va = true → ∀ e,
        s.xlat (s.team u).core (s.team u).slice (s.privOf u t) false k va = .ok e → s.checkAt u t k size va = .ok (some e))
    ∧ (va % size = 0 → canonical va = true → ∀ c, c ≠ .memUe →
        s.xlat (s.team u).core (s.team u).slice (s.privOf u t) false k va = .error c → s.checkAt u t k size va = .error (c, 3)))
  ∧ (∀ (s : State) (u g : Nat) (k : Acc) (size : Nat) (l : List (Nat × Nat)) (r : List (Nat × Nat × Option Tlb)),
    s.checkLanes u g k size l = .ok r ↔
      l = r.map (fun x => (x.1, x.2.1)) ∧ ∀ x ∈ r, s.checkAt u (32 * g + x.1) k size x.2.1 = .ok x.2.2)
  ∧ (∀ (s : State) (u g : Nat) (k : Acc) (size : Nat) (tr : Trap) (l : List (Nat × Nat)),
    s.checkLanes u g k size l = .error tr ↔
      ∃ pre lane va post c n, l = pre ++ (lane, va) :: post
        ∧ (∀ x ∈ pre, ∃ e, s.checkAt u (32 * g + x.1) k size x.2 = .ok e)
        ∧ s.checkAt u (32 * g + lane) k size va = .error (c, n)
        ∧ tr = { cause := c, lane := lane, check := n, addr := va, write := k == .write })
  ∧ ∀ (s : State) (t a : VReg) (u sc : Bool) (scope : BitVec 4) (ty : BitVec 3) (tr : Trap),
    let stops (k : Acc) (size : Nat) (addrs : List (Nat × Nat)) (i : Instr) : Prop :=
      s.checkLanes s.iss.uid s.iss.gang k size addrs = .error tr → exec i s = raise tr s
    stops .write 1 (s.laneAddrs a u) (.stN8 t a u) ∧ stops .write 2 (s.laneAddrs a u) (.stN16 t a u)
    ∧ stops .write 4 (s.laneAddrs a u) (.stN32 t a u) ∧ stops .write 8 (s.laneAddrs a u) (.stN64 t a u)
    ∧ stops .write 16 (s.laneAddrs a u) (.stN32x4 t a u)
    ∧ (∀ t : UReg, stops .read 4 (s.uniAddr a u) (.uldN32 t a u) ∧ stops .read 8 (s.uniAddr a u) (.uldN64 t a u)
        ∧ stops .write 4 (s.uniAddr a u) (.ustN32 t a u) ∧ stops .write 8 (s.uniAddr a u) (.ustN64 t a u))
    ∧ (let w := if ty.toNat = 2 ∨ ty.toNat = 3 then 8 else 4
       ∀ i ∈ [Instr.atomAdd t a scope sc ty, .atomMin t a scope sc ty, .atomMax t a scope sc ty, .atomAnd t a scope sc ty,
         .atomOr t a scope sc ty, .atomXor t a scope sc ty, .atomXchg t a scope sc ty, .atomCas t a scope sc ty,
         .redAdd t a scope sc ty, .redMin t a scope sc ty, .redMax t a scope sc ty], stops .write w (s.laneAddrs a false) i)
    ∧ (∀ p, stops .write 4 (s.laneAddrs a u) (.amax t a p u false scope) ∧ stops .write 8 (s.laneAddrs a u) (.amax t a p u true scope))
    ∧ (∀ sz : BitVec 2, stops .read (4 * 2 ^ sz.toNat) (s.laneAddrs a false) (.scld t a scope sz)
        ∧ stops .write (4 * 2 ^ sz.toNat) (s.laneAddrs a false) (.scst t a scope sz))
    ∧ stops .write 8 (s.laneAddrs a false) (.rel a scope)

/-- LD gives each lane its bytes, at once or after the walk that its check needs: the parts below, each as its own comment says.
That a load takes each 8-byte part at its issue, at a look on its way or at its arrival is log 17. -/
def Obligations.LoadResults : Prop :=
  Claims.LoadResults
  ∧ Claims.LoadInCheck

/-- R202, R86 and R93: an ST to present pages puts the low bytes of its registers into the core's L1, lane by lane in ascending order,
so that of two lanes that store to one byte the higher one's remains; no other byte that the core sees changes, and memory is as it was
after the gang's pending operations. Of a 16-byte store the first 8 bytes are performed so and the other 8 are pending, since only each
8-byte part is indivisible (R94). (No page is discarded, no line of the access held in the Cistern, and the L1 has room for them; an
access is within its line, as an aligned one under an aligned translation is.) -/
def Obligations.StoreResults : Prop :=
  ∀ (s : State) (t a : VReg) (u : Bool) (l : List (Nat × Nat × Option Tlb)),
    let s1 := (s.drainFor l).noteAll s.cur.core l
    let tm := s.team s.iss.uid
    let addr (x : Nat × Nat × Option Tlb) : Nat := match x.2.2 with | some e => e.paOf x.2.1 | none => 0
    let half (x : Nat × Nat × Option Tlb) : Pend :=
      { uid := s.iss.uid, t := 32 * s.iss.gang + x.1, core := tm.core, slice := tm.slice, kind := .half, va := x.2.1 + 8, size := 8,
        x := (s.rv x.1 (t.toNat + 2)).toNat + 2 ^ 32 * (s.rv x.1 (t.toNat + 3)).toNat, cmp := 0, scope := 0, sc := false,
        acq := false, regs := [], tr := x.2.2 }
    let stores (n : Nat) (i : Instr) : Prop :=
      s.checkLanes s.iss.uid s.iss.gang .write n (s.laneAddrs a u) = .ok l → (∀ x ∈ l, addr x % 64 + n ≤ 64) →
        ∃ t', exec i s = .next t'
          ∧ t' = { s1 with copies := t'.copies, atoms := s1.atoms ++ if n = 16 then l.map half else [] }
          ∧ ∀ pa < 2 ^ 64, t'.byteAs tm.core pa = l.foldl (fun b x =>
              if addr x ≤ pa ∧ pa < addr x + min n 8 then s.regByte x.1 t.toNat (pa - addr x) else b) (s1.byteAs tm.core pa)
    s.team s.iss.uid = (s.drainFor l).team s.iss.uid → (s.drainFor l).iss = s.iss →
    (s1.linesAt tm.core).length + l.length ≤ s1.copyCap tm.core →
    (∀ x ∈ l, ∃ e, x.2.2 = some e ∧ e.disc = false ∧ s1.cisHas (pline (e.paOf x.2.1)) = false) →
      stores 1 (.stN8 t a u) ∧ stores 2 (.stN16 t a u) ∧ stores 4 (.stN32 t a u) ∧ stores 8 (.stN64 t a u)
      ∧ stores 16 (.stN32x4 t a u)

/-- ULD, UST, and plain accesses to another package: the parts below, each as its own comment says. -/
def Obligations.UniformAndRemoteAccesses : Prop :=
  Claims.UniformAccesses
  ∧ Claims.RemotePlainAccesses

/-- LDS, STS, GATHER and SCATTER, and their traps: the parts below, each as its own comment says. -/
def Obligations.ScratchpadAccesses : Prop :=
  Claims.ScratchpadAccesses
  ∧ Claims.ScratchpadTraps

/-- Atomics, reductions, AMAX, SC operations and ACQ, and the function of each atomic: the parts below, each as its own comment says.
That the core and its die first give up the line, and that an SC operation waits at its issue for the answer of an earlier remote one, are log 18; which copies an ACQ makes too old is log 19. -/
def Obligations.ScopedOperations : Prop :=
  Claims.ScopedOperations
  ∧ Claims.AtomicFunctions

/-- R64 and R208: in a deterministic launch an atomic or reduction with SC = 0 is held in the core's buffer with its sort key, one for
each active lane, and nothing is performed. (The buffer has room.) -/
def Obligations.BufferedAtomics : Prop :=
  ∀ (s : State) (t a : VReg) (scope : BitVec 4) (ty : BitVec 3) (l : List (Nat × Nat × Option Tlb)),
    let uid := s.iss.uid
    let tm := s.team uid
    let w := if ty.toNat = 2 ∨ ty.toNat = 3 then 2 else 1
    let x (o l : Nat) : Nat := ofWords ((List.range w).map fun k => s.rv l (t.toNat + o + k))
    let buffers (op : AtomOp) (r : Nat) (x cmp : Nat → Nat) (i : Instr) : Prop :=
      s.checkLanes uid s.iss.gang .write (4 * w) (s.laneAddrs a false) = .ok l →
        ∃ t', exec i s = .next t'
          ∧ (let regs := (List.range r).map (t.toNat + ·)
             let ops := (s.laneAddrs a false).map fun e => BufOp.mk uid tm.launch tm.core (s.privL e.1) tm.lti s.iss.gang e.1
               (NMap.get 0 tm.seqs (s.tOf e.1)) (.atom op ty.toNat (x e.1) (cmp e.1)) e.2 scope.toNat regs false false
             t' = { s.noteAll tm.core l with bufops := s.bufops ++ ops, teams := t'.teams, empty := t'.empty })
          ∧ TeamIn s uid (fun tm => { tm with seqs := (t'.team uid).seqs }) t'
          ∧ (∀ k, NMap.get 0 (t'.team uid).seqs k = NMap.get 0 tm.seqs k + if ∃ l ∈ s.iss.lanes, k = s.tOf l then 1 else 0)
          ∧ Emptied s t.toNat r t'
    tm.det = true → s.iss.lanes.Nodup →
    s.bufops.countP (fun b => b.core == tm.core && !b.spilled) + s.iss.lanes.length ≤ 4096 →
      buffers .add w (x 0) (fun _ => 0) (.atomAdd t a scope false ty)
      ∧ buffers .min w (x 0) (fun _ => 0) (.atomMin t a scope false ty)
      ∧ buffers .max w (x 0) (fun _ => 0) (.atomMax t a scope false ty)
      ∧ buffers .and w (x 0) (fun _ => 0) (.atomAnd t a scope false ty)
      ∧ buffers .or w (x 0) (fun _ => 0) (.atomOr t a scope false ty)
      ∧ buffers .xor w (x 0) (fun _ => 0) (.atomXor t a scope false ty)
      ∧ buffers .xchg w (x 0) (fun _ => 0) (.atomXchg t a scope false ty)
      ∧ buffers .cas w (x w) (x 0) (.atomCas t a scope false ty)
      ∧ buffers .add 0 (x 0) (fun _ => 0) (.redAdd t a scope false ty)
      ∧ buffers .min 0 (x 0) (fun _ => 0) (.redMin t a scope false ty)
      ∧ buffers .max 0 (x 0) (fun _ => 0) (.redMax t a scope false ty)

/-- A pending operation at its home, what an L1 writes back, and the late fills: the parts below, each as its own comment says.
That a plain load returns the bytes of its issue, of a look since, or of its arrival is log 17; that an ACQ notes its step, and which copies are then too old, is log 19; in whose name and for which team an eviction sends a domain-global line is log 65. -/
def Obligations.PendingOperations : Prop :=
  Claims.PendingOperations
  ∧ Claims.Eviction
  ∧ Claims.LateFills

/-- REL, FENCE.ALL, BIND and CFLUSH wait, and how their waits end: the parts below, each as its own comment says.
That an event whose wait is not there changes nothing is log 16; that core and die give up the line before a remote REL is log 18; which lines a release writes back and an ACQ drops, and which the aging of copies lets stay, are log 19; that a wait covers the older remote writes of other threads is log 55. -/
def Obligations.MemoryWaits : Prop :=
  Claims.MemoryWaits
  ∧ Claims.WaitEnds

/-- RED.F32 and the Cistern: the parts below, each as its own comment says.
CHECK 4 for a domain-global address and CHECK 5 for TIER 0 and CXL memory are log 15: the rule adds the two checks without numbers. -/
def Obligations.GradientAdditions : Prop :=
  Claims.GradientAdditions
  ∧ Claims.CisternAdditions

/-- R90 and R217 to R221: a copy whose records, spans and lists pass their checks joins the end of its channel, with its operands as
read at the issue, and a bound one is counted at its barrier. With 128 copies in flight on the core the fragment waits. -/
def Obligations.CopyIssues : Prop :=
  ∀ (s : State) (d a b : UReg) (w : CopyW) (r : RowCopyW) (s1 : State) (dst : Trec),
    let full : Prop := 128 ≤ s.copiesOn (s.team s.iss.uid).core
    let joins (s2 : State) (ch : BitVec 4) (bound : Bool) (bar : BitVec 4) (c : Copy) (res : Res) : Prop :=
      ∃ t, res = .next t ∧ t = { s2 with teams := t.teams }
        ∧ (let u := s2.iss.uid
           t.chan u ch.toNat = { s2.chan u ch.toNat with queue := (s2.chan u ch.toNat).queue ++ [c] }
           ∧ (∀ k, k ≠ ch.toNat → t.chan u k = s2.chan u k)
           ∧ (∀ k, t.bar u k = if bound = true ∧ k = bar.toNat then { s2.bar u k with copies := (s2.bar u k).copies + 1 } else s2.bar u k)
           ∧ TeamIn s2 u (fun tm => { tm with chans := (t.team u).chans, bars := (t.team u).bars }) t)
    let bar (bound : Bool) (n : BitVec 4) : Option Nat := if bound then some n.toNat else none
    (full → exec (.copy d a b w) s = stall s ∧ exec (.copyScatter d a b r) s = stall s ∧ exec (.copyGather d a b r) s = stall s)
    ∧ (∀ src, ¬ full → s.copyRecs (s.rup a.toNat) (s.rup b.toNat) (w.skind.toNat = 2) = (s1, .ok (dst, src)) →
        s.copyCheck w.tr w.skind.toNat w.layout.toNat w.dscr false src (s.rup b.toNat) dst none = none →
        ((w.cw = true → s.rup d.toNat % 8 = 0) →
          joins s1.drain w.ch w.bound w.bar
            { kind := .plain w.tr w.layout.toNat, priv := s.privL s.low, skind := w.skind.toNat, dscr := w.dscr,
              src := src.getD dst, dst := dst, handle := s.rup b.toNat, bar := bar w.bound w.bar,
              done := if w.cw then some (s.rup d.toNat, w.wscope.toNat) else none, at_ := 0,
              total := dst.rowB * dst.e 1 * dst.e 2 * dst.e 3, started := false, fault := false, busy := 0, got := none }
            (exec (.copy d a b w) s))
        ∧ (w.cw = true → s.rup d.toNat % 8 ≠ 0 →
            exec (.copy d a b w) s = raise { cause := .align, lane := s.low, check := 6, addr := s.rup d.toNat } s))
    ∧ ∀ src s2 bs, ¬ full → s.copyRecs (s.rup a.toNat) (s.rup b.toNat) false = (s1, .ok (dst, some src)) →
        let ia := s.rup d.toNat
        let rows (cnt lim total : Nat) (scatter : Bool) (kind : List Nat → CopyKind) (i : Instr) : Prop :=
          let idx := (List.range cnt).map fun k => bytesAt bs (4 * k) 4
          let named := idx.filter (· ≠ 0xFFFFFFFF)
          s.copyCheck false r.skind.toNat r.layout.toNat r.dscr true (some src) 0 dst (some (ia, ((ia + 4 * cnt : Nat) : Int))) = none →
          ia % 4 = 0 → nbit ia 63 = false → canonical ia = true → s1.engRead s.ctx' ia (4 * cnt) = (s2, .ok bs) →
            ((scatter = true → named.Nodup) → (∀ x ∈ named, x < lim) →
              joins s2.drain r.ch r.bound r.bar
                { kind := kind idx, priv := s.privL s.low, skind := r.skind.toNat, dscr := r.dscr, src := src, dst := dst,
                  handle := 0, bar := bar r.bound r.bar, done := none, at_ := 0, total := total, started := false,
                  fault := false, busy := 0, got := none } (exec i s))
            ∧ (scatter = true → ¬ named.Nodup → exec i s = raise { cause := .overlap, lane := s.low, check := 7, addr := ia } s)
            ∧ ((scatter = true → named.Nodup) → (∃ x ∈ named, lim ≤ x) →
                exec i s = raise { cause := .access, lane := s.low, check := 7, addr := ia } s)
        rows (src.e 1) (dst.e 1) (dst.rowB * src.e 1) true (.scatter r.layout.toNat) (.copyScatter d a b r)
        ∧ rows (dst.e 1) (src.e 1) (dst.rowB * dst.e 1) false (.gather r.layout.toNat) (.copyGather d a b r)

/-- COPY.WAIT, COPY.QUERY, PREFETCH and TSTCLR, and the run of a channel: the parts below, each as its own comment says. -/
def Obligations.CopyChannels : Prop :=
  Claims.CopyQueries
  ∧ Claims.TestAndClear
  ∧ Claims.CopyRuns

/-- R225 to R228: a caddy operation whose checks pass sends one operation for each active lane, in lane order, to the unit of its
region; CLD, CNEXT and CPROBE mark their results empty. CST and CRED first find the nodes that they may need, at the height that the
region then has, or raise INDEX_EXHAUSTED; operations of the region that are on their way and may take nodes come before that; a CRED of a deterministic launch is buffered and keeps its nodes reserved. An issue that a check refuses traps, and an
uncorrectable error in a node fences the region (R309). -/
def Obligations.CaddyIssues : Prop :=
  ∀ (s : State) (t a : VReg) (h : BitVec 4) (d : CDecl) (line : Nat),
    let handle := s.rup (2 * h.toNat)
    let check (minor : Nat) : Prop := s.caddyCheck minor t.toNat a handle (s.team s.iss.uid).nreg = .ok (d, line)
    let op (s1 : State) (minor : Nat) (data : Nat → List Word) (need l : Nat) : CaddyOp :=
      { uid := s1.iss.uid, launch := (s1.team s1.iss.uid).launch, t := s1.tOf l, slice := (s1.team s1.iss.uid).slice, minor := minor, handle := handle, line := line,
        key := s1.rp l a.toNat, data := data l, reg := t.toNat, w := d.w, need := if ∃ x ∈ data l, x ≠ 0 then need else 0 }
    let words (s1 : State) (l : Nat) : List Word := (List.range d.w).map fun k => s1.rv l (t.toNat + k)
    let reads (minor n : Nat) (i : Instr) : Prop :=
      check minor → ∃ t', exec i s = .next t'
        ∧ (let s1 := s.drain.claim d line
           t' = { s1 with caddyOps := s1.caddyOps ++ s1.iss.lanes.map (op s1 minor (fun _ => []) 0), empty := t'.empty }
           ∧ Emptied s1 t.toNat n t')
    let ins := s.iss.lanes.countP fun l => (words s l).any (· != 0)
    let s0 := (s.claim d line).settleFor line ins
    let per := (NMap.get {} s0.caddy line : CReg).height + 1
    let writes (minor : Nat) (i : Instr) : Prop :=
      check minor → ∀ s1 ok, s0.require s.ctx' d line (ins * per) = (s1, ok) →
        (ok = true → minor = 1 ∨ (s.team s.iss.uid).det = false →
          exec i s = .next { s1.drain with
            caddyOps := s1.drain.caddyOps ++ s1.drain.iss.lanes.map (op s1.drain minor (words s1.drain) per) })
        ∧ (ok = false →
          exec i s = raise { cause := .indexExhausted, lane := s.low, addr := handle, code := min (ins * per) 65535 } s1)
    let refused (minor : Nat) (i : Instr) : Prop :=
      ∀ tr, s.caddyCheck minor t.toNat a handle (s.team s.iss.uid).nreg = .error tr →
        (tr.cause = .memUe → s.declOf s.ctx' handle = .ok (d, line) → exec i s = raise tr (s.fenceReg line (s.creg d line)))
        ∧ (tr.cause ≠ .memUe → exec i s = raise tr s)
    refused 0 (.cld t a h) ∧ refused 3 (.cnext t a h) ∧ refused 4 (.cprobe t a h) ∧ refused 1 (.cst t a h) ∧ refused 2 (.cred t a h)
    ∧ reads 0 d.w (.cld t a h) ∧ reads 3 (d.w + 2) (.cnext t a h) ∧ reads 4 2 (.cprobe t a h)
    ∧ writes 1 (.cst t a h) ∧ writes 2 (.cred t a h)
    ∧ (check 2 → (s.team s.iss.uid).det = true → ∀ s1 s2, s0.require s.ctx' d line (ins * per) = (s1, true) →
        s1.bufferLanes 7 (fun l => .cred handle line (s.rp l a.toNat) (words s l) (if (words s l).any (· != 0) then per else 0)) []
          (s.iss.lanes.map fun l => (l, handle)) = .ok s2 →
        ∃ t', exec (.cred t a h) s = .next t'
          ∧ (NMap.get {} t'.caddy line).resv = (NMap.get {} s2.caddy line).resv + ins * per ∧ t'.bufops = s2.bufops)
    ∧ (let sc := s.claim d line
       (s0 = sc ∨ s0 = sc.settleReg line) ∧ ((∀ o ∈ sc.caddyOps, o.line ≠ line) → s0 = sc)
       ∧ ((NMap.get {} sc.caddy line : CReg).free < ins * ((NMap.get {} sc.caddy line : CReg).height + 1) → s0 = sc.settleReg line))

/-- What the caddy unit does to a region: the parts below, each as its own comment says.
Where a root is first placed is a free value (log 30). -/
def Obligations.CaddyRegions : Prop :=
  Claims.CaddyElements
  ∧ Claims.CaddyUnit

/-- ACTLD, MLOAD, SMPLD, ACT, and the arrival of an image: the parts below, each as its own comment says.
What makes a macro image invalid beyond the conditions of its rule is log 58. -/
def Obligations.ImageLoads : Prop :=
  Claims.ImageLoads
  ∧ Claims.ImageArrivals

/-- The matrix engine and the accumulator store: the parts below, each as its own comment says.
The CHECK numbers that ACLD, ACST, ACZ and ACCVT borrow are log 15. -/
def Obligations.MatrixEngine : Prop :=
  Claims.MatrixIssues
  ∧ Claims.MatrixEngine

/-- R243 to R247: the splat instructions, lane by lane. SPROJ packs tile and depth into a sort key; an alpha of SPLAT is 0 or lies
between 1/256 and 255/256, and is 0 where a source is not finite; BLEND adds one splat and says whether it counted; BLEND.BWD steps
back over one and writes its gradients. -/
def Obligations.SplatResults : Prop :=
  ∀ (s : State) (d a b : VReg) (pa pb : Bool),
    let x (l : Nat) (r : VReg) (k : Nat) := (s.rv l (r.toNat + k)).toNat
    let set (t : State) (l r : Nat) : Word := t.vAt s.iss.uid (s.tOf l) r
    let others (t : State) (rs : List (Nat × Nat)) : Prop :=
      ∀ k, (∀ r ∈ rs, ¬ s.dest r.1 r.2 k) → NMap.get 0 t.v k = NMap.get 0 s.v k
    (let depth (y : Nat) := if isNan32 y then 0xFFFFFFFF else if y = 0x80000000 then 0x80000000 else
        if y < 2 ^ 31 then y + 2 ^ 31 else 2 ^ 32 - 1 - y
     Puts2 s d (fun l => if 2 ^ 24 ≤ x l a 0 then 2 ^ 64 - 1 else x l a 0 * 2 ^ 40 + depth (x l b 0) * 2 ^ 8) (exec (.sproj d a b pa pb) s))
    ∧ Puts1 s d (fun l => toW (splatAlpha (x l a 0) (x l a 1) (x l a 2) (x l a 3) (x l b 0) (x l b 1))) (exec (.splat d a b pa pb) s)
    ∧ (∀ p q r o dx dy, (splatAlpha p q r o dx dy = 0
          ∨ lt32 (splatAlpha p q r o dx dy) 0x3B800000 = false ∧ lt32 0x3F7F0000 (splatAlpha p q r o dx dy) = false)
        ∧ ((∃ y ∈ [p, q, r, o, dx, dy], isFinite32 y = false) → splatAlpha p q r o dx dy = 0))
    ∧ (d.toNat % 4 = 0 → ∃ t, exec (.blend d a pa b) s = .next t ∧ t = { s with v := t.v } ∧ others t [(d.toNat, 4), (b.toNat, 1)]
        ∧ ∀ l ∈ s.iss.lanes,
          let al := clamp32 (x l a 3)
          let tr := x l d 3
          let hit := ¬ (lt32 tr 0x38800000 = true ∨ al = 0 ∨ isNan32 tr = true)
          let w := fMul f32 0 false al tr
          set t l b.toNat = (if hit then 1 else 0)
          ∧ (∀ k < 3, d.toNat + k ≠ b.toNat → set t l (d.toNat + k) = if hit then
              toW (sumTerms f32 [val32 (x l d k), mulV (val32 w) (val32 (x l a k))]) else set s l (d.toNat + k))
          ∧ (d.toNat + 3 ≠ b.toNat → set t l (d.toNat + 3) = if hit then
              toW (sumTerms f32 [mulV (val32 tr) (oneMinus al)]) else set s l (d.toNat + 3)))
    ∧ (d.toNat % 4 = 0 → a.toNat % 4 = 0 → ∃ t, exec (.blendBwd d a b pb) s = .next t ∧ t = { s with v := t.v } ∧ others t [(d.toNat, 4), (a.toNat, 4)]
        ∧ ∀ l ∈ s.iss.lanes,
          let r := blendBack (x l d 0) [x l d 1, x l d 2, x l d 3] [x l a 0, x l a 1, x l a 2] (x l a 3) [x l b 0, x l b 1, x l b 2]
            (x l b 3 != 0)
          (∀ k < 4, set t l (a.toNat + k) = toW (r.2.getD k 0))
          ∧ (∀ k < 4, (∀ j < 4, d.toNat + k ≠ a.toNat + j) → set t l (d.toNat + k) = toW (r.1.getD k 0))
          ∧ (x l b 3 = 0 ∨ clamp32 (x l a 3) = 0 → r.2 = [0, 0, 0, 0])
          ∧ (¬ (x l b 3 = 0 ∨ clamp32 (x l a 3) = 0) → ∀ k < 3, r.2.getD k 0 =
              sumTerms f32 [mulV (val32 (fMul f32 0 false (clamp32 (x l a 3)) (r.1.getD 0 0))) (val32 (x l b k))]))

/-- ROUTE and SORT from issue to completion: the parts below, each as its own comment says. -/
def Obligations.RoutesAndSorts : Prop :=
  Claims.RouteAndSortIssues
  ∧ Claims.RouteAndSortEnds
  ∧ Claims.EngineWrites

/-- TRACE, the visits and the end of a traversal, hit records, node errors, and TRRES: the parts below, each as its own comment says.
That a lane with an earlier traversal waits is log 50, and that TRRES looks ahead log 25. -/
def Obligations.Traversals : Prop :=
  Claims.TraceIssues
  ∧ Claims.TraversalReads
  ∧ Claims.NodeVisits
  ∧ Claims.NodeSteps
  ∧ Claims.TraversalEnds

/-- SAMPLE and its jobs, RAST, RAST.FLUSH and the rasteriser: the parts below, each as its own comment says.
The CHECK numbers of RAST are log 15. -/
def Obligations.SamplingAndRasterising : Prop :=
  Claims.Sampling
  ∧ Claims.Rasterising

/-- R262, R263, R341, R342: a PRES whose descriptor passes joins the presents of its head, where a third waits; a present that is
latched, or asks only for a completion, ends with status 1; a vertical blank of an enabled head shows the latched frame, cropped at its
top-left corner or padded to the sink's mode; DISP.CTL
takes its fields, and sets ERR where a value is out of range; link training gives a head its mode. -/
def Obligations.Displays : Prop :=
  (∀ (s : State) (a b : UReg) (ws : BitVec 4) (enc scan : Bool) (hd : BitVec 3) (s1 : State) (bs : List Byte),
    let tm := s.team s.iss.uid
    (enc = false → scan = false → exec (.pres a b ws enc scan hd) s = raise { cause := .illegalField, lane := s.low } s)
    ∧ ((enc || scan) = true → hd.toNat ∈ s.members tm.slice →
        (2 ≤ (s.head hd.toNat).pend.length → exec (.pres a b ws enc scan hd) s = stall s)
        ∧ ((s.head hd.toNat).pend.length < 2 → s.descCheck s.low (s.rup a.toNat) (some (s.rup b.toNat)) = (s1, .ok bs) →
            presOk bs enc = true →
            (let s2 := s1.drain
             ∃ t, exec (.pres a b ws enc scan hd) s = .next t ∧ t = { s2 with heads := t.heads }
               ∧ t.head hd.toNat = { s2.head hd.toNat with
                   pend := (s2.head hd.toNat).pend ++ [⟨s.iss.uid, tm.launch, tm.slice, s.privL s.low, tm.core, bs, s.rup b.toNat,
                     ws.toNat, enc, scan, false⟩] }
               ∧ ∀ k, k ≠ hd.toNat → t.head k = s2.head k))))
  ∧ (∀ (s : State) (k : Nat) (p : PresOp) (rest : List PresOp), (s.head k).pend = p :: rest → p.scan = true → p.latched = true →
      p.enc = false →
      (let s1 := (s.setHead k { s.head k with pend := rest }).writeCw p.ctx p.cw p.scope (2 ^ 62)
       ((∀ q ∈ s.parts, q.op ≠ s.opNow) → s1.GoesOn p.uid → exec (.presentComplete k) s = .next s1)
       ∧ ((∃ q ∈ s.parts, q.op = s.opNow) → exec (.presentComplete k) s = .next { s.setHead k { s.head k with pend := rest } with
            fins := s.fins ++ [(p.uid, s.opNow, .word p.core p.slice p.priv p.launch p.cw p.scope (2 ^ 62))] })))
  ∧ (∀ (s : State) (k : Nat), (nbit (s.sysr 0x39 k) 31 = false → exec (.verticalBlank k) s = .next s)
      ∧ (nbit (s.sysr 0x39 k) 31 = true → nbit (s.sysr 0x39 k) 29 = false →
          (∀ p rest, (s.head k).pend = p :: rest → p.scan = false ∨ p.vsync = false ∨ p.latched = true) →
          exec (.verticalBlank k) s = .next { s with out := s.out ++ [Out.scan k (s.head k).shown] })
      ∧ (∀ w h, nbit (s.sysr 0x39 k) 31 = true → nbit (s.sysr 0x39 k) 29 = true → (s.head k).mode = some (w, h) →
          (s.head k).pend = [] →
          ∃ rows, exec (.verticalBlank k) s = .next { s with out := s.out ++ [Out.scan k (s.head k).shown, Out.sink k w h rows] }
            ∧ ∀ x < w, ∀ y < h, (rows[y]?.bind (·[x]?)) = some (match (s.head k).shown with
                | some f => if x < f.width ∧ y < f.height then some (f.pixel x y) else none
                | none => none)))
  ∧ (∀ (s : State) (k : Nat) (v : BitVec 32), k < 8 → s.recovery = false →
      let x := v.toNat
      let bad : Prop := (nbit x 29 = true ∧ 2 ≤ k) ∨ x % 256 < 24 ∨ 240 < x % 256
      (bad → SetsSys s 0x39 k (withBit (s.sysr 0x39 k) 30) (exec (.dispCtlWrite k v) s))
      ∧ (¬ bad → SetsSys s 0x39 k
          ((if nbit x 31 then 2 ^ 31 else 0) + (if nbit (s.sysr 0x39 k) 30 = true ∧ nbit x 30 = false then 2 ^ 30 else 0)
            + (if nbit x 29 then 2 ^ 29 else 0) + x % 256)
          (exec (.dispCtlWrite k v) s)))
  ∧ ∀ (s : State) (k w h : Nat), k < 2 →
      ∃ t, exec (.displayportLinkTraining k w h) s = .next t ∧ t = { s with heads := t.heads }
        ∧ t.head k = { s.head k with mode := some (w, h) } ∧ ∀ i, i ≠ k → t.head i = s.head i

/-- R229, R325, R326, R328: with 16 collectives of the slice in flight a COLL waits. One whose descriptor passes takes the next number
and starts at once: a field out of its range ends it with STATUS 3 and REASON 1, an alignment with REASON 2, a member list without this
package with REASON 3; a good REDUCE, ALLRED or A2A without a table opens with its members in the order of the list.
That a REDUCE whose ROOT is no member is refused with REASON 3 is log 39, that COMP reads the order lists after the table log 38, and which alignment its planes and table need log 80. -/
def Obligations.CollectiveIssues : Prop :=
  ∀ (s : State) (a b : UReg) (scope : BitVec 4) (s1 : State) (bs : List Byte),
    let tm := s.team s.iss.uid
    let flying := s.colls.countP fun c => c.fate == 0 && s.lead c.slice == s.lead tm.slice
    let ops : List (Nat × Instr) := [(0, .collA2a a b scope), (1, .collReduce a b scope), (2, .collAllred a b scope),
      (3, .collComp a b scope)]
    (16 ≤ flying → ∀ x ∈ ops, exec x.2 s = stall s)
    ∧ (flying < 16 → s.descCheck s.low (s.rup a.toNat) (some (s.rup b.toNat)) = (s1, .ok bs) → ∀ x ∈ ops,
        let c : Coll := ⟨s.nextTag, s.iss.uid, tm.launch, tm.slice, tm.core, s.privL s.low, x.1, bs, s.rup b.toNat, scope.toNat, 0, [],
          [], [], 0, 0⟩
        let sd := State.drain { s1 with nextTag := s1.nextTag + 1 }
        let s2 := { sd with colls := sd.colls ++ [c] }
        let f := bytesAt bs
        let cap := s2.scap tm.slice
        (collFieldBad x.1 cap bs = true → exec x.2 s = .next (s2.endColl c 3 1))
        ∧ (collFieldBad x.1 cap bs = false → collAlignBad x.1 bs = true → exec x.2 s = .next (s2.endColl c 3 2))
        ∧ ∀ s3 ml, collFieldBad x.1 cap bs = false → collAlignBad x.1 bs = false →
            s2.engRead ⟨tm.core, tm.slice, s.privL s.low, s.iss.uid, tm.launch⟩ (f 24 8) (2 * f 32 2) = (s3, .ok ml) →
            (let ids := (List.range (f 32 2)).map fun i => bytesAt ml (2 * i) 2
             (∀ i ∈ ids, i < 1024) →
              (x.1 ≠ 3 → f 16 8 = 0 →
                (s3.pkg ∉ ids ∨ hasDup ids = true ∨ (x.1 = 1 ∧ f 38 2 ∉ ids) → exec x.2 s = .next (s3.endColl c 3 3))
                ∧ (s3.pkg ∈ ids → hasDup ids = false → (x.1 = 1 → f 38 2 ∈ ids) →
                    exec x.2 s = .next (s3.openColl { c with
                      members := ids.map fun i => newMember x.1 s3.pkg (f 38 2) (f 40 4) (collEsz (f 34 1)) [] i (f 40 4),
                      p := min (1024 * f 37 1) (64 * (cap - 1)) })))
              ∧ ∀ s4 orders, x.1 = 3 →
                  s3.readOrders ⟨tm.core, tm.slice, s.privL s.low, s.iss.uid, tm.launch⟩ (f 16 8) (f 40 4) (List.range (f 40 4))
                    = (s4, some orders) →
                  (∀ o ∈ orders, o.2.1 < 1024 ∧ ∀ p ∈ o.2.2, p < 1024) → s4.pkg ∈ ids → hasDup ids = false →
                    exec x.2 s = .next (s4.openColl { c with
                      members := ids.map fun i => newMember 3 s4.pkg (f 38 2) (f 40 4) (collEsz (f 34 1)) orders i (f 40 4),
                      tiles := (orders.filter fun o => o.2.1 == s4.pkg).map fun o => (o.1, o.2.2),
                      p := min (1024 * f 37 1) (64 * (cap - 1)) })))

/-- R281, R282, R326 to R329: a chunk whose collective has not been issued here is refused to its sender; one from no member of it, or
of one that has failed here, is discarded, as are the pieces of a shard that no order list here names; a chunk of a REDUCE or ALLRED
part is kept with its offset. A refused chunk that no collective has sent is dropped, another is queued again, also where its
collective has completed here. A collective without progress fails with REASON 5, or 6 where a chunk stands refused; a completed one
stays known while a chunk of it is queued or sent. Its word is written after what its engine has still to write. A reduced element
takes the contributions in ascending order of package, and a composite the shards from the front. Whose a chunk or a refusal is
where a CID has been used again is log 60.
That a refused chunk takes the queued one's place is log 37; that an ended collective's identifier stays known is log 60. -/
def Obligations.CollectiveProgress : Prop :=
  (∀ (s : State) (m : Msg) (rest : List Msg), s.inChunks = m :: rest →
    let s1 : State := { s with inChunks := rest }
    let refused : Msg := { osrc := s.pkg, odst := m.osrc, typ := 2, ordered := false, relayed := false, rsv := false, len := 0, seq := 0,
                           tag := m.tag, req := none, off := m.off, data := [] }
    ((∀ c ∈ s.colls, c.f 48 4 ≠ m.tag) →
      exec (.collectiveChunk 0) s = .next { s1 with pendRefs := s.pendRefs ++ [refused] })
    ∧ ((∀ c ∈ s.colls, c.f 48 4 = m.tag → c.fate ≠ 0) →
        (∀ c, s.colls.find? (fun c => c.past m s.tick) = some c → exec (.collectiveChunk 0) s = .next (s1.setColl { c with
          members := c.members.map fun x =>
            if x.id = m.osrc then { x with got := x.got + m.data.length, size := some m.total } else x }))
        ∧ ((∀ c ∈ s.colls, c.past m s.tick = false) →
            exec (.collectiveChunk 0) s = .next { s1 with pendRefs := s.pendRefs ++ [refused] }))
    ∧ ∀ c, s.colls.find? (fun c => c.f 48 4 == m.tag && c.fate == 0) = some c →
        ((∀ x ∈ c.members, x.id ≠ m.osrc) → exec (.collectiveChunk 0) s = .next s1)
        ∧ ∀ x, c.members.find? (fun x => x.id == m.osrc) = some x → c.minor = 1 ∨ c.minor = 2 → x.expect = true →
            exec (.collectiveChunk 0) s = .next (State.tryColl
              (s1.setColl { c.setMember { x with got := x.got + m.data.length, size := some m.total } with
                data := c.data ++ [(m.osrc, m.off, m.data.map (BitVec.ofNat 8 ·))] }) c.id)
          ∧ ∀ x, c.members.find? (fun x => x.id == m.osrc) = some x → c.minor = 3 →
              let keep := (compPieces m (m.data.map (BitVec.ofNat 8 ·))).filter fun d =>
                c.tiles.any fun t => t.1 == d.2.1 / 4096 && t.2.contains m.osrc
              exec (.collectiveChunk 0) s = .next (State.tryColl (s1.setColl { c.heard m with data := c.data ++ keep }) c.id))
  ∧ (∀ (c : Coll) (m : Msg) (tick : Nat), (c.past m tick = true → c.f 48 4 = m.tag ∧ (c.fate = 2 ∨ (c.fate = 1 ∧ c.minor = 3)))
      ∧ (c.f 48 4 = m.tag → c.fate = 2 → c.past m tick = true)
      ∧ (c.f 48 4 = m.tag → c.fate = 1 → c.minor = 3 →
          ((∀ x ∈ c.members, x.id ≠ m.osrc) → c.past m tick = true)
          ∧ ∀ x n, c.members.find? (fun x => x.id == m.osrc) = some x → x.size = some n → (c.past m tick = true ↔ x.got < n)))
  ∧ (∀ (s : State) (m : Msg) (rest : List Msg), s.inCRefs = m :: rest →
      let of_ (c : Coll) : Bool :=
        c.f 48 4 == m.tag && c.members.any fun x => x.id == m.osrc && x.sends && x.out.any (·.1 == m.off)
      ((∀ c ∈ s.colls, of_ c = false) → exec (.chunkRefusal 0) s = .next { s with inCRefs := rest })
      ∧ ((∃ c ∈ s.colls, of_ c = true) → ∃ c ∈ s.colls, of_ c = true
          ∧ exec (.chunkRefusal 0) s = .next (State.chunkAgain { s with inCRefs := rest } c.id m.osrc m.off)))
  ∧ (∀ (s : State) (c : Coll) (rest : List Coll), s.colls = c :: rest →
      let busy : Prop := ∃ m ∈ c.members, m.queued = true ∨ m.todo ≠ [] ∨ (m.sends = true ∧ m.out ≠ [])
      (c.fate = 0 → exec (.collectiveTimeout 0) s = .next (s.endColl c 2 (if ∃ m ∈ c.members, m.refused ≠ [] then 6 else 5)))
      ∧ (c.fate ≠ 0 → busy → exec (.collectiveTimeout 0) s = .next s)
      ∧ (c.fate ≠ 0 → ¬ busy → exec (.collectiveTimeout 0) s = .next { s with colls := rest }))
  ∧ (∀ (s : State) (c : Coll) (status reason : Nat), c.fate = 0 →
      let idle (m : CMember) : CMember := { m with sends := false, queued := false, todo := [] }
      let kept (d : Coll) : List Coll := s.colls.map fun x => if x.id = c.id then d else x
      let s1 : State :=
        if status = 1 then { s with colls := kept { c with fate := 1 } }
        else if status = 3 then { s with colls := s.colls.filter (fun x => x.id != c.id) }
        else { s with
          colls := kept { c with fate := 2, members := c.members.map idle },
          sendQ := s.sendQ.filter fun q => !(q.coll.any fun x => x.1 == c.id) }
      let s2 := s1.writeCw c.ctx c.cw c.scope (status * 2 ^ 62 + reason * 2 ^ 48 + c.wrote % 2 ^ 48)
      ((∀ p ∈ s.parts, p.op ≠ c.op) → s2.GoesOn c.uid → s.endColl c status reason = s2)
      ∧ ((∃ p ∈ s.parts, p.op = c.op) → s.endColl c status reason = { s1 with
          fins := s.fins ++ [(c.uid, c.op, .word c.core c.slice c.priv c.launch c.cw c.scope
            (status * 2 ^ 62 + reason * 2 ^ 48 + c.wrote % 2 ^ 48))] }))
  ∧ (∀ (fmt op : Nat) (x y : Nat) (ys : List Nat), op ≤ 2 → collElem fmt op true (x :: y :: ys) =
      (ys.map (collWiden fmt)).foldl (fun a z => if op = 0 then fAdd f32 0 false a z else fMinMax f32 (op == 1) false a z)
        (if op = 0 then fAdd f32 0 false (collWiden fmt x) (collWiden fmt y)
          else fMinMax f32 (op == 1) false (collWiden fmt x) (collWiden fmt y)))
  ∧ ∀ (p q : List Nat), compPixel [] = [0, 0, 0, 0x3F800000] ∧ compPixel [p] = p ∧ compPixel [p, q] =
      (List.range 3).map (fun k => fFma f32 0 false (p.getD 3 0) (q.getD k 0) (p.getD k 0))
        ++ [fMul f32 0 false (p.getD 3 0) (q.getD 3 0)]

/-- R47 to R51: Kettle copies an entry of a queue whose HEAD is not its bell, advances HEAD modulo the ring's length, and checks it: an
entry that fails a check ends with STATUS 1 and the number of the check. A doorbell of an enabled queue of a lead slice sets the bell,
and LQ.CTL refuses EN with a ring shorter than 16 entries. That a doorbell first evicts the host lines of both die caches is log 19. -/
def Obligations.LaunchQueues : Prop :=
  (∀ (s : State) (k q : Nat), s.entryDue k q = false → exec (.launchEntry k q) s = .next s)
  ∧ (∀ (s : State) (k q : Nat) (s1 : State) (bs : List Byte), s.entryDue k q = true →
      let i := 4 * k + q
      let ctl := s.sysr 0x19 i
      let head := s.sysr 0x1B i
      s.ringEntry k (s.sysr 0x18 i + 128 * head) = (s1, some bs) →
        let l := s1.nextLid
        let s2 := (State.setSys { s1 with nextLid := l + 1, ringLid := NMap.put s1.ringLid (i * 65536 + head) l } 0x1B i
          ((head + 1) % 2 ^ bits ctl 19 16)).setLaunch l (launchOf bs k q head (nbit ctl 29))
        (∀ s3, s2.checkEntry l bs = (s3, 0) → exec (.launchEntry k q) s = .next s3)
        ∧ (∀ s3 n, n ≠ 0 → s2.checkEntry l bs = (s3, n) → exec (.launchEntry k q) s = .next (s3.finishLaunch l 1 n))
        ∧ (entryCheck1 bs = false → s2.checkEntry l bs = (s2, 1))
        ∧ (entryCheck1 bs = true → packetAddr (launchOf bs k q head (nbit ctl 29)).node0.code = false → s2.checkEntry l bs = (s2, 2)))
  ∧ (∀ (s : State) (i : Nat) (v : BitVec 32), i < 32 → s.recovery = false →
      (nbit (s.sysr 0x19 i) 31 = false ∨ s.lead (i / 4) ≠ i / 4 → exec (.lqDoorbell i v) s = .next s)
      ∧ (nbit (s.sysr 0x19 i) 31 = true → s.lead (i / 4) = i / 4 →
          (let host (l : Nat) : Bool := inHost (64 * l)
           let s1 := (s.evictAll 192 host 0 0).evictAll 193 host 0 0
           exec (.lqDoorbell i v) s = .next { s1 with bells := NMap.put s1.bells i (v.toNat % 65536) })))
  ∧ ∀ (s : State) (i : Nat) (v : BitVec 32), i < 32 → s.recovery = false →
      let x := v.toNat
      let old := s.sysr 0x19 i
      let lg := bits x 19 16
      let bad : Prop := (nbit x 31 = true ∧ lg < 4) ∨ (nbit old 31 = true ∧ (lg ≠ bits old 19 16 ∨ nbit x 29 ≠ nbit old 29))
      (bad → SetsSys s 0x19 i (withBit old 30) (exec (.lqCtlWrite i v) s))
      ∧ (¬ bad → ∃ t, exec (.lqCtlWrite i v) s = .next t ∧ t = { s with sys := t.sys, bells := t.bells }
          ∧ t.sysr 0x19 i = (if nbit x 31 then 2 ^ 31 else 0) + (if nbit old 30 = true ∧ nbit x 30 = false then 2 ^ 30 else 0)
              + (if nbit x 29 then 2 ^ 29 else 0) + lg * 2 ^ 16 + x % 4
          ∧ (nbit x 31 = true → nbit old 31 = false → t.sysr 0x1B i = 0 ∧ NMap.get 0 t.bells i = 0)
          ∧ (nbit x 31 = false ∨ nbit old 31 = true → t.sysr 0x1B i = s.sysr 0x1B i ∧ t.bells = s.bells)
          ∧ ∀ k, k ≠ sreg 0x19 i → k ≠ sreg 0x1B i → NMap.find t.sys k = NMap.find s.sys k)

/-- R39, R40, R59, R60: Kettle places the first candidate, in the order of R59, that can be placed; a team starts with every thread at
its node's code, its first record's payload, frame and record count in the low uniform registers of each gang, and the payloads in
its scratchpad, after the lines that its granules take from the core's L1 have been written back. A launch with a candidate ages by one
with each quantum. The order among equal candidates is log 63; the step at which a team starts, before which its core's copies are
too old for it, is log 19. -/
def Obligations.TeamStarts : Prop :=
  (∀ (s : State) (k : Nat), (8 ≤ k ∨ s.lead k ≠ k ∨ nbit (s.sysr 0x22 k) 29 = true ∨ nbit (s.sysr 0x22 k) 31 = true →
        exec (.teamPlacement k) s = .next s)
      ∧ (k < 8 → s.lead k = k → nbit (s.sysr 0x22 k) 29 = false → nbit (s.sysr 0x22 k) 31 = false →
          (∀ x ∈ s.cands k, x.key.headD 3 = 0 → (s.coreFor k (s.candNeed x)).isSome = true) →
          ((∀ x ∈ s.cands k, s.placeable k x = false) → exec (.teamPlacement k) s = .next s)
          ∧ ∀ x, (s.cands k).find? (fun x => s.placeable k x) = some x → exec (.teamPlacement k) s = .next (s.placeCand k x)))
  ∧ (∀ (s : State) (k : Nat), (s.cands k).Perm ((s.launchesOf k).flatMap s.candsOf)
      ∧ (s.cands k).Pairwise fun a b => keysLe a.key b.key = true)
  ∧ (∀ (s : State) (l node c lti : Nat) (nd : GNode) (recs : List Rec) (co : Nat × Nat × Nat) (lin : Nat),
      let t := s.startTeam l node c lti nd recs co lin
      let u := s.nextUid
      let s1 := ({ s with nextUid := u + 1 }.setTeam u (t.team u)).trimL1 c
      let r := recs.headD ⟨0, 0⟩
      let word (x j : Nat) : Word := toW (x / 2 ^ (32 * j))
      nd.threads ≤ 1024 → nd.scr ≤ 2 ^ 20 →
      t = { s1 with threads := t.threads, u := t.u, scratch := t.scratch, launches := t.launches }
      ∧ (∀ k < nd.threads, t.thr u k = { exited := false, pos := hdrCode r.hdr, stamp := s1.tick }) ∧ (t.team u).since = s.tick
      ∧ (∀ k, (∀ j < nd.threads, k ≠ tkey u j) → NMap.get {} t.threads k = NMap.get {} s1.threads k)
      ∧ (t.team u).core = c ∧ (t.team u).launch = l ∧ (t.team u).n = nd.threads ∧ (t.team u).lti = lti ∧ (t.team u).live = true
      ∧ (∀ g < (t.team u).gangs, (∀ j < 4, NMap.get 0 t.u (ukey u g j) = word r.pay.toNat j)
          ∧ NMap.get 0 t.u (ukey u g 4) = word (hdrFrame r.hdr) 0 ∧ NMap.get 0 t.u (ukey u g 5) = word (hdrFrame r.hdr) 1
          ∧ NMap.get 0 t.u (ukey u g 6) = toW recs.length)
      ∧ ∀ j < recs.length, ∀ i < 16, 16 * j + i < nd.scr →
          NMap.get 0 t.scratch (skey u (16 * j + i)) = BitVec.ofNat 8 ((recs.getD j ⟨0, 0⟩).pay.toNat / 2 ^ (8 * i)))
  ∧ ∀ (s : State) (l : Nat), (s.launch l).live = true → s.candsOf l ≠ [] →
      exec (.agingQuantum l) s = .next (s.setLaunch l { s.launch l with wait := (s.launch l).wait + 1 })

/-- How launches, phases and stopped teams end: the parts below, each as its own comment says.
That a written line of no team is awaited is log 62; the choice among equal latencies and the times are free (log 45). -/
def Obligations.LaunchEnds : Prop :=
  Claims.LaunchEnds
  ∧ Claims.TeamStops

/-- R350 to R352: a command of the fault queue that names no open entry of the right kind, or no launch, is refused and sets ERR. RESUME
answers the entry of a saved team; ABORT LAUNCH, by an entry or by number, ends its launch with STATUS 2 where an entry of it has been
posted and 3 where none has; the two operation commands let a suspended engine operation go on or end. A write to FAULTQ.CTL takes its fields.
That command 2 is taken for every entry with a launch but KIND 6 is log 46. -/
def Obligations.FaultCommands : Prop :=
  ∀ (s : State) (k : Nat) (seq : BitVec 32), k < 8 → s.recovery = false → s.lead k = k → nbit (s.sysr 0x22 k) 29 = false →
    let refuses (r : Res) : Prop := SetsSys s 0x25 k (withBit (s.sysr 0x25 k) 30) r
    let entry (e : FEntry) : Prop := s.entryOf k seq.toNat = some e ∧ e.answered = false
    let answers (es : List FEntry) : Prop :=
      es = s.entries.map fun e => if e.slice = k ∧ e.seq = seq.toNat then { e with answered := true } else e
    ((∀ e ∈ s.entries, ¬ (e.slice = k ∧ e.seq = seq.toNat)) →
      refuses (exec (.resume k seq) s) ∧ refuses (exec (.abortLaunch k seq) s) ∧ refuses (exec (.resumeOperation k seq) s)
      ∧ refuses (exec (.abortOperation k seq) s))
    ∧ (∀ e, s.entryOf k seq.toNat = some e →
        (e.answered = true ∨ e.kind ≠ 1 → refuses (exec (.resume k seq) s))
        ∧ (e.answered = true ∨ e.kind = 6 ∨ e.launch = 0 → refuses (exec (.abortLaunch k seq) s))
        ∧ (e.answered = true ∨ e.kind ≠ 2 → refuses (exec (.resumeOperation k seq) s) ∧ refuses (exec (.abortOperation k seq) s)))
    ∧ (∀ e, entry e → e.kind = 1 → bytesAt e.body 8 1 ≠ Cause.detSpill.code → (s.team e.uid).live = false →
        ∃ t, exec (.resume k seq) s = .next t ∧ t = { s with entries := t.entries, saved := t.saved } ∧ answers t.entries
          ∧ t.saved = s.saved.map fun v =>
              if v.uid = e.uid then { v with team := { v.team with open_ := v.team.open_.erase seq.toNat } } else v)
    ∧ (∀ e, entry e → e.kind ≠ 6 → e.launch ≠ 0 →
        let goes : Prop := (s.launch e.launch).live = true ∧ (s.launch e.launch).dying = none
        (goes → exec (.abortLaunch k seq) s = .next ((s.answered k seq.toNat).abortLaunch e.launch
          (if (s.launch e.launch).posted then 2 else 3)))
        ∧ (¬ goes → exec (.abortLaunch k seq) s = .next (s.answered k seq.toNat)))
    ∧ (∀ e, entry e → e.kind = 2 →
        exec (.resumeOperation k seq) s = .next ((s.answered k seq.toNat).resumeOp e)
        ∧ exec (.abortOperation k seq) s = .next ((s.answered k seq.toNat).abortOp e)
        ∧ answers (s.answered k seq.toNat).entries
        ∧ (e.eng / 16 = 3 → ((s.answered k seq.toNat).resumeOp e).samples =
            s.samples.map fun j => if j.id = e.ref ∧ j.uid = e.uid then { j with susp := false } else j))
    ∧ (∀ (q : BitVec 2) (l : Nat), seq.toNat < 65536 →
        (NMap.find s.ringLid ((4 * k + q.toNat) * 65536 + seq.toNat) = none → refuses (exec (.abortLaunchBySeq k q seq) s))
        ∧ (NMap.find s.ringLid ((4 * k + q.toNat) * 65536 + seq.toNat) = some l →
            (s.launch l).live = false ∨ (s.launch l).dying ≠ none → refuses (exec (.abortLaunchBySeq k q seq) s))
        ∧ (NMap.find s.ringLid ((4 * k + q.toNat) * 65536 + seq.toNat) = some l → (s.launch l).live = true →
            (s.launch l).dying = none →
            exec (.abortLaunchBySeq k q seq) s = .next (s.abortLaunch l (if (s.launch l).posted then 2 else 3))))
    ∧ ∀ (v : BitVec 32), (∀ e ∈ s.entries, e.slice = k → e.posted = true) →
        let x := v.toNat
        let old := s.sysr 0x25 k
        SetsSys s 0x25 k
          ((if nbit x 31 then 2 ^ 31 else 0) + (if nbit old 30 = true ∧ nbit x 30 = false then 2 ^ 30 else 0)
            + (if nbit old 29 = true ∧ nbit x 29 = false then 2 ^ 29 else 0) + bits x 21 16 * 2 ^ 16 + old % 64)
          (exec (.faultqCtlWrite k v) s)

/-- R71, R72: SAVE of a slice with room for every resident team sets BUSY and stops the teams; it ends, with OUT set, once no team,
Strainer job or collective of the slice is left; RESTORE of a slice that is out sets BUSY, and ends with BUSY and OUT clear and the
commands written meanwhile carried out. A SAVE of a slice that is out, and a RESTORE of one that is not, sets ERR. -/
def Obligations.ContextSwitches : Prop :=
  ∀ (s : State) (k : Nat), k < 8 → s.recovery = false → s.lead k = k →
    let c := s.sysr 0x22 k
    let refuses (r : Res) : Prop := SetsSys s 0x22 k (withBit c 30) r
    (nbit c 31 = true → refuses (exec (.kettleCtxswSave k) s) ∧ refuses (exec (.kettleCtxswRestore k) s))
    ∧ (nbit c 31 = false → nbit c 29 = true → refuses (exec (.kettleCtxswSave k) s)
        ∧ ∃ t, exec (.kettleCtxswRestore k) s = .next t ∧ t = { s with sys := t.sys, ctx := t.ctx } ∧ SysIn s 0x22 k (c + 2 ^ 31) t
          ∧ NMap.get 0 t.ctx k = 2 ∧ ∀ i, i ≠ k → NMap.get 0 t.ctx i = NMap.get 0 s.ctx i)
    ∧ (nbit c 31 = false → nbit c 29 = false → refuses (exec (.kettleCtxswRestore k) s)
        ∧ (s.allFit k = false → refuses (exec (.kettleCtxswSave k) s))
        ∧ (s.allFit k = true → ∃ t, exec (.kettleCtxswSave k) s = .next t ∧ t = { s with sys := t.sys, ctx := t.ctx, teams := t.teams }
            ∧ SysIn s 0x22 k (c + 2 ^ 31) t ∧ NMap.get 0 t.ctx k = 1
            ∧ (∀ u ∈ s.residents k, ∃ st, (t.team u).stop = some st ∧ st.flush = false)
            ∧ ∀ u, u ∉ s.residents k → t.team u = s.team u))
    ∧ (let left : Prop := s.residents k = [] ∧ (∀ j ∈ s.sorts, s.lead j.slice ≠ k) ∧ ∀ x ∈ s.colls, x.fate = 0 → s.lead x.slice ≠ k
       (NMap.get 0 s.ctx k ≠ 1 ∨ ¬ left → exec (.ctxswSaveDone k) s = .next s)
       ∧ (NMap.get 0 s.ctx k = 1 → left → nbit c 31 = true → nbit c 29 = false →
          ∃ t, exec (.ctxswSaveDone k) s = .next t
            ∧ t = { s with sys := t.sys, ctx := t.ctx, mem := t.mem, poison := t.poison }
            ∧ SysIn s 0x22 k (c + 2 ^ 29 - 2 ^ 31) t ∧ NMap.get 0 t.ctx k = 0
            ∧ (Memory.wf s.mem = true → ∀ a, a < s.ctxBase k ∨ s.ctxBase k + 4096 ≤ a → memGet t.mem a = memGet s.mem a)))
    ∧ (NMap.get 0 s.ctx k ≠ 2 → exec (.ctxswRestoreDone k) s = .next s)
    ∧ (NMap.get 0 s.ctx k = 2 → s.physBad (s.ctxBase k) 4096 = true → nbit c 31 = true →
        ∃ r, r = { s with sys := r.sys, ctx := r.ctx } ∧ SysIn s 0x22 k (c - 2 ^ 31) r ∧ NMap.get 0 r.ctx k = 0
          ∧ exec (.ctxswRestoreDone k) s = .next (r.fenceSlice k (s.ctxBase k)))
    ∧ (NMap.get 0 s.ctx k = 2 → s.physBad (s.ctxBase k) 4096 = false → nbit c 31 = true → nbit c 29 = true →
        ∃ r, r = { s with sys := r.sys, ctx := r.ctx, lateCmds := s.lateCmds.filter fun x => x.1 != k }
          ∧ SysIn s 0x22 k (c - 2 ^ 31 - 2 ^ 29) r ∧ NMap.get 0 r.ctx k = 0
          ∧ exec (.ctxswRestoreDone k) s = .next ((s.lateCmds.filter fun x => x.1 == k).foldl (fun r x =>
              r.faultCmd k (x.2.toNat / 2 ^ 60 % 16) (x.2.toNat / 2 ^ 32 % 4) (x.2.toNat % 2 ^ 32)) r))

/-- Writes of the device's registers, and invalidations: the parts below, each as its own comment says. -/
def Obligations.DeviceRegisters : Prop :=
  Claims.DeviceRegisters
  ∧ Claims.Invalidations

/-- R345, R363, R364: a firmware command is taken while none runs; one written while another runs is answered at once with all ones and
vector 9, and the running command goes on. Its end writes a result word and the command's answer and raises vector 9; STAGE keeps an
image that passes the checks: its key is the fused one, its signature holds, its version is not below the fused counter. A reset loads
the staged image where there is one, else the one that ran; where it passes, each stage that is loaded, the image first, extends one of
the eight measurements, and the device leaves recovery; it keeps memory, identity, the fused counter and the trained host link. (What the hash, the signature check and the forms of the answers give
are free values; log 67.)
What a reset of the module keeps, and the free result words, are the model's choice (log 29); what firmware's commands do beyond their words is log 67. -/
def Obligations.FirmwareAndReset : Prop :=
  (∀ (s : State) (buf : Nat), buf < 2 ^ 56 →
    let page := buf / 4096 * 4096
    let takes (cmd : Nat) (i : Instr) : Prop :=
      (s.fwBusy = none → ∃ t, exec i s = .next t ∧ t = { s with sys := t.sys, fwBusy := some (cmd, page) }
        ∧ SysIn s 0x58 0 (cmd * 2 ^ 56 + buf) t)
      ∧ (∀ b, s.fwBusy = some b → Memory.wf s.mem = true → ∃ t, exec i s = .next t
          ∧ t = { s with sys := t.sys, mem := t.mem, poison := t.poison, out := s.out ++ [Out.msix 9] }
          ∧ SysIn s 0x58 0 (cmd * 2 ^ 56 + buf) t
          ∧ (∀ j < 4, memGet t.mem (2 ^ 56 + page + j) = 0xFF)
          ∧ ∀ a, a < 2 ^ 56 + page ∨ 2 ^ 56 + page + 4 ≤ a → memGet t.mem a = memGet s.mem a)
    takes 1 (.fwAttest buf) ∧ takes 2 (.fwStage buf) ∧ takes 3 (.fwStatus buf))
  ∧ (∀ (s : State), (s.fwBusy = none → exec .fwMboxResult s = .next s)
      ∧ ∀ cmd buf, s.fwBusy = some (cmd, buf) →
          let img := memBytes s.mem (hostPa buf) Config.imageSize
          let ans := s.fwAnswer cmd buf
          ∃ t, exec .fwMboxResult s = .next t
          ∧ t = { s with
              mem := t.mem, poison := t.poison, fwBusy := none, out := s.out ++ [Out.msix 9],
              fwImage := if cmd = 2 ∧ Config.sha3 (Config.imageKey img) = Config.fusedKey
                  ∧ Config.imageSigned img (Config.imageKey img) = true ∧ s.rollback ≤ Config.imageVersion img
                then some img else s.fwImage }
          ∧ (Memory.wf s.mem = true →
              (∀ j < ans.length, memGet t.mem (hostPa buf + 4 + j) = ans.getD j 0)
              ∧ ∀ a, a < hostPa buf ∨ hostPa buf + 4 + ans.length ≤ a → memGet t.mem a = memGet s.mem a))
  ∧ ∀ (s : State) (ok : Bool),
      let pass : Bool := match s.fwImage.or s.fwRun with | some img => s.imageOk img | none => ok
      let boot := s.fwImage.getD (s.fwRun.getD Config.ownImage)
      let stages := boot :: Config.nextStages boot
      ∃ t, exec (.reset ok) s = .next t
      ∧ t = { State.reset with
          agenda := s.agenda, tick := s.tick, out := s.out, mem := s.mem, poison := s.poison, sys := t.sys, pcieWidth := s.pcieWidth,
          pcieRate := s.pcieRate, recovery := !pass, rollback := s.rollback, measures := t.measures,
          fwRun := if pass = true ∧ s.fwImage.isSome = true then s.fwImage else s.fwRun }
      ∧ (pass = false → t.measures = List.replicate 8 0)
      ∧ (pass = true → ∃ ks : List Nat, ks.length = stages.length ∧ (∀ k ∈ ks, k < 8)
          ∧ t.measures = (ks.zip stages).foldl (fun ms x =>
              ms.set x.1 (Config.sha3 (toBytes 32 (ms.getD x.1 0) ++ toBytes 32 (Config.sha3 x.2)))) (List.replicate 8 0))
      ∧ ∀ n i, i < 256 → (n < 0x48 ∨ 0x50 ≤ n → t.sysr n i = State.reset.sysr n i)
          ∧ (0x48 ≤ n → n < 0x50 → ¬ (n = 0x4A ∧ i = 0) → t.sysr n i = s.sysr n i)

/-- R358, R361, R362: a trained host link gives its width and rate; a CXL link up gives the capacity, and link down performs the
operations on their way to it and then takes it away; an uncorrectable error poisons a line that is present, is counted and raises
vector 8; a corrected one is counted.
That an uncorrectable error is counted when its line is poisoned is log 23, and that it raises vector 8 log 66. -/
def Obligations.AttachmentsAndErrors : Prop :=
  (∀ (s : State) (w r : Nat),
    let ok : Prop := w ∈ [1, 2, 4, 8, 16] ∧ 0 < r ∧ r ≤ 128
    (ok → exec (.hostLinkTraining w r) s = .next { s with pcieWidth := w, pcieRate := r })
    ∧ (¬ ok → exec (.hostLinkTraining w r) s = .next s))
  ∧ (∀ (s : State) (gib : Nat),
      SetsSys s 0x4A 0 (s.sysr 0x4A 0 % 2 ^ 17 + 2 ^ 17 + min gib 16383 * 2 ^ 18) (exec (.cxlLinkUp gib) s))
  ∧ (∀ (s : State),
      let s1 := (s.atoms.filter pendCxl ++ s.scops.filter pendCxl).foldl State.perform { s with
        atoms := s.atoms.filter fun p => !pendCxl p, scops := s.scops.filter fun p => !pendCxl p }
      SetsSys s1 0x4A 0 (s1.sysr 0x4A 0 % 2 ^ 17) (exec .cxlLinkDown s)
      ∧ s1.atoms = s.atoms.filter (fun p => !pendCxl p) ∧ s1.scops = s.scops.filter fun p => !pendCxl p)
  ∧ ∀ (s : State),
      let counted (d : Nat) (hi : Bool) : Nat :=
        let c := s.sysr 0x11 d
        if hi then c % 65536 + 65536 * min 65535 (c / 65536 % 65536 + 1) else min 65535 (c % 65536 + 1) + 65536 * (c / 65536 % 65536)
      (∀ line, (s.present (64 * line) 64 = false → exec (.linePoisoned line) s = .next s)
        ∧ (s.present (64 * line) 64 = true → ∃ t, exec (.linePoisoned line) s = .next t
            ∧ t = { s with sys := t.sys, poison := t.poison, out := s.out ++ [Out.msix 8] }
            ∧ SysIn s 0x11 (homeDie (64 * line)) (counted (homeDie (64 * line)) true) t
            ∧ ∀ l, l ∈ t.poison ↔ l = line ∨ l ∈ s.poison))
      ∧ ∀ d, (2 ≤ d → exec (.correctedError d) s = .next s)
          ∧ (d < 2 → SetsSys s 0x11 d (counted d false) (exec (.correctedError d) s))

/-- Slots of the planes: what a frame holds, and what becomes of one received: the parts below, each as its own comment says.
Which die's wells hold a message, and the limit of own flits under a power cap, are free (log 61); that what is discarded raises vector 8 is log 66. -/
def Obligations.FabricSlots : Prop :=
  Claims.FabricSlots
  ∧ Claims.SentFrames
  ∧ Claims.ReceivedMessages

/-- R94, R103, R104, R106, R108, R201, R214, R321 to R324, R366: a request that the owner grants is performed, part by part where it is
wider than 8 bytes, and answered with the old value, one that it does not is refused, and one behind another of its package waits; a
response fills the registers that wait with its bytes, a refusal or a timeout with all ones in each byte that the load returns, after
it has set its flag of TEAM.STATUS; a line that was fetched comes to its place, as old as its request, unless it has been written
behind the request: then it is asked for again; an answer that nothing awaits is dropped. What an answered read observes is R103's.
An acknowledgment moves the window forward, and never back. That a copy counts from the step of its request is log 19, and when a
line is asked for again log 18. -/
def Obligations.RemoteAnswers : Prop :=
  (∀ (s : State) (m : Msg) (rest : List Msg) (r : Req), s.inReqs = m :: rest → m.req = some r →
    let base : State := { s with inReqs := rest, servings := s.servings.filter (·.osrc != m.osrc) }
    let n := if (reqOp r == .write) = true then 0 else r.size
    let ans (s1 : State) (typ len off : Nat) (req : Option Req) (data : List Nat) : Msg :=
      { osrc := s1.pkg, odst := m.osrc, typ := typ, ordered := false, relayed := false, rsv := false, len := len, seq := 0,
        tag := m.tag, req := req, off := off, data := data }
    let sends (s1 : State) (a : Msg) : Prop := m.osrc ≠ s1.pkg → exec (.remoteRequest 0) s
      = .next { s1 with sendQ := s1.sendQ ++ [⟨s1.lead (bits r.off 52 50), a, false, false, none, none⟩] }
    let refuses (s1 : State) : Prop := sends s1 (ans s1 2 0 0 (some r) [])
    let fresh : Prop := ∀ v ∈ s.servings, v.osrc ≠ m.osrc
    (fresh → s.serveTr r = none → refuses base)
    ∧ (∀ e, fresh → s.serveTr r = some e → r.size ≤ 8 → ∀ s1,
        (base.servePart r e 0 r.size = (s1, none) → refuses s1)
        ∧ ∀ v t, base.servePart r e 0 r.size = (s1, some (v, t)) →
            sends s1 (ans s1 1 (payFlits n) (if r.sc then t else 0) none ((toBytes n v).map (·.toNat))))
    ∧ ∀ e got, (fresh ∧ got = [] ∧ s.serveTr r = some e) ∨ s.servings.find? (fun v => v.osrc == m.osrc) = some ⟨m.osrc, e, got⟩ →
        8 < r.size → got.length < r.size →
        let k := min (8 - (r.off + got.length) % 8) (r.size - got.length)
        ∀ s1,
          (base.servePart r e got.length k = (s1, none) → refuses s1)
          ∧ ∀ v t, base.servePart r e got.length k = (s1, some (v, t)) →
              (got.length + k < r.size → exec (.remoteRequest 0) s = .next { s1 with
                inReqs := s.inReqs, servings := s1.servings ++ [⟨m.osrc, e, got ++ toBytes k v⟩] })
              ∧ (got.length + k = r.size → sends s1
                  (ans s1 1 (payFlits n) (if r.sc then t else 0) none ((toBytes n (ofBytes (got ++ toBytes k v))).map (·.toNat)))))
  ∧ (∀ (s : State) (k : Nat) (m : Msg), s.inReqs[k]? = some m → (∃ x ∈ s.inReqs.take k, x.osrc = m.osrc) →
      exec (.remoteRequest k) s = .next s)
  ∧ (∀ (s : State) (o : RemOp) (rs : List Nat) (minor : Nat) (m : Msg) (rest : List Msg),
      s.awaited m = some o → o.act = .regs rs minor → minor < 9 → (s.thr o.uid o.t).exited = false → o.req.sc = false →
      let seen := State.observeAt { s with inResps := rest, remote := s.remote.erase o } o minor
      let fills (x : State → Prop) (vals : List (Nat × Word)) (i : Instr) : Prop := ∃ t, exec i s = .next t ∧ x t
        ∧ (∀ e ∈ vals, t.vAt o.uid o.t e.1 = e.2 ∧ t.isEmpty o.uid o.t e.1 = false)
        ∧ ∀ k, (∀ e ∈ vals, k ≠ vkey o.uid o.t e.1) →
            NMap.get 0 t.v k = NMap.get 0 s.v k ∧ NMap.get false t.empty k = NMap.get false s.empty k
      let flagged (b : Nat) (t : State) : Prop := (s.team o.uid).live = true →
        TeamIn s o.uid (fun tm => { tm with status := toW (withBit tm.status.toNat b) }) t
      let d := rs.headD 0
      let ones : List (Nat × Word) := match minor with
        | 0 => [(d, 0xFF)]
        | 2 => [(d, 0xFFFF)]
        | 5 => [(d, 0xFFFFFFFF), (d + 1, 0xFFFFFFFF)]
        | 6 => [(d, 0xFFFFFFFF), (d + 1, 0xFFFFFFFF), (d + 2, 0xFFFFFFFF), (d + 3, 0xFFFFFFFF)]
        | _ => [(d, 0xFFFFFFFF)]
      (s.inResps = m :: rest → fills (fun t => t = { seen with v := t.v, empty := t.empty })
        (ldVals minor d (ofBytes (m.data.map (BitVec.ofNat 8 ·)))) (.remoteResponse 0))
      ∧ (s.inRefs = m :: rest → fills (fun t => t = { s with
            inRefs := rest, remote := s.remote.erase o, v := t.v, empty := t.empty, teams := t.teams } ∧ flagged 30 t)
          ones (.remoteRefusal 0))
      ∧ (s.remote.find? (fun x => x.tag == o.tag) = some o → fills (fun t => t = { s with
            remote := s.remote.erase o, v := t.v, empty := t.empty, teams := t.teams,
            sendQ := s.sendQ.filter fun q => !(q.msg.typ == 0 && q.msg.osrc == s.pkg && q.msg.tag == o.tag) } ∧ flagged 31 t)
          ones (.remoteTimeout o.tag)))
  ∧ (∀ (s : State) (o : RemOp) (minor : Nat),
      (o.req.kind = .read → o.req.sc = false → minor ≠ 9 → (s.thr o.uid o.t).fenced = 0 → s.observeAt o minor = s)
      ∧ (o.req.kind = .write → s.observeAt o minor = s)
      ∧ ∀ w ∈ s.cwords, w.1 = s.nameOf o.va → w.2 ≤ o.req.scope → o.req.sc = true → o.req.kind = .read → 0 < o.req.size →
          s.observeAt o minor = s.refresh (s.team o.uid).core 7 0 0)
  ∧ (∀ (s : State) (o : RemOp) (place line : Nat) (m : Msg) (rest : List Msg),
      s.awaited m = some o → o.act = .fill place line → o.req.sc = false → s.inResps = m :: rest →
      let s1 : State := { s with inResps := rest, remote := s.remote.erase o }
      (s.copy place line ≠ none → exec (.remoteResponse 0) s = .next s1)
      ∧ (s.copy place line = none → o.again = true → exec (.remoteResponse 0) s
          = .next ((s1.giveUp (s.team o.uid).core o.va o.uid o.t).sendReq o.slice o.uid o.t o.dst o.req (.fill place line)))
      ∧ (s.copy place line = none → o.again = false → (s.linesAt place).length < s.copyCap place →
          exec (.remoteResponse 0) s = .next (s1.setCopy place line
            { data := toBytes 64 (ofBytes (m.data.map (BitVec.ofNat 8 ·))), dirty := List.replicate 64 false, born := o.sent, vas := [],
              who := List.replicate 64 0 })))
  ∧ (∀ (s : State) (m : Msg) (rest : List Msg), s.awaited m = none →
      (s.inResps = m :: rest → exec (.remoteResponse 0) s = .next { s with inResps := rest })
      ∧ (s.inRefs = m :: rest → exec (.remoteRefusal 0) s = .next { s with inRefs := rest }))
  ∧ ∀ (s : State) (m : Msg) (rest : List Msg), s.inAcks = m :: rest →
      let ack := NMap.get 0 s.txAck m.osrc
      let ahead := seqDist ack m.seq ≤ seqDist ack (NMap.get 0 s.txSeq m.osrc)
      (¬ ahead → exec (.acknowledgment 0) s = .next { s with inAcks := rest })
      ∧ (ahead → ∃ t, exec (.acknowledgment 0) s = .next t ∧ t = { s with inAcks := rest, txAck := t.txAck }
          ∧ NMap.get 0 t.txAck m.osrc = m.seq ∧ ∀ k, k ≠ m.osrc → NMap.get 0 t.txAck k = NMap.get 0 s.txAck k)

/-- What reset leaves: the values of the field maps (R9) of the registers that have one, no team, launch or operation, and a memory in
its canonical form. With the reset values a slot holds 53,900 flits (R314).
That memory, caches and queues are empty is the model's choice (logs 4 to 6). -/
def Obligations.ResetValues : Prop :=
  let s := State.reset
  (∀ i < 8, s.sysr 0x20 i = 100 ∧ s.sysr 0x2B i = 0xFFFE ∧ s.sysr 0x33 i = 0xFFFFF ∧ s.sysr 0x39 i = 60 ∧ s.sysr 0x22 i = 0
      ∧ s.sysr 0x25 i = 0 ∧ s.sysr 0x29 i = 0 ∧ s.sysr 0x34 i = 0)
  ∧ (∀ i < 32, s.sysr 0x19 i = 0 ∧ s.sysr 0x1B i = 0)
  ∧ s.sysr 0x50 0 = 4000 ∧ s.sysr 0x51 0 = 36 * 2 ^ 16 ∧ s.sysr 0x40 0 = 0 ∧ s.sysr 0x41 0 = 0
  ∧ s.nslot = 16 ∧ s.slotFlits = 53900 ∧ s.fabOn = false ∧ ({} : Team).area = 0x2000
  ∧ s.teams = [] ∧ s.launches = [] ∧ s.saved = [] ∧ s.entries = [] ∧ s.sendQ = [] ∧ Memory.wf s.mem = true

/-- R45, R126 to R132: the step of a quarter's issue runs the decoded instruction. Bytes at a packet whose header and word are legal
decode to the group of that one instruction; the fragment of greatest age issues it when its lanes are ready: the step is the meaning
of the instruction on the state with that issue latched, then the threads go on; a late fault of one of the gang's earlier operations,
where the group comes after them, is the step instead (log 59). An event's step is its meaning; looks at loads and code on their way
(logs 17 and 69) and the writes of engines are steps of their own. Each step counts.
The issue latch and the agenda are the model's own (log 2). -/
def Obligations.StepRunsDecoded : Prop :=
  (∀ (N pos : Nat) (more : Instr → List Nat) (line : List Byte) (i : Instr),
    let k := (pos % 64 - 4) / 12
    let w := posWord pos
    let ws := packetWords line k
    let x := ws.getD w 0
    bytesAt line 0 4 < 32 → nbit (bytesAt line 0 4) k = false → decode x (ws.getD (w + 1) 0) = .ok i → i.wf N = true →
    chained x = false → ¬ (isX x = true ∧ w = 2) → decodeAt N more line pos = .ok ([(w, i)], w + if isX x then 2 else 1))
  ∧ (∀ (s : State) (c : Issuer) (s1 : State) (line : List Byte) (w e : Nat) (i : Instr),
      let th := s.thr c.uid (c.ts.headD 0)
      th.running = none → s.fetch c.uid (c.ts.headD 0) (posPacket th.pos) = (s1, .ok line) →
      decodeAt (s.team c.uid).nreg (s1.caddyWr c) line th.pos = .ok ([(w, i)], e) →
        s.nextOf c = (s1, .ops [(w, i)] (posAfter (posPacket th.pos) e) none))
  ∧ (∀ (s : State) (core q : Nat) (rest : List Move) (c : Issuer) (cs : List Issuer) (s1 : State) (w after : Nat) (i : Instr)
      (lanes : List Nat) (t : State), s.agenda = .issue core q :: rest →
      let s0 : State := { s with agenda := rest }
      s0.issuersAt core q = c :: cs → s0.nextOf c = (s1, .ops [(w, i)] after none) → s1.turnOf c [(w, i)] false = .go lanes →
      let at_ : State := s1.latchIssue c lanes after 0 none
      (∀ d, drains [(w, i)] = true → s1.lateStop c = some d → step s = .next { d with tick := d.tick + 1 })
      ∧ (drains [(w, i)] = false ∨ s1.lateStop c = none → exec i { at_ with iss := { at_.iss with word := w } } = .next t → t.iss.stall = false →
        step s = .next { t.endIssue with tick := t.endIssue.tick + 1 }))
  ∧ (∀ (s : State) (rest : List Move) (k u pos : Nat),
      let s0 : State := { s with agenda := rest }
      let goes (m : Move) (t : State) : Prop := s.agenda = m :: rest → step s = .next { t with tick := t.tick + 1 }
      goes (.sampleLoad k) (s0.sampleLoad k) ∧ goes (.sampleCode u pos) (s0.sampleCode u pos) ∧ goes (.enginePart k) (s0.enginePart k))
  ∧ ∀ (s : State) (i : Instr) (rest : List Move) (t : State), s.agenda = .event i :: rest →
      exec i { s with agenda := rest } = .next t → step s = .next { t with tick := t.tick + 1 }

/-- The words that the encoding chapter works out to the bit decode to the instructions that it names, the chain bit apart; a word of all
zeros, and a major that no table assigns, are refused as unassigned. -/
def Obligations.WorkedWords : Prop :=
  decode 0x88080042#32 0 = .ok (.fmulF32 0 2 0 1 false false) ∧ chained 0x88080042#32 = true
  ∧ decode 0x88080052#32 0 = .ok (.fmulF32 0 2 0 1 false true)
  ∧ decode 0x500C8400#32 0 = .ok (.ldN32 3 8 false) ∧ decode 0x500C8401#32 0 = .ok (.ldN32 3 8 true)
  ∧ decode 0x1028AFFF#32 0 = .ok (.iaddi 10 10 0xFFF) ∧ decode 0x45000004#32 0 = .ok .nop
  ∧ decode 0x40FFFFFC#32 0 = .ok (.bra 0xFFFFFC) ∧ decode 0x40FFFFFB#32 0 = .ok (.bra 0xFFFFFB)
  ∧ (∀ o, decode 0#32 o = .error .unassigned) ∧ ∀ o, decode 0x7F000000#32 o = .error .unassigned

/-- Decoding gives back every instruction from its words, with every operand at every value that its encoding admits, whatever word
follows, and every well-formed instruction has words; a wrong or dropped bit of an operand, or two instructions that share a word, would make it false (R134 to R148). -/
def Obligations.DecodingInvertsEncoding : Prop :=
  (∀ i : Instr, i.RoundTrips) ∧ ∀ (i : Instr) (N : Nat), i.wf N = true → (encode i).isSome = true

/-- Every step of the machine goes on, and keeps the memory in its canonical form: no fault or refusal stops it, whatever its state.
That a move whose moment has not come changes nothing but the count is log 2, and the form of memory log 4. -/
def Obligations.StepsKeepMemory : Prop :=
  ∀ s : State, Memory.wf s.mem = true → ∃ t, step s = .next t ∧ Memory.wf t.mem = true

end
end

