-- ==== Sys2Proof/Laws/Bits.lean ====
section
/-!
SUPPORT. Fields of words put together from fields.
-/

set_option Elab.async false

namespace Sys2Proof

@[simp] theorem bit_beq (b : Bool) : (bit b == 1#1) = b := by cases b <;> rfl

@[simp] theorem extract_bit (b : Bool) : (bit b).extractLsb' 0 1 = bit b := by cases b <;> rfl

@[simp] theorem extract_word {n : Nat} (x : BitVec n) (h : n = 32) (lo k : Nat) :
    (word x h).extractLsb' lo k = x.extractLsb' lo k := by
  subst h; rfl

/-- A field that lies in the lower part of two joined fields. -/
@[simp] theorem extract_low {n m : Nat} (x : BitVec n) (y : BitVec m) (lo k : Nat) (h : lo + k ≤ m) :
    BitVec.extractLsb' lo k (@HAppend.hAppend (BitVec n) (BitVec m) (BitVec (no_index (n + m))) _ x y)
      = y.extractLsb' lo k := by
  apply BitVec.eq_of_getLsbD_eq; intro i hi
  have : lo + i < m := by omega
  simp [BitVec.getLsbD_append, this]

/-- A field that lies in the upper part of two joined fields. -/
@[simp] theorem extract_high {n m : Nat} (x : BitVec n) (y : BitVec m) (lo k : Nat) (h : m ≤ lo) :
    BitVec.extractLsb' lo k (@HAppend.hAppend (BitVec n) (BitVec m) (BitVec (no_index (n + m))) _ x y)
      = x.extractLsb' (lo - m) k := by
  apply BitVec.eq_of_getLsbD_eq; intro i hi
  have : ¬ (lo + i < m) := by omega
  have e : lo + i - m = lo - m + i := by omega
  simp [BitVec.getLsbD_append, this, e]

@[simp] theorem bit_false : bit false = 0#1 := rfl

/-- A field of zeros that spans two joined fields. -/
@[simp] theorem zero_across {n m : Nat} (x : BitVec n) (y : BitVec m) (lo k : Nat) (h : lo < m) (h' : m < lo + k) :
    (BitVec.extractLsb' lo k (@HAppend.hAppend (BitVec n) (BitVec m) (BitVec (no_index (n + m))) _ x y) == 0#k)
      = (x.extractLsb' 0 (lo + k - m) == 0#(lo + k - m) && y.extractLsb' lo (m - lo) == 0#(m - lo)) := by
  rw [Bool.eq_iff_iff]
  simp only [beq_iff_eq, Bool.and_eq_true]
  constructor
  · intro e
    constructor <;> apply BitVec.eq_of_getLsbD_eq <;> intro i hi
    · have := congrArg (fun z => z.getLsbD (i + (m - lo))) e
      have q : lo + (i + (m - lo)) = m + i := by omega
      have q' : i + (m - lo) < k := by omega
      simpa [BitVec.getLsbD_append, q, q', hi] using this
    · have := congrArg (fun z => z.getLsbD i) e
      have q' : i < k := by omega
      have q'' : lo + i < m := by omega
      simpa [BitVec.getLsbD_append, q', q'', hi] using this
  · rintro ⟨e, e'⟩
    apply BitVec.eq_of_getLsbD_eq; intro i hi
    by_cases q : lo + i < m
    · have := congrArg (fun z => z.getLsbD i) e'
      have q' : i < m - lo := by omega
      simpa [BitVec.getLsbD_append, q, q', hi] using this
    · have := congrArg (fun z => z.getLsbD (lo + i - m)) e
      have q' : lo + i - m < lo + k - m := by omega
      simpa [BitVec.getLsbD_append, q, q', hi] using this

theorem two_cases : ∀ c : BitVec 2, c = 0 ∨ c = 1 ∨ c = 2 ∨ c = 3 := by decide

/-! The fields of the formats. -/

section
variable (m : BitVec 8) (d a b t : BitVec 6) (pa pb : Bool) (n s x : BitVec 4) (i : BitVec 12) (f : BitVec 24)
  (e g h : UReg) (q : BitVec 9)

@[simp] theorem packA_24_7 : (packA m d a b pa pb n).extractLsb' 24 7 = m.extractLsb' 0 7 := by simp [packA]
@[simp] theorem packA_31_1 : (packA m d a b pa pb n).extractLsb' 31 1 = m.extractLsb' 7 1 := by simp [packA]
@[simp] theorem packA_18_6 : (packA m d a b pa pb n).extractLsb' 18 6 = d := by simp [packA]
@[simp] theorem packA_12_6 : (packA m d a b pa pb n).extractLsb' 12 6 = a := by simp [packA]
@[simp] theorem packA_6_6 : (packA m d a b pa pb n).extractLsb' 6 6 = b := by simp [packA]
@[simp] theorem packA_5_1 : (packA m d a b pa pb n).extractLsb' 5 1 = bit pa := by simp [packA]
@[simp] theorem packA_4_1 : (packA m d a b pa pb n).extractLsb' 4 1 = bit pb := by simp [packA]
@[simp] theorem packA_0_4 : (packA m d a b pa pb n).extractLsb' 0 4 = n := by simp [packA]
@[simp] theorem packA_23_1 : (packA m d a b pa pb n).extractLsb' 23 1 = d.extractLsb' 5 1 := by simp [packA]
@[simp] theorem packA_17_1 : (packA m d a b pa pb n).extractLsb' 17 1 = a.extractLsb' 5 1 := by simp [packA]
@[simp] theorem packA_11_1 : (packA m d a b pa pb n).extractLsb' 11 1 = b.extractLsb' 5 1 := by simp [packA]
@[simp] theorem packA_18_5 : (packA m d a b pa pb n).extractLsb' 18 5 = d.extractLsb' 0 5 := by simp [packA]
@[simp] theorem packA_12_5 : (packA m d a b pa pb n).extractLsb' 12 5 = a.extractLsb' 0 5 := by simp [packA]
@[simp] theorem packA_6_5 : (packA m d a b pa pb n).extractLsb' 6 5 = b.extractLsb' 0 5 := by simp [packA]
@[simp] theorem packA_zero_4_2 : ((packA m d a b pa pb n).extractLsb' 4 2 == 0#2) = (bit pa == 0#1 && bit pb == 0#1) := by
  simp [packA, Bool.and_assoc]
@[simp] theorem packA_zero_4_8 : ((packA m d a b pa pb n).extractLsb' 4 8 == 0#8) = (b == 0#6 && bit pa == 0#1 && bit pb == 0#1) := by
  simp [packA, Bool.and_assoc]
@[simp] theorem packA_zero_4_14 : ((packA m d a b pa pb n).extractLsb' 4 14 == 0#14) = (a == 0#6 && b == 0#6 && bit pa == 0#1 && bit pb == 0#1) := by
  simp [packA, Bool.and_assoc]
@[simp] theorem packA_zero_4_20 : ((packA m d a b pa pb n).extractLsb' 4 20 == 0#20) = (d == 0#6 && a == 0#6 && b == 0#6 && bit pa == 0#1 && bit pb == 0#1) := by
  simp [packA, Bool.and_assoc]
@[simp] theorem packM_24_7 : (packM m t a n s x).extractLsb' 24 7 = m.extractLsb' 0 7 := by simp [packM]
@[simp] theorem packM_31_1 : (packM m t a n s x).extractLsb' 31 1 = m.extractLsb' 7 1 := by simp [packM]
@[simp] theorem packM_18_6 : (packM m t a n s x).extractLsb' 18 6 = t := by simp [packM]
@[simp] theorem packM_12_6 : (packM m t a n s x).extractLsb' 12 6 = a := by simp [packM]
@[simp] theorem packM_8_4 : (packM m t a n s x).extractLsb' 8 4 = n := by simp [packM]
@[simp] theorem packM_4_4 : (packM m t a n s x).extractLsb' 4 4 = s := by simp [packM]
@[simp] theorem packM_0_4 : (packM m t a n s x).extractLsb' 0 4 = x := by simp [packM]
@[simp] theorem packM_23_1 : (packM m t a n s x).extractLsb' 23 1 = t.extractLsb' 5 1 := by simp [packM]
@[simp] theorem packM_18_5 : (packM m t a n s x).extractLsb' 18 5 = t.extractLsb' 0 5 := by simp [packM]
@[simp] theorem packM_0_1 : (packM m t a n s x).extractLsb' 0 1 = x.extractLsb' 0 1 := by simp [packM]
@[simp] theorem packM_3_1 : (packM m t a n s x).extractLsb' 3 1 = x.extractLsb' 3 1 := by simp [packM]
@[simp] theorem packM_0_2 : (packM m t a n s x).extractLsb' 0 2 = x.extractLsb' 0 2 := by simp [packM]
@[simp] theorem packM_2_2 : (packM m t a n s x).extractLsb' 2 2 = x.extractLsb' 2 2 := by simp [packM]
@[simp] theorem packM_0_3 : (packM m t a n s x).extractLsb' 0 3 = x.extractLsb' 0 3 := by simp [packM]
@[simp] theorem packM_zero_1_7 : ((packM m t a n s x).extractLsb' 1 7 == 0#7) = (s == 0#4 && x.extractLsb' 1 3 == 0#3) := by
  simp [packM, Bool.and_assoc]
@[simp] theorem packM_zero_2_6 : ((packM m t a n s x).extractLsb' 2 6 == 0#6) = (s == 0#4 && x.extractLsb' 2 2 == 0#2) := by
  simp [packM, Bool.and_assoc]
@[simp] theorem packM_zero_0_8 : ((packM m t a n s x).extractLsb' 0 8 == 0#8) = (s == 0#4 && x == 0#4) := by
  simp [packM, Bool.and_assoc]
@[simp] theorem packM_zero_12_12 : ((packM m t a n s x).extractLsb' 12 12 == 0#12) = (t == 0#6 && a == 0#6) := by
  simp [packM, Bool.and_assoc]
@[simp] theorem packI_24_7 : (packI m d a i).extractLsb' 24 7 = m.extractLsb' 0 7 := by simp [packI]
@[simp] theorem packI_31_1 : (packI m d a i).extractLsb' 31 1 = m.extractLsb' 7 1 := by simp [packI]
@[simp] theorem packI_18_6 : (packI m d a i).extractLsb' 18 6 = d := by simp [packI]
@[simp] theorem packI_12_6 : (packI m d a i).extractLsb' 12 6 = a := by simp [packI]
@[simp] theorem packI_0_12 : (packI m d a i).extractLsb' 0 12 = i := by simp [packI]
@[simp] theorem packI_5_7 : (packI m d a i).extractLsb' 5 7 = i.extractLsb' 5 7 := by simp [packI]
@[simp] theorem packI_0_5 : (packI m d a i).extractLsb' 0 5 = i.extractLsb' 0 5 := by simp [packI]
@[simp] theorem packJ_24_7 : (packJ m f).extractLsb' 24 7 = m.extractLsb' 0 7 := by simp [packJ]
@[simp] theorem packJ_31_1 : (packJ m f).extractLsb' 31 1 = m.extractLsb' 7 1 := by simp [packJ]
@[simp] theorem packJ_0_24 : (packJ m f).extractLsb' 0 24 = f := by simp [packJ]
@[simp] theorem packU_24_7 : (packU e g n h).extractLsb' 24 7 = 40#7 := by simp [packU]
@[simp] theorem packU_31_1 : (packU e g n h).extractLsb' 31 1 = 0#1 := by simp [packU]
@[simp] theorem packU_19_5 : (packU e g n h).extractLsb' 19 5 = e := by simp [packU]
@[simp] theorem packU_14_5 : (packU e g n h).extractLsb' 14 5 = g := by simp [packU]
@[simp] theorem packU_13_1 : (packU e g n h).extractLsb' 13 1 = 0#1 := by simp [packU]
@[simp] theorem packU_9_4 : (packU e g n h).extractLsb' 9 4 = n := by simp [packU]
@[simp] theorem packU_4_5 : (packU e g n h).extractLsb' 4 5 = h := by simp [packU]
@[simp] theorem packU_0_4 : (packU e g n h).extractLsb' 0 4 = 0#4 := by simp [packU]
@[simp] theorem packUI_24_7 : (packUI e g n q).extractLsb' 24 7 = 40#7 := by simp [packUI]
@[simp] theorem packUI_31_1 : (packUI e g n q).extractLsb' 31 1 = 0#1 := by simp [packUI]
@[simp] theorem packUI_19_5 : (packUI e g n q).extractLsb' 19 5 = e := by simp [packUI]
@[simp] theorem packUI_14_5 : (packUI e g n q).extractLsb' 14 5 = g := by simp [packUI]
@[simp] theorem packUI_13_1 : (packUI e g n q).extractLsb' 13 1 = 1#1 := by simp [packUI]
@[simp] theorem packUI_9_4 : (packUI e g n q).extractLsb' 9 4 = n := by simp [packUI]
@[simp] theorem packUI_0_9 : (packUI e g n q).extractLsb' 0 9 = q := by simp [packUI]

end

/-! The opcode map, major by major. -/

theorem decode_01 {w o : BitVec 32} (h : fMaj w = 0x01) : decode w o = dec01 w := by simp [decode, h]
theorem isX_01 {w : BitVec 32} (h : fMaj w = 0x01) : isX w = false := by simp [isX, h]
theorem decode_02 {w o : BitVec 32} (h : fMaj w = 0x02) : decode w o = dec02 w := by simp [decode, h]
theorem isX_02 {w : BitVec 32} (h : fMaj w = 0x02) : isX w = false := by simp [isX, h]
theorem decode_03 {w o : BitVec 32} (h : fMaj w = 0x03) : decode w o = dec03 w := by simp [decode, h]
theorem isX_03 {w : BitVec 32} (h : fMaj w = 0x03) : isX w = false := by simp [isX, h]
theorem decode_04 {w o : BitVec 32} (h : fMaj w = 0x04) : decode w o = decCc 0 w := by simp [decode, h]
theorem isX_04 {w : BitVec 32} (h : fMaj w = 0x04) : isX w = false := by simp [isX, h]
theorem decode_05 {w o : BitVec 32} (h : fMaj w = 0x05) : decode w o = decCc 1 w := by simp [decode, h]
theorem isX_05 {w : BitVec 32} (h : fMaj w = 0x05) : isX w = false := by simp [isX, h]
theorem decode_06 {w o : BitVec 32} (h : fMaj w = 0x06) : decode w o = decCc 2 w := by simp [decode, h]
theorem isX_06 {w : BitVec 32} (h : fMaj w = 0x06) : isX w = false := by simp [isX, h]
theorem decode_07 {w o : BitVec 32} (h : fMaj w = 0x07) : decode w o = decCc 3 w := by simp [decode, h]
theorem isX_07 {w : BitVec 32} (h : fMaj w = 0x07) : isX w = false := by simp [isX, h]
theorem decode_08 {w o : BitVec 32} (h : fMaj w = 0x08) : decode w o = decFp 0 w := by simp [decode, h]
theorem isX_08 {w : BitVec 32} (h : fMaj w = 0x08) : isX w = false := by simp [isX, h]
theorem decode_09 {w o : BitVec 32} (h : fMaj w = 0x09) : decode w o = decFp 1 w := by simp [decode, h]
theorem isX_09 {w : BitVec 32} (h : fMaj w = 0x09) : isX w = false := by simp [isX, h]
theorem decode_0A {w o : BitVec 32} (h : fMaj w = 0x0A) : decode w o = decFp 2 w := by simp [decode, h]
theorem isX_0A {w : BitVec 32} (h : fMaj w = 0x0A) : isX w = false := by simp [isX, h]
theorem decode_0B {w o : BitVec 32} (h : fMaj w = 0x0B) : decode w o = decFp 3 w := by simp [decode, h]
theorem isX_0B {w : BitVec 32} (h : fMaj w = 0x0B) : isX w = false := by simp [isX, h]
theorem decode_0C {w o : BitVec 32} (h : fMaj w = 0x0C) : decode w o = dec0C w := by simp [decode, h]
theorem isX_0C {w : BitVec 32} (h : fMaj w = 0x0C) : isX w = false := by simp [isX, h]
theorem decode_10 {w o : BitVec 32} (h : fMaj w = 0x10) : decode w o = decI 0 w := by simp [decode, h]
theorem isX_10 {w : BitVec 32} (h : fMaj w = 0x10) : isX w = false := by simp [isX, h]
theorem decode_11 {w o : BitVec 32} (h : fMaj w = 0x11) : decode w o = decI 1 w := by simp [decode, h]
theorem isX_11 {w : BitVec 32} (h : fMaj w = 0x11) : isX w = false := by simp [isX, h]
theorem decode_12 {w o : BitVec 32} (h : fMaj w = 0x12) : decode w o = decI 2 w := by simp [decode, h]
theorem isX_12 {w : BitVec 32} (h : fMaj w = 0x12) : isX w = false := by simp [isX, h]
theorem decode_13 {w o : BitVec 32} (h : fMaj w = 0x13) : decode w o = decI 3 w := by simp [decode, h]
theorem isX_13 {w : BitVec 32} (h : fMaj w = 0x13) : isX w = false := by simp [isX, h]
theorem decode_14 {w o : BitVec 32} (h : fMaj w = 0x14) : decode w o = decI 4 w := by simp [decode, h]
theorem isX_14 {w : BitVec 32} (h : fMaj w = 0x14) : isX w = false := by simp [isX, h]
theorem decode_15 {w o : BitVec 32} (h : fMaj w = 0x15) : decode w o = decI 5 w := by simp [decode, h]
theorem isX_15 {w : BitVec 32} (h : fMaj w = 0x15) : isX w = false := by simp [isX, h]
theorem decode_16 {w o : BitVec 32} (h : fMaj w = 0x16) : decode w o = decI 6 w := by simp [decode, h]
theorem isX_16 {w : BitVec 32} (h : fMaj w = 0x16) : isX w = false := by simp [isX, h]
theorem decode_20 {w o : BitVec 32} (h : fMaj w = 0x20) : decode w o = dec20 w := by simp [decode, h]
theorem isX_20 {w : BitVec 32} (h : fMaj w = 0x20) : isX w = false := by simp [isX, h]
theorem decode_21 {w o : BitVec 32} (h : fMaj w = 0x21) : decode w o = dec21 w o := by simp [decode, h]
theorem isX_21 {w : BitVec 32} (h : fMaj w = 0x21) : isX w = true := by simp [isX, h]
theorem decode_22 {w o : BitVec 32} (h : fMaj w = 0x22) : decode w o = dec22 w := by simp [decode, h]
theorem isX_22 {w : BitVec 32} (h : fMaj w = 0x22) : isX w = false := by simp [isX, h]
theorem decode_23 {w o : BitVec 32} (h : fMaj w = 0x23) : decode w o = dec23 w o := by simp [decode, h]
theorem isX_23 {w : BitVec 32} (h : fMaj w = 0x23) : isX w = true := by simp [isX, h]
theorem decode_24 {w o : BitVec 32} (h : fMaj w = 0x24) : decode w o = dec24 w := by simp [decode, h]
theorem isX_24 {w : BitVec 32} (h : fMaj w = 0x24) : isX w = false := by simp [isX, h]
theorem decode_28 {w o : BitVec 32} (h : fMaj w = 0x28) : decode w o = dec28 w := by simp [decode, h]
theorem isX_28 {w : BitVec 32} (h : fMaj w = 0x28) : isX w = false := by simp [isX, h]
theorem decode_40 {w o : BitVec 32} (h : fMaj w = 0x40) : decode w o = .ok (.bra (w.extractLsb' 0 24)) := by simp [decode, h]
theorem isX_40 {w : BitVec 32} (h : fMaj w = 0x40) : isX w = false := by simp [isX, h]
theorem decode_41 {w o : BitVec 32} (h : fMaj w = 0x41) : decode w o = .ok (.call (w.extractLsb' 0 24)) := by simp [decode, h]
theorem isX_41 {w : BitVec 32} (h : fMaj w = 0x41) : isX w = false := by simp [isX, h]
theorem decode_42 {w o : BitVec 32} (h : fMaj w = 0x42) : decode w o = dec42 w o := by simp [decode, h]
theorem isX_42 {w : BitVec 32} (h : fMaj w = 0x42) : isX w = true := by simp [isX, h]
theorem decode_43 {w o : BitVec 32} (h : fMaj w = 0x43) : decode w o = dec43 w o := by simp [decode, h]
theorem isX_43 {w : BitVec 32} (h : fMaj w = 0x43) : isX w = true := by simp [isX, h]
theorem decode_44 {w o : BitVec 32} (h : fMaj w = 0x44) : decode w o = dec44 w o := by simp [decode, h]
theorem isX_44 {w : BitVec 32} (h : fMaj w = 0x44) : isX w = true := by simp [isX, h]
theorem decode_45 {w o : BitVec 32} (h : fMaj w = 0x45) : decode w o = dec45 w := by simp [decode, h]
theorem isX_45 {w : BitVec 32} (h : fMaj w = 0x45) : isX w = false := by simp [isX, h]
theorem decode_50 {w o : BitVec 32} (h : fMaj w = 0x50) : decode w o = dec50 w := by simp [decode, h]
theorem isX_50 {w : BitVec 32} (h : fMaj w = 0x50) : isX w = false := by simp [isX, h]
theorem decode_51 {w o : BitVec 32} (h : fMaj w = 0x51) : decode w o = dec51 w := by simp [decode, h]
theorem isX_51 {w : BitVec 32} (h : fMaj w = 0x51) : isX w = false := by simp [isX, h]
theorem decode_52 {w o : BitVec 32} (h : fMaj w = 0x52) : decode w o = dec52 w := by simp [decode, h]
theorem isX_52 {w : BitVec 32} (h : fMaj w = 0x52) : isX w = false := by simp [isX, h]
theorem decode_53 {w o : BitVec 32} (h : fMaj w = 0x53) : decode w o = dec53 w := by simp [decode, h]
theorem isX_53 {w : BitVec 32} (h : fMaj w = 0x53) : isX w = false := by simp [isX, h]
theorem decode_54 {w o : BitVec 32} (h : fMaj w = 0x54) : decode w o = dec54 w := by simp [decode, h]
theorem isX_54 {w : BitVec 32} (h : fMaj w = 0x54) : isX w = false := by simp [isX, h]
theorem decode_55 {w o : BitVec 32} (h : fMaj w = 0x55) : decode w o = dec55 w := by simp [decode, h]
theorem isX_55 {w : BitVec 32} (h : fMaj w = 0x55) : isX w = false := by simp [isX, h]
theorem decode_56 {w o : BitVec 32} (h : fMaj w = 0x56) : decode w o = dec56 w o := by simp [decode, h]
theorem isX_56 {w : BitVec 32} (h : fMaj w = 0x56) : isX w = true := by simp [isX, h]
theorem decode_58 {w o : BitVec 32} (h : fMaj w = 0x58) : decode w o = dec58 w := by simp [decode, h]
theorem isX_58 {w : BitVec 32} (h : fMaj w = 0x58) : isX w = false := by simp [isX, h]
theorem decode_59 {w o : BitVec 32} (h : fMaj w = 0x59) : decode w o = dec59 w o := by simp [decode, h]
theorem isX_59 {w : BitVec 32} (h : fMaj w = 0x59) : isX w = true := by simp [isX, h]
theorem decode_70 {w o : BitVec 32} (h : fMaj w = 0x70) : decode w o = dec70 w o := by simp [decode, h]
theorem isX_70 {w : BitVec 32} (h : fMaj w = 0x70) : isX w = true := by simp [isX, h]
theorem decode_71 {w o : BitVec 32} (h : fMaj w = 0x71) : decode w o = dec71 w o := by simp [decode, h]
theorem isX_71 {w : BitVec 32} (h : fMaj w = 0x71) : isX w = true := by simp [isX, h]
theorem decode_72 {w o : BitVec 32} (h : fMaj w = 0x72) : decode w o = dec72 w o := by simp [decode, h]
theorem isX_72 {w : BitVec 32} (h : fMaj w = 0x72) : isX w = true := by simp [isX, h]
theorem decode_73 {w o : BitVec 32} (h : fMaj w = 0x73) : decode w o = dec73 w o := by simp [decode, h]
theorem isX_73 {w : BitVec 32} (h : fMaj w = 0x73) : isX w = true := by simp [isX, h]
theorem decode_74 {w o : BitVec 32} (h : fMaj w = 0x74) : decode w o = dec74 w := by simp [decode, h]
theorem isX_74 {w : BitVec 32} (h : fMaj w = 0x74) : isX w = false := by simp [isX, h]
theorem decode_75 {w o : BitVec 32} (h : fMaj w = 0x75) : decode w o = dec75 w o := by simp [decode, h]
theorem isX_75 {w : BitVec 32} (h : fMaj w = 0x75) : isX w = true := by simp [isX, h]
theorem decode_76 {w o : BitVec 32} (h : fMaj w = 0x76) : decode w o = dec76 w o := by simp [decode, h]
theorem isX_76 {w : BitVec 32} (h : fMaj w = 0x76) : isX w = true := by simp [isX, h]
theorem decode_77 {w o : BitVec 32} (h : fMaj w = 0x77) : decode w o = dec77 w o := by simp [decode, h]
theorem isX_77 {w : BitVec 32} (h : fMaj w = 0x77) : isX w = true := by simp [isX, h]
theorem decode_78 {w o : BitVec 32} (h : fMaj w = 0x78) : decode w o = dec78 w o := by simp [decode, h]
theorem isX_78 {w : BitVec 32} (h : fMaj w = 0x78) : isX w = true := by simp [isX, h]

end Sys2Proof
end

