-- ==== Sys2Proof/Laws/Exec.lean ====
section
/-!
SUPPORT. What `exec` calls for each instruction and event.
-/

set_option linter.unusedVariables false

namespace Sys2Proof.Machine

open Sys2Proof

@[simp] theorem exec_iadd (d : VReg) (a : VReg) (b : VReg) (x3 : Bool) (x4 : Bool) (s : State) :
    exec (.iadd d a b x3 x4) s = execIadd d a b s := rfl
@[simp] theorem exec_isub (d : VReg) (a : VReg) (b : VReg) (x3 : Bool) (x4 : Bool) (s : State) :
    exec (.isub d a b x3 x4) s = execIsub d a b s := rfl
@[simp] theorem exec_iaddx (d : VReg) (a : VReg) (b : VReg) (x3 : Bool) (x4 : Bool) (s : State) :
    exec (.iaddx d a b x3 x4) s = execIaddx d a b s := rfl
@[simp] theorem exec_isubx (d : VReg) (a : VReg) (b : VReg) (x3 : Bool) (x4 : Bool) (s : State) :
    exec (.isubx d a b x3 x4) s = execIsubx d a b s := rfl
@[simp] theorem exec_imul (d : VReg) (a : VReg) (b : VReg) (x3 : Bool) (x4 : Bool) (s : State) :
    exec (.imul d a b x3 x4) s = execImul d a b s := rfl
@[simp] theorem exec_imulhI32 (d : VReg) (a : VReg) (b : VReg) (x3 : Bool) (x4 : Bool) (s : State) :
    exec (.imulhI32 d a b x3 x4) s = execImulhI32 d a b s := rfl
@[simp] theorem exec_imulhN32 (d : VReg) (a : VReg) (b : VReg) (x3 : Bool) (x4 : Bool) (s : State) :
    exec (.imulhN32 d a b x3 x4) s = execImulhN32 d a b s := rfl
@[simp] theorem exec_iminI32 (d : VReg) (a : VReg) (b : VReg) (x3 : Bool) (x4 : Bool) (s : State) :
    exec (.iminI32 d a b x3 x4) s = execIminI32 d a b s := rfl
@[simp] theorem exec_iminN32 (d : VReg) (a : VReg) (b : VReg) (x3 : Bool) (x4 : Bool) (s : State) :
    exec (.iminN32 d a b x3 x4) s = execIminN32 d a b s := rfl
@[simp] theorem exec_imaxI32 (d : VReg) (a : VReg) (b : VReg) (x3 : Bool) (x4 : Bool) (s : State) :
    exec (.imaxI32 d a b x3 x4) s = execImaxI32 d a b s := rfl
@[simp] theorem exec_imaxN32 (d : VReg) (a : VReg) (b : VReg) (x3 : Bool) (x4 : Bool) (s : State) :
    exec (.imaxN32 d a b x3 x4) s = execImaxN32 d a b s := rfl
@[simp] theorem exec_iaddsI32 (d : VReg) (a : VReg) (b : VReg) (x3 : Bool) (x4 : Bool) (s : State) :
    exec (.iaddsI32 d a b x3 x4) s = execIaddsI32 d a b s := rfl
@[simp] theorem exec_iaddCc (c : BitVec 2) (d : VReg) (a : VReg) (b : VReg) (x4 : Bool) (x5 : Bool) (s : State) :
    exec (.iaddCc c d a b x4 x5) s = execIaddCc c d a b s := rfl
@[simp] theorem exec_isubCc (c : BitVec 2) (d : VReg) (a : VReg) (b : VReg) (x4 : Bool) (x5 : Bool) (s : State) :
    exec (.isubCc c d a b x4 x5) s = execIsubCc c d a b s := rfl
@[simp] theorem exec_iaddxCc (c : BitVec 2) (d : VReg) (a : VReg) (b : VReg) (x4 : Bool) (x5 : Bool) (s : State) :
    exec (.iaddxCc c d a b x4 x5) s = execIaddxCc c d a b s := rfl
@[simp] theorem exec_isubxCc (c : BitVec 2) (d : VReg) (a : VReg) (b : VReg) (x4 : Bool) (x5 : Bool) (s : State) :
    exec (.isubxCc c d a b x4 x5) s = execIsubxCc c d a b s := rfl
@[simp] theorem exec_imulCc (c : BitVec 2) (d : VReg) (a : VReg) (b : VReg) (x4 : Bool) (x5 : Bool) (s : State) :
    exec (.imulCc c d a b x4 x5) s = execImulCc c d a b s := rfl
@[simp] theorem exec_imulhI32Cc (c : BitVec 2) (d : VReg) (a : VReg) (b : VReg) (x4 : Bool) (x5 : Bool) (s : State) :
    exec (.imulhI32Cc c d a b x4 x5) s = execImulhI32Cc c d a b s := rfl
@[simp] theorem exec_imulhN32Cc (c : BitVec 2) (d : VReg) (a : VReg) (b : VReg) (x4 : Bool) (x5 : Bool) (s : State) :
    exec (.imulhN32Cc c d a b x4 x5) s = execImulhN32Cc c d a b s := rfl
@[simp] theorem exec_iminI32Cc (c : BitVec 2) (d : VReg) (a : VReg) (b : VReg) (x4 : Bool) (x5 : Bool) (s : State) :
    exec (.iminI32Cc c d a b x4 x5) s = execIminI32Cc c d a b s := rfl
@[simp] theorem exec_iminN32Cc (c : BitVec 2) (d : VReg) (a : VReg) (b : VReg) (x4 : Bool) (x5 : Bool) (s : State) :
    exec (.iminN32Cc c d a b x4 x5) s = execIminN32Cc c d a b s := rfl
@[simp] theorem exec_imaxI32Cc (c : BitVec 2) (d : VReg) (a : VReg) (b : VReg) (x4 : Bool) (x5 : Bool) (s : State) :
    exec (.imaxI32Cc c d a b x4 x5) s = execImaxI32Cc c d a b s := rfl
@[simp] theorem exec_imaxN32Cc (c : BitVec 2) (d : VReg) (a : VReg) (b : VReg) (x4 : Bool) (x5 : Bool) (s : State) :
    exec (.imaxN32Cc c d a b x4 x5) s = execImaxN32Cc c d a b s := rfl
@[simp] theorem exec_iaddsI32Cc (c : BitVec 2) (d : VReg) (a : VReg) (b : VReg) (x4 : Bool) (x5 : Bool) (s : State) :
    exec (.iaddsI32Cc c d a b x4 x5) s = execIaddsI32Cc c d a b s := rfl
@[simp] theorem exec_icmp (c : BitVec 2) (a : VReg) (b : VReg) (x3 : Bool) (x4 : Bool) (s : State) :
    exec (.icmp c a b x3 x4) s = execIcmp c a b s := rfl
@[simp] theorem exec_fcmpF32 (c : BitVec 2) (a : VReg) (b : VReg) (x3 : Bool) (x4 : Bool) (s : State) :
    exec (.fcmpF32 c a b x3 x4) s = execFcmpF32 c a b s := rfl
@[simp] theorem exec_iadd64 (d : VReg) (a : VReg) (b : VReg) (x3 : Bool) (x4 : Bool) (s : State) :
    exec (.iadd64 d a b x3 x4) s = execIadd64 d a b s := rfl
@[simp] theorem exec_isub64 (d : VReg) (a : VReg) (b : VReg) (x3 : Bool) (x4 : Bool) (s : State) :
    exec (.isub64 d a b x3 x4) s = execIsub64 d a b s := rfl
@[simp] theorem exec_addr (d : VReg) (a : VReg) (b : VReg) (x3 : Bool) (x4 : Bool) (s : State) :
    exec (.addr d a b x3 x4) s = execAddr d a b s := rfl
@[simp] theorem exec_and (d : VReg) (a : VReg) (b : VReg) (x3 : Bool) (x4 : Bool) (s : State) :
    exec (.and d a b x3 x4) s = execAnd d a b s := rfl
@[simp] theorem exec_or (d : VReg) (a : VReg) (b : VReg) (x3 : Bool) (x4 : Bool) (s : State) :
    exec (.or d a b x3 x4) s = execOr d a b s := rfl
@[simp] theorem exec_xor (d : VReg) (a : VReg) (b : VReg) (x3 : Bool) (x4 : Bool) (s : State) :
    exec (.xor d a b x3 x4) s = execXor d a b s := rfl
@[simp] theorem exec_shl (d : VReg) (a : VReg) (b : VReg) (x3 : Bool) (x4 : Bool) (s : State) :
    exec (.shl d a b x3 x4) s = execShl d a b s := rfl
@[simp] theorem exec_shrN32 (d : VReg) (a : VReg) (b : VReg) (x3 : Bool) (x4 : Bool) (s : State) :
    exec (.shrN32 d a b x3 x4) s = execShrN32 d a b s := rfl
@[simp] theorem exec_shrI32 (d : VReg) (a : VReg) (b : VReg) (x3 : Bool) (x4 : Bool) (s : State) :
    exec (.shrI32 d a b x3 x4) s = execShrI32 d a b s := rfl
@[simp] theorem exec_popc (d : VReg) (a : VReg) (x2 : Bool) (s : State) :
    exec (.popc d a x2) s = execPopc d a s := rfl
@[simp] theorem exec_clz (d : VReg) (a : VReg) (x2 : Bool) (s : State) :
    exec (.clz d a x2) s = execClz d a s := rfl
@[simp] theorem exec_bfx (d : VReg) (a : VReg) (b : VReg) (x3 : Bool) (x4 : Bool) (s : State) :
    exec (.bfx d a b x3 x4) s = execBfx d a b s := rfl
@[simp] theorem exec_bfi (d : VReg) (a : VReg) (b : VReg) (x3 : Bool) (x4 : Bool) (s : State) :
    exec (.bfi d a b x3 x4) s = execBfi d a b s := rfl
@[simp] theorem exec_iaddi (d : VReg) (a : VReg) (imm : BitVec 12) (s : State) :
    exec (.iaddi d a imm) s = execIaddi d a imm s := rfl
@[simp] theorem exec_andi (d : VReg) (a : VReg) (imm : BitVec 12) (s : State) :
    exec (.andi d a imm) s = execAndi d a imm s := rfl
@[simp] theorem exec_ori (d : VReg) (a : VReg) (imm : BitVec 12) (s : State) :
    exec (.ori d a imm) s = execOri d a imm s := rfl
@[simp] theorem exec_xori (d : VReg) (a : VReg) (imm : BitVec 12) (s : State) :
    exec (.xori d a imm) s = execXori d a imm s := rfl
@[simp] theorem exec_shli (d : VReg) (a : VReg) (imm : BitVec 5) (s : State) :
    exec (.shli d a imm) s = execShli d a imm s := rfl
@[simp] theorem exec_shri (d : VReg) (a : VReg) (imm : BitVec 5) (s : State) :
    exec (.shri d a imm) s = execShri d a imm s := rfl
@[simp] theorem exec_movi (d : VReg) (imm : BitVec 12) (s : State) :
    exec (.movi d imm) s = execMovi d imm s := rfl
@[simp] theorem exec_faddF32 (r : BitVec 2) (d : VReg) (a : VReg) (b : VReg) (x4 : Bool) (x5 : Bool) (s : State) :
    exec (.faddF32 r d a b x4 x5) s = execFaddF32 r d a b s := rfl
@[simp] theorem exec_fsubF32 (r : BitVec 2) (d : VReg) (a : VReg) (b : VReg) (x4 : Bool) (x5 : Bool) (s : State) :
    exec (.fsubF32 r d a b x4 x5) s = execFsubF32 r d a b s := rfl
@[simp] theorem exec_fmulF32 (r : BitVec 2) (d : VReg) (a : VReg) (b : VReg) (x4 : Bool) (x5 : Bool) (s : State) :
    exec (.fmulF32 r d a b x4 x5) s = execFmulF32 r d a b s := rfl
@[simp] theorem exec_ffmaF32 (r : BitVec 2) (d : VReg) (a : VReg) (b : VReg) (x4 : Bool) (x5 : Bool) (s : State) :
    exec (.ffmaF32 r d a b x4 x5) s = execFfmaF32 r d a b s := rfl
@[simp] theorem exec_faddF16x2 (r : BitVec 2) (d : VReg) (a : VReg) (b : VReg) (x4 : Bool) (x5 : Bool) (s : State) :
    exec (.faddF16x2 r d a b x4 x5) s = execFaddF16x2 r d a b s := rfl
@[simp] theorem exec_fmulF16x2 (r : BitVec 2) (d : VReg) (a : VReg) (b : VReg) (x4 : Bool) (x5 : Bool) (s : State) :
    exec (.fmulF16x2 r d a b x4 x5) s = execFmulF16x2 r d a b s := rfl
@[simp] theorem exec_ffmaF16x2 (r : BitVec 2) (d : VReg) (a : VReg) (b : VReg) (x4 : Bool) (x5 : Bool) (s : State) :
    exec (.ffmaF16x2 r d a b x4 x5) s = execFfmaF16x2 r d a b s := rfl
@[simp] theorem exec_faddBf16x2 (r : BitVec 2) (d : VReg) (a : VReg) (b : VReg) (x4 : Bool) (x5 : Bool) (s : State) :
    exec (.faddBf16x2 r d a b x4 x5) s = execFaddBf16x2 r d a b s := rfl
@[simp] theorem exec_fmulBf16x2 (r : BitVec 2) (d : VReg) (a : VReg) (b : VReg) (x4 : Bool) (x5 : Bool) (s : State) :
    exec (.fmulBf16x2 r d a b x4 x5) s = execFmulBf16x2 r d a b s := rfl
@[simp] theorem exec_ffmaBf16x2 (r : BitVec 2) (d : VReg) (a : VReg) (b : VReg) (x4 : Bool) (x5 : Bool) (s : State) :
    exec (.ffmaBf16x2 r d a b x4 x5) s = execFfmaBf16x2 r d a b s := rfl
@[simp] theorem exec_fminF32 (d : VReg) (a : VReg) (b : VReg) (x3 : Bool) (x4 : Bool) (s : State) :
    exec (.fminF32 d a b x3 x4) s = execFminF32 d a b s := rfl
@[simp] theorem exec_fmaxF32 (d : VReg) (a : VReg) (b : VReg) (x3 : Bool) (x4 : Bool) (s : State) :
    exec (.fmaxF32 d a b x3 x4) s = execFmaxF32 d a b s := rfl
@[simp] theorem exec_fabsF32 (d : VReg) (a : VReg) (x2 : Bool) (s : State) :
    exec (.fabsF32 d a x2) s = execFabsF32 d a s := rfl
@[simp] theorem exec_fnegF32 (d : VReg) (a : VReg) (x2 : Bool) (s : State) :
    exec (.fnegF32 d a x2) s = execFnegF32 d a s := rfl
@[simp] theorem exec_fclassF32 (d : VReg) (a : VReg) (x2 : Bool) (s : State) :
    exec (.fclassF32 d a x2) s = execFclassF32 d a s := rfl
@[simp] theorem exec_fminF16x2 (d : VReg) (a : VReg) (b : VReg) (x3 : Bool) (x4 : Bool) (s : State) :
    exec (.fminF16x2 d a b x3 x4) s = execFminF16x2 d a b s := rfl
@[simp] theorem exec_fmaxF16x2 (d : VReg) (a : VReg) (b : VReg) (x3 : Bool) (x4 : Bool) (s : State) :
    exec (.fmaxF16x2 d a b x3 x4) s = execFmaxF16x2 d a b s := rfl
@[simp] theorem exec_mov (d : VReg) (a : VReg) (x2 : Bool) (s : State) :
    exec (.mov d a x2) s = execMov d a s := rfl
@[simp] theorem exec_rcpF32 (d : VReg) (a : VReg) (x2 : Bool) (s : State) :
    exec (.rcpF32 d a x2) s = execRcpF32 d a s := rfl
@[simp] theorem exec_rsqrtF32 (d : VReg) (a : VReg) (x2 : Bool) (s : State) :
    exec (.rsqrtF32 d a x2) s = execRsqrtF32 d a s := rfl
@[simp] theorem exec_sqrtF32 (d : VReg) (a : VReg) (x2 : Bool) (s : State) :
    exec (.sqrtF32 d a x2) s = execSqrtF32 d a s := rfl
@[simp] theorem exec_exp2F32 (d : VReg) (a : VReg) (x2 : Bool) (s : State) :
    exec (.exp2F32 d a x2) s = execExp2F32 d a s := rfl
@[simp] theorem exec_log2F32 (d : VReg) (a : VReg) (x2 : Bool) (s : State) :
    exec (.log2F32 d a x2) s = execLog2F32 d a s := rfl
@[simp] theorem exec_sinF32 (d : VReg) (a : VReg) (x2 : Bool) (s : State) :
    exec (.sinF32 d a x2) s = execSinF32 d a s := rfl
@[simp] theorem exec_cosF32 (d : VReg) (a : VReg) (x2 : Bool) (s : State) :
    exec (.cosF32 d a x2) s = execCosF32 d a s := rfl
@[simp] theorem exec_tanhF32 (d : VReg) (a : VReg) (x2 : Bool) (s : State) :
    exec (.tanhF32 d a x2) s = execTanhF32 d a s := rfl
@[simp] theorem exec_fdivF32 (d : VReg) (a : VReg) (b : VReg) (x3 : Bool) (x4 : Bool) (s : State) :
    exec (.fdivF32 d a b x3 x4) s = execFdivF32 d a b s := rfl
@[simp] theorem exec_cvt (d : VReg) (a : VReg) (x2 : Bool) (ftz : Bool) (ovf : BitVec 2) (rnd : BitVec 2) (dst : BitVec 4) (src : BitVec 4) (s : State) :
    exec (.cvt d a x2 ftz ovf rnd dst src) s = execCvt d a ftz ovf rnd dst src s := rfl
@[simp] theorem exec_pack (d : VReg) (a : VReg) (x2 : Bool) (ovf : BitVec 2) (rnd : BitVec 2) (qtype : BitVec 2) (fmt : BitVec 4) (s : State) :
    exec (.pack d a x2 ovf rnd qtype fmt) s = execPack d a ovf rnd qtype fmt s := rfl
@[simp] theorem exec_unpack (d : VReg) (a : VReg) (x2 : Bool) (fmt : BitVec 4) (s : State) :
    exec (.unpack d a x2 fmt) s = execUnpack d a fmt s := rfl
@[simp] theorem exec_sel (d : VReg) (a : VReg) (b : VReg) (x3 : Bool) (x4 : Bool) (cond : BitVec 4) (set : BitVec 2) (s : State) :
    exec (.sel d a b x3 x4 cond set) s = execSel d a b cond set s := rfl
@[simp] theorem exec_lanePick (d : VReg) (a : VReg) (b : VReg) (x3 : Bool) (x4 : Bool) (s : State) :
    exec (.lanePick d a b x3 x4) s = execLanePick d a b s := rfl
@[simp] theorem exec_laneRise (d : VReg) (a : VReg) (b : VReg) (x3 : Bool) (x4 : Bool) (s : State) :
    exec (.laneRise d a b x3 x4) s = execLaneRise d a b s := rfl
@[simp] theorem exec_laneFall (d : VReg) (a : VReg) (b : VReg) (x3 : Bool) (x4 : Bool) (s : State) :
    exec (.laneFall d a b x3 x4) s = execLaneFall d a b s := rfl
@[simp] theorem exec_laneSwap (d : VReg) (a : VReg) (b : VReg) (x3 : Bool) (x4 : Bool) (s : State) :
    exec (.laneSwap d a b x3 x4) s = execLaneSwap d a b s := rfl
@[simp] theorem exec_pollSome (d : VReg) (a : VReg) (x2 : Bool) (s : State) :
    exec (.pollSome d a x2) s = execPollSome d a s := rfl
@[simp] theorem exec_pollEvery (d : VReg) (a : VReg) (x2 : Bool) (s : State) :
    exec (.pollEvery d a x2) s = execPollEvery d a s := rfl
@[simp] theorem exec_pollMask (d : VReg) (a : VReg) (x2 : Bool) (s : State) :
    exec (.pollMask d a x2) s = execPollMask d a s := rfl
@[simp] theorem exec_foldAddI32 (d : VReg) (a : VReg) (x2 : Bool) (s : State) :
    exec (.foldAddI32 d a x2) s = execFoldAddI32 d a s := rfl
@[simp] theorem exec_foldMinI32 (d : VReg) (a : VReg) (x2 : Bool) (s : State) :
    exec (.foldMinI32 d a x2) s = execFoldMinI32 d a s := rfl
@[simp] theorem exec_foldMaxI32 (d : VReg) (a : VReg) (x2 : Bool) (s : State) :
    exec (.foldMaxI32 d a x2) s = execFoldMaxI32 d a s := rfl
@[simp] theorem exec_foldFaddF32 (d : VReg) (a : VReg) (x2 : Bool) (s : State) :
    exec (.foldFaddF32 d a x2) s = execFoldFaddF32 d a s := rfl
@[simp] theorem exec_scanAddI32 (d : VReg) (a : VReg) (x2 : Bool) (s : State) :
    exec (.scanAddI32 d a x2) s = execScanAddI32 d a s := rfl
@[simp] theorem exec_bsort (d : VReg) (a : UReg) (s : State) :
    exec (.bsort d a) s = execBsort d a s := rfl
@[simp] theorem exec_intersect (d : VReg) (a : VReg) (b : VReg) (x3 : Bool) (x4 : Bool) (s : State) :
    exec (.intersect d a b x3 x4) s = execIntersect d a b s := rfl
@[simp] theorem exec_prune (d : VReg) (a : VReg) (b : VReg) (x3 : Bool) (x4 : Bool) (m : BitVec 6) (logn : BitVec 3) (s : State) :
    exec (.prune d a b x3 x4 m logn) s = execPrune d a b m logn s := rfl
@[simp] theorem exec_act (d : VReg) (a : VReg) (x2 : Bool) (tbl : BitVec 2) (s : State) :
    exec (.act d a x2 tbl) s = execAct d a tbl s := rfl
@[simp] theorem exec_actld (d : VReg) (a : UReg) (s : State) :
    exec (.actld d a) s = execActld d a s := rfl
@[simp] theorem exec_amax (d : BitVec 6) (a : BitVec 6) (x2 : Bool) (u : Bool) (size : Bool) (scope : BitVec 4) (s : State) :
    exec (.amax d a x2 u size scope) s = execAmax d a u size scope s := rfl
@[simp] theorem exec_vtos (d : UReg) (a : VReg) (x2 : Bool) (s : State) :
    exec (.vtos d a x2) s = execVtos d a s := rfl
@[simp] theorem exec_stov (d : VReg) (a : UReg) (s : State) :
    exec (.stov d a) s = execStov d a s := rfl
@[simp] theorem exec_uadd (d : UReg) (a : UReg) (b : UReg) (s : State) :
    exec (.uadd d a b) s = execUadd d a b s := rfl
@[simp] theorem exec_uaddImm (d : UReg) (a : UReg) (imm : BitVec 9) (s : State) :
    exec (.uaddImm d a imm) s = execUaddImm d a imm s := rfl
@[simp] theorem exec_usub (d : UReg) (a : UReg) (b : UReg) (s : State) :
    exec (.usub d a b) s = execUsub d a b s := rfl
@[simp] theorem exec_usubImm (d : UReg) (a : UReg) (imm : BitVec 9) (s : State) :
    exec (.usubImm d a imm) s = execUsubImm d a imm s := rfl
@[simp] theorem exec_uand (d : UReg) (a : UReg) (b : UReg) (s : State) :
    exec (.uand d a b) s = execUand d a b s := rfl
@[simp] theorem exec_uandImm (d : UReg) (a : UReg) (imm : BitVec 9) (s : State) :
    exec (.uandImm d a imm) s = execUandImm d a imm s := rfl
@[simp] theorem exec_uor (d : UReg) (a : UReg) (b : UReg) (s : State) :
    exec (.uor d a b) s = execUor d a b s := rfl
@[simp] theorem exec_uorImm (d : UReg) (a : UReg) (imm : BitVec 9) (s : State) :
    exec (.uorImm d a imm) s = execUorImm d a imm s := rfl
@[simp] theorem exec_uxor (d : UReg) (a : UReg) (b : UReg) (s : State) :
    exec (.uxor d a b) s = execUxor d a b s := rfl
@[simp] theorem exec_uxorImm (d : UReg) (a : UReg) (imm : BitVec 9) (s : State) :
    exec (.uxorImm d a imm) s = execUxorImm d a imm s := rfl
@[simp] theorem exec_ushl (d : UReg) (a : UReg) (b : UReg) (s : State) :
    exec (.ushl d a b) s = execUshl d a b s := rfl
@[simp] theorem exec_ushlImm (d : UReg) (a : UReg) (imm : BitVec 9) (s : State) :
    exec (.ushlImm d a imm) s = execUshlImm d a imm s := rfl
@[simp] theorem exec_ushr (d : UReg) (a : UReg) (b : UReg) (s : State) :
    exec (.ushr d a b) s = execUshr d a b s := rfl
@[simp] theorem exec_ushrImm (d : UReg) (a : UReg) (imm : BitVec 9) (s : State) :
    exec (.ushrImm d a imm) s = execUshrImm d a imm s := rfl
@[simp] theorem exec_umov (d : UReg) (b : UReg) (s : State) :
    exec (.umov d b) s = execUmov d b s := rfl
@[simp] theorem exec_umovImm (d : UReg) (imm : BitVec 9) (s : State) :
    exec (.umovImm d imm) s = execUmovImm d imm s := rfl
@[simp] theorem exec_bra (off : BitVec 24) (s : State) :
    exec (.bra off) s = execBra off s := rfl
@[simp] theorem exec_call (off : BitVec 24) (s : State) :
    exec (.call off) s = execCall off s := rfl
@[simp] theorem exec_brc (a : VReg) (x1 : Bool) (cond : BitVec 4) (set : BitVec 2) (rz : Bool) (off : BitVec 24) (s : State) :
    exec (.brc a x1 cond set rz off) s = execBrc a cond set rz off s := rfl
@[simp] theorem exec_meet (clr : Bool) (off : BitVec 24) (s : State) :
    exec (.meet clr off) s = execMeet clr off s := rfl
@[simp] theorem exec_bar (d : VReg) (n : BitVec 4) (s : State) :
    exec (.bar d n) s = execBar d n s := rfl
@[simp] theorem exec_barArrive (n : BitVec 4) (s : State) :
    exec (.barArrive n) s = execBarArrive n s := rfl
@[simp] theorem exec_barWait (d : VReg) (n : BitVec 4) (s : State) :
    exec (.barWait d n) s = execBarWait d n s := rfl
@[simp] theorem exec_carve (d : VReg) (l1g : BitVec 4) (scrg : BitVec 5) (n : BitVec 4) (s : State) :
    exec (.carve d l1g scrg n) s = execCarve d l1g scrg n s := rfl
@[simp] theorem exec_phase (s : State) :
    exec (.phase) s = execPhase s := rfl
@[simp] theorem exec_spawn (d : VReg) (a : VReg) (b : VReg) (x3 : Bool) (x4 : Bool) (fr : Bool) (join : BitVec 12) (edge : BitVec 10) (s : State) :
    exec (.spawn d a b x3 x4 fr join edge) s = execSpawn d a b fr join edge s := rfl
@[simp] theorem exec_emit (d : VReg) (a : VReg) (b : VReg) (x3 : Bool) (x4 : Bool) (fr : Bool) (join : BitVec 12) (edge : BitVec 10) (s : State) :
    exec (.emit d a b x3 x4 fr join edge) s = execEmit d a b fr join edge s := rfl
@[simp] theorem exec_join (d : VReg) (a : VReg) (x2 : Bool) (s : State) :
    exec (.join d a x2) s = execJoin d a s := rfl
@[simp] theorem exec_finish (a : VReg) (x1 : Bool) (s : State) :
    exec (.finish a x1) s = execFinish a s := rfl
@[simp] theorem exec_mcall (p3 : BitVec 6) (p2 : BitVec 6) (p1 : BitVec 6) (p0 : BitVec 6) (slot : BitVec 6) (s : State) :
    exec (.mcall p3 p2 p1 p0 slot) s = execMcall p3 p2 p1 p0 slot s := rfl
@[simp] theorem exec_mload (d : VReg) (a : UReg) (slot : BitVec 6) (s : State) :
    exec (.mload d a slot) s = execMload d a slot s := rfl
@[simp] theorem exec_trap (code : BitVec 16) (s : State) :
    exec (.trap code) s = execTrap code s := rfl
@[simp] theorem exec_svc (code : BitVec 16) (s : State) :
    exec (.svc code) s = execSvc code s := rfl
@[simp] theorem exec_eret (s : State) :
    exec (.eret) s = execEret s := rfl
@[simp] theorem exec_rdsys (d : VReg) (w64 : Bool) (sreg : BitVec 16) (s : State) :
    exec (.rdsys d w64 sreg) s = execRdsys d w64 sreg s := rfl
@[simp] theorem exec_wrsys (a : VReg) (x1 : Bool) (w64 : Bool) (sreg : BitVec 16) (s : State) :
    exec (.wrsys a x1 w64 sreg) s = execWrsys a w64 sreg s := rfl
@[simp] theorem exec_jmp (a : VReg) (x1 : Bool) (s : State) :
    exec (.jmp a x1) s = execJmp a s := rfl
@[simp] theorem exec_callr (d : VReg) (a : VReg) (x2 : Bool) (s : State) :
    exec (.callr d a x2) s = execCallr d a s := rfl
@[simp] theorem exec_ret (a : VReg) (x1 : Bool) (s : State) :
    exec (.ret a x1) s = execRet a s := rfl
@[simp] theorem exec_exit (s : State) :
    exec (.exit) s = execExit s := rfl
@[simp] theorem exec_nop (s : State) :
    exec (.nop) s = execNop s := rfl
@[simp] theorem exec_yield (s : State) :
    exec (.yield) s = execYield s := rfl
@[simp] theorem exec_elect (d : VReg) (s : State) :
    exec (.elect d) s = execElect d s := rfl
@[simp] theorem exec_sprd (d : VReg) (sel : BitVec 6) (s : State) :
    exec (.sprd d sel) s = execSprd d sel s := rfl
@[simp] theorem exec_spwr (b : VReg) (x1 : Bool) (s : State) :
    exec (.spwr b x1) s = execSpwr b s := rfl
@[simp] theorem exec_ldN8 (t : BitVec 6) (a : BitVec 6) (u : Bool) (s : State) :
    exec (.ldN8 t a u) s = execLdN8 t a u s := rfl
@[simp] theorem exec_ldI8 (t : BitVec 6) (a : BitVec 6) (u : Bool) (s : State) :
    exec (.ldI8 t a u) s = execLdI8 t a u s := rfl
@[simp] theorem exec_ldN16 (t : BitVec 6) (a : BitVec 6) (u : Bool) (s : State) :
    exec (.ldN16 t a u) s = execLdN16 t a u s := rfl
@[simp] theorem exec_ldI16 (t : BitVec 6) (a : BitVec 6) (u : Bool) (s : State) :
    exec (.ldI16 t a u) s = execLdI16 t a u s := rfl
@[simp] theorem exec_ldN32 (t : BitVec 6) (a : BitVec 6) (u : Bool) (s : State) :
    exec (.ldN32 t a u) s = execLdN32 t a u s := rfl
@[simp] theorem exec_ldN64 (t : BitVec 6) (a : BitVec 6) (u : Bool) (s : State) :
    exec (.ldN64 t a u) s = execLdN64 t a u s := rfl
@[simp] theorem exec_ldN32x4 (t : BitVec 6) (a : BitVec 6) (u : Bool) (s : State) :
    exec (.ldN32x4 t a u) s = execLdN32x4 t a u s := rfl
@[simp] theorem exec_stN8 (t : BitVec 6) (a : BitVec 6) (u : Bool) (s : State) :
    exec (.stN8 t a u) s = execStN8 t a u s := rfl
@[simp] theorem exec_stN16 (t : BitVec 6) (a : BitVec 6) (u : Bool) (s : State) :
    exec (.stN16 t a u) s = execStN16 t a u s := rfl
@[simp] theorem exec_stN32 (t : BitVec 6) (a : BitVec 6) (u : Bool) (s : State) :
    exec (.stN32 t a u) s = execStN32 t a u s := rfl
@[simp] theorem exec_stN64 (t : BitVec 6) (a : BitVec 6) (u : Bool) (s : State) :
    exec (.stN64 t a u) s = execStN64 t a u s := rfl
@[simp] theorem exec_stN32x4 (t : BitVec 6) (a : BitVec 6) (u : Bool) (s : State) :
    exec (.stN32x4 t a u) s = execStN32x4 t a u s := rfl
@[simp] theorem exec_uldN32 (t : UReg) (a : BitVec 6) (u : Bool) (s : State) :
    exec (.uldN32 t a u) s = execUldN32 t a u s := rfl
@[simp] theorem exec_uldN64 (t : UReg) (a : BitVec 6) (u : Bool) (s : State) :
    exec (.uldN64 t a u) s = execUldN64 t a u s := rfl
@[simp] theorem exec_ustN32 (t : UReg) (a : BitVec 6) (u : Bool) (s : State) :
    exec (.ustN32 t a u) s = execUstN32 t a u s := rfl
@[simp] theorem exec_ustN64 (t : UReg) (a : BitVec 6) (u : Bool) (s : State) :
    exec (.ustN64 t a u) s = execUstN64 t a u s := rfl
@[simp] theorem exec_ldsN32 (t : BitVec 6) (a : BitVec 6) (u : Bool) (s : State) :
    exec (.ldsN32 t a u) s = execLdsN32 t a u s := rfl
@[simp] theorem exec_ldsN64 (t : BitVec 6) (a : BitVec 6) (u : Bool) (s : State) :
    exec (.ldsN64 t a u) s = execLdsN64 t a u s := rfl
@[simp] theorem exec_ldsN32x4 (t : BitVec 6) (a : BitVec 6) (u : Bool) (s : State) :
    exec (.ldsN32x4 t a u) s = execLdsN32x4 t a u s := rfl
@[simp] theorem exec_stsN32 (t : BitVec 6) (a : BitVec 6) (u : Bool) (s : State) :
    exec (.stsN32 t a u) s = execStsN32 t a u s := rfl
@[simp] theorem exec_stsN64 (t : BitVec 6) (a : BitVec 6) (u : Bool) (s : State) :
    exec (.stsN64 t a u) s = execStsN64 t a u s := rfl
@[simp] theorem exec_stsN32x4 (t : BitVec 6) (a : BitVec 6) (u : Bool) (s : State) :
    exec (.stsN32x4 t a u) s = execStsN32x4 t a u s := rfl
@[simp] theorem exec_gather (t : VReg) (a : VReg) (sz : BitVec 2) (s : State) :
    exec (.gather t a sz) s = execGather t a sz s := rfl
@[simp] theorem exec_scatter (t : VReg) (a : VReg) (sz : BitVec 2) (s : State) :
    exec (.scatter t a sz) s = execScatter t a sz s := rfl
@[simp] theorem exec_atomAdd (t : VReg) (a : VReg) (scope : BitVec 4) (sc : Bool) (ty : BitVec 3) (s : State) :
    exec (.atomAdd t a scope sc ty) s = execAtomAdd t a scope sc ty s := rfl
@[simp] theorem exec_atomMin (t : VReg) (a : VReg) (scope : BitVec 4) (sc : Bool) (ty : BitVec 3) (s : State) :
    exec (.atomMin t a scope sc ty) s = execAtomMin t a scope sc ty s := rfl
@[simp] theorem exec_atomMax (t : VReg) (a : VReg) (scope : BitVec 4) (sc : Bool) (ty : BitVec 3) (s : State) :
    exec (.atomMax t a scope sc ty) s = execAtomMax t a scope sc ty s := rfl
@[simp] theorem exec_atomAnd (t : VReg) (a : VReg) (scope : BitVec 4) (sc : Bool) (ty : BitVec 3) (s : State) :
    exec (.atomAnd t a scope sc ty) s = execAtomAnd t a scope sc ty s := rfl
@[simp] theorem exec_atomOr (t : VReg) (a : VReg) (scope : BitVec 4) (sc : Bool) (ty : BitVec 3) (s : State) :
    exec (.atomOr t a scope sc ty) s = execAtomOr t a scope sc ty s := rfl
@[simp] theorem exec_atomXor (t : VReg) (a : VReg) (scope : BitVec 4) (sc : Bool) (ty : BitVec 3) (s : State) :
    exec (.atomXor t a scope sc ty) s = execAtomXor t a scope sc ty s := rfl
@[simp] theorem exec_atomXchg (t : VReg) (a : VReg) (scope : BitVec 4) (sc : Bool) (ty : BitVec 3) (s : State) :
    exec (.atomXchg t a scope sc ty) s = execAtomXchg t a scope sc ty s := rfl
@[simp] theorem exec_atomCas (t : VReg) (a : VReg) (scope : BitVec 4) (sc : Bool) (ty : BitVec 3) (s : State) :
    exec (.atomCas t a scope sc ty) s = execAtomCas t a scope sc ty s := rfl
@[simp] theorem exec_redAdd (t : VReg) (a : VReg) (scope : BitVec 4) (sc : Bool) (ty : BitVec 3) (s : State) :
    exec (.redAdd t a scope sc ty) s = execRedAdd t a scope sc ty s := rfl
@[simp] theorem exec_redMin (t : VReg) (a : VReg) (scope : BitVec 4) (sc : Bool) (ty : BitVec 3) (s : State) :
    exec (.redMin t a scope sc ty) s = execRedMin t a scope sc ty s := rfl
@[simp] theorem exec_redMax (t : VReg) (a : VReg) (scope : BitVec 4) (sc : Bool) (ty : BitVec 3) (s : State) :
    exec (.redMax t a scope sc ty) s = execRedMax t a scope sc ty s := rfl
@[simp] theorem exec_scld (t : VReg) (a : VReg) (scope : BitVec 4) (sz : BitVec 2) (s : State) :
    exec (.scld t a scope sz) s = execScld t a scope sz s := rfl
@[simp] theorem exec_scst (t : VReg) (a : VReg) (scope : BitVec 4) (sz : BitVec 2) (s : State) :
    exec (.scst t a scope sz) s = execScst t a scope sz s := rfl
@[simp] theorem exec_acq (t : VReg) (a : VReg) (scope : BitVec 4) (s : State) :
    exec (.acq t a scope) s = execAcq t a scope s := rfl
@[simp] theorem exec_rel (a : VReg) (scope : BitVec 4) (s : State) :
    exec (.rel a scope) s = execRel a scope s := rfl
@[simp] theorem exec_bind (t : VReg) (a : VReg) (s : State) :
    exec (.bind t a) s = execBind t a s := rfl
@[simp] theorem exec_fenceAll (scope : BitVec 4) (s : State) :
    exec (.fenceAll scope) s = execFenceAll scope s := rfl
@[simp] theorem exec_copy (d : UReg) (a : UReg) (b : UReg) (w : CopyW) (s : State) :
    exec (.copy d a b w) s = execCopy d a b w s := rfl
@[simp] theorem exec_copyWait (d : VReg) (a : UReg) (ch : BitVec 4) (s : State) :
    exec (.copyWait d a ch) s = execCopyWait d a ch s := rfl
@[simp] theorem exec_copyQuery (d : VReg) (clr : Bool) (ch : BitVec 4) (s : State) :
    exec (.copyQuery d clr ch) s = execCopyQuery d clr ch s := rfl
@[simp] theorem exec_prefetch (a : UReg) (x1 : Bool) (s : State) :
    exec (.prefetch a x1) s = execPrefetch a s := rfl
@[simp] theorem exec_copyScatter (d : UReg) (a : UReg) (b : UReg) (w : RowCopyW) (s : State) :
    exec (.copyScatter d a b w) s = execCopyScatter d a b w s := rfl
@[simp] theorem exec_copyGather (d : UReg) (a : UReg) (b : UReg) (w : RowCopyW) (s : State) :
    exec (.copyGather d a b w) s = execCopyGather d a b w s := rfl
@[simp] theorem exec_tstclr (d : VReg) (mask : BitVec 4) (s : State) :
    exec (.tstclr d mask) s = execTstclr d mask s := rfl
@[simp] theorem exec_cld (t : VReg) (a : VReg) (h : BitVec 4) (s : State) :
    exec (.cld t a h) s = execCld t a h s := rfl
@[simp] theorem exec_cst (t : VReg) (a : VReg) (h : BitVec 4) (s : State) :
    exec (.cst t a h) s = execCst t a h s := rfl
@[simp] theorem exec_cred (t : VReg) (a : VReg) (h : BitVec 4) (s : State) :
    exec (.cred t a h) s = execCred t a h s := rfl
@[simp] theorem exec_cnext (t : VReg) (a : VReg) (h : BitVec 4) (s : State) :
    exec (.cnext t a h) s = execCnext t a h s := rfl
@[simp] theorem exec_cprobe (t : VReg) (a : VReg) (h : BitVec 4) (s : State) :
    exec (.cprobe t a h) s = execCprobe t a h s := rfl
@[simp] theorem exec_collA2a (a : UReg) (b : UReg) (scope : BitVec 4) (s : State) :
    exec (.collA2a a b scope) s = execCollA2a a b scope s := rfl
@[simp] theorem exec_collReduce (a : UReg) (b : UReg) (scope : BitVec 4) (s : State) :
    exec (.collReduce a b scope) s = execCollReduce a b scope s := rfl
@[simp] theorem exec_collAllred (a : UReg) (b : UReg) (scope : BitVec 4) (s : State) :
    exec (.collAllred a b scope) s = execCollAllred a b scope s := rfl
@[simp] theorem exec_collComp (a : UReg) (b : UReg) (scope : BitVec 4) (s : State) :
    exec (.collComp a b scope) s = execCollComp a b scope s := rfl
@[simp] theorem exec_mma (d : VReg) (a : VReg) (x2 : Bool) (b : UReg) (tile : BitVec 4) (s : State) :
    exec (.mma d a x2 b tile) s = execMma d a b tile s := rfl
@[simp] theorem exec_mmaZ (d : VReg) (a : VReg) (x2 : Bool) (b : UReg) (tile : BitVec 4) (s : State) :
    exec (.mmaZ d a x2 b tile) s = execMmaZ d a b tile s := rfl
@[simp] theorem exec_acld (d : VReg) (a : UReg) (tr : Bool) (tile : BitVec 4) (s : State) :
    exec (.acld d a tr tile) s = execAcld d a tr tile s := rfl
@[simp] theorem exec_acst (d : VReg) (a : UReg) (tr : Bool) (tile : BitVec 4) (s : State) :
    exec (.acst d a tr tile) s = execAcst d a tr tile s := rfl
@[simp] theorem exec_acz (d : VReg) (tile : BitVec 4) (s : State) :
    exec (.acz d tile) s = execAcz d tile s := rfl
@[simp] theorem exec_accvt (d : VReg) (a : UReg) (b : VReg) (x3 : Bool) (tile : BitVec 4) (s : State) :
    exec (.accvt d a b x3 tile) s = execAccvt d a b tile s := rfl
@[simp] theorem exec_route (d : VReg) (a : UReg) (s : State) :
    exec (.route d a) s = execRoute d a s := rfl
@[simp] theorem exec_sort (a : UReg) (b : UReg) (scope : BitVec 4) (s : State) :
    exec (.sort a b scope) s = execSort a b scope s := rfl
@[simp] theorem exec_sproj (d : VReg) (a : VReg) (b : VReg) (x3 : Bool) (x4 : Bool) (s : State) :
    exec (.sproj d a b x3 x4) s = execSproj d a b s := rfl
@[simp] theorem exec_splat (d : VReg) (a : VReg) (b : VReg) (x3 : Bool) (x4 : Bool) (s : State) :
    exec (.splat d a b x3 x4) s = execSplat d a b s := rfl
@[simp] theorem exec_blend (d : VReg) (a : VReg) (x2 : Bool) (b : VReg) (s : State) :
    exec (.blend d a x2 b) s = execBlend d a b s := rfl
@[simp] theorem exec_blendBwd (d : VReg) (a : VReg) (b : VReg) (x3 : Bool) (s : State) :
    exec (.blendBwd d a b x3) s = execBlendBwd d a b s := rfl
@[simp] theorem exec_redF32 (t : VReg) (a : VReg) (scope : BitVec 4) (w : BitVec 2) (s : State) :
    exec (.redF32 t a scope w) s = execRedF32 t a scope w s := rfl
@[simp] theorem exec_cflush (s : State) :
    exec (.cflush) s = execCflush s := rfl
@[simp] theorem exec_trace (a : VReg) (x1 : Bool) (b : UReg) (w : TraceW) (s : State) :
    exec (.trace a x1 b w) s = execTrace a b w s := rfl
@[simp] theorem exec_trres (d : VReg) (sel : Bool) (s : State) :
    exec (.trres d sel) s = execTrres d sel s := rfl
@[simp] theorem exec_smpld (d : VReg) (a : UReg) (slot : BitVec 4) (s : State) :
    exec (.smpld d a slot) s = execSmpld d a slot s := rfl
@[simp] theorem exec_sample (d : VReg) (a : VReg) (x2 : Bool) (b : UReg) (slot : BitVec 4) (s : State) :
    exec (.sample d a x2 b slot) s = execSample d a b slot s := rfl
@[simp] theorem exec_rast (d : VReg) (a : VReg) (x2 : Bool) (b : UReg) (s : State) :
    exec (.rast d a x2 b) s = execRast d a b s := rfl
@[simp] theorem exec_rastFlush (d : VReg) (s : State) :
    exec (.rastFlush d) s = execRastFlush d s := rfl
@[simp] theorem exec_pres (a : UReg) (b : UReg) (wscope : BitVec 4) (enc : Bool) (scan : Bool) (head : BitVec 3) (s : State) :
    exec (.pres a b wscope enc scan head) s = execPres a b wscope enc scan head s := rfl
@[simp] theorem exec_yieldExpiry (u : Nat) (g : Nat) (f : Nat) (s : State) :
    exec (.yieldExpiry u g f) s = execYieldExpiry u g f s := rfl
@[simp] theorem exec_ldCheckDone (u : Nat) (g : Nat) (s : State) :
    exec (.ldCheckDone u g) s = execLdCheckDone u g s := rfl
@[simp] theorem exec_loadFill (k : Nat) (s : State) :
    exec (.loadFill k) s = execLoadFill k s := rfl
@[simp] theorem exec_scratchpadLoadFill (k : Nat) (s : State) :
    exec (.scratchpadLoadFill k) s = execScratchpadLoadFill k s := rfl
@[simp] theorem exec_lateResultFill (k : Nat) (s : State) :
    exec (.lateResultFill k) s = execLateResultFill k s := rfl
@[simp] theorem exec_atomicPerform (k : Nat) (s : State) :
    exec (.atomicPerform k) s = execAtomicPerform k s := rfl
@[simp] theorem exec_scOperationPerform (k : Nat) (s : State) :
    exec (.scOperationPerform k) s = execScOperationPerform k s := rfl
@[simp] theorem exec_relPerformed (u : Nat) (t : Nat) (s : State) :
    exec (.relPerformed u t) s = execRelPerformed u t s := rfl
@[simp] theorem exec_fenceAllDone (u : Nat) (t : Nat) (s : State) :
    exec (.fenceAllDone u t) s = execFenceAllDone u t s := rfl
@[simp] theorem exec_bindPerformed (u : Nat) (t : Nat) (s : State) :
    exec (.bindPerformed u t) s = execBindPerformed u t s := rfl
@[simp] theorem exec_cflushDone (u : Nat) (t : Nat) (s : State) :
    exec (.cflushDone u t) s = execCflushDone u t s := rfl
@[simp] theorem exec_l1Eviction (place : Nat) (line : Nat) (s : State) :
    exec (.l1Eviction place line) s = execL1Eviction place line s := rfl
@[simp] theorem exec_cisternAddition (k : Nat) (s : State) :
    exec (.cisternAddition k) s = execCisternAddition k s := rfl
@[simp] theorem exec_recordArrival (k : Nat) (s : State) :
    exec (.recordArrival k) s = execRecordArrival k s := rfl
@[simp] theorem exec_joinDecrement (k : Nat) (s : State) :
    exec (.joinDecrement k) s = execJoinDecrement k s := rfl
@[simp] theorem exec_caddyOperation (k : Nat) (s : State) :
    exec (.caddyOperation k) s = execCaddyOperation k s := rfl
@[simp] theorem exec_mmaStart (core : Nat) (s : State) :
    exec (.mmaStart core) s = execMmaStart core s := rfl
@[simp] theorem exec_mmaComplete (core : Nat) (s : State) :
    exec (.mmaComplete core) s = execMmaComplete core s := rfl
@[simp] theorem exec_accumulatorOpComplete (core : Nat) (s : State) :
    exec (.accumulatorOpComplete core) s = execAccumulatorOpComplete core s := rfl
@[simp] theorem exec_routeComplete (k : Nat) (s : State) :
    exec (.routeComplete k) s = execRouteComplete k s := rfl
@[simp] theorem exec_strainerJobStart (die : Nat) (s : State) :
    exec (.strainerJobStart die) s = execStrainerJobStart die s := rfl
@[simp] theorem exec_strainerJobDone (die : Nat) (s : State) :
    exec (.strainerJobDone die) s = execStrainerJobDone die s := rfl
@[simp] theorem exec_copyStart (u : Nat) (ch : Nat) (s : State) :
    exec (.copyStart u ch) s = execCopyStart u ch s := rfl
@[simp] theorem exec_copyDelivery (u : Nat) (ch : Nat) (s : State) :
    exec (.copyDelivery u ch) s = execCopyDelivery u ch s := rfl
@[simp] theorem exec_actldComplete (core : Nat) (s : State) :
    exec (.actldComplete core) s = execActldComplete core s := rfl
@[simp] theorem exec_mloadComplete (core : Nat) (s : State) :
    exec (.mloadComplete core) s = execMloadComplete core s := rfl
@[simp] theorem exec_smpldComplete (core : Nat) (s : State) :
    exec (.smpldComplete core) s = execSmpldComplete core s := rfl
@[simp] theorem exec_sampleJob (k : Nat) (s : State) :
    exec (.sampleJob k) s = execSampleJob k s := rfl
@[simp] theorem exec_traversalNodeVisit (u : Nat) (t : Nat) (s : State) :
    exec (.traversalNodeVisit u t) s = execTraversalNodeVisit u t s := rfl
@[simp] theorem exec_rasteriseTriangle (die : Nat) (s : State) :
    exec (.rasteriseTriangle die) s = execRasteriseTriangle die s := rfl
@[simp] theorem exec_verticalBlank (head : Nat) (s : State) :
    exec (.verticalBlank head) s = execVerticalBlank head s := rfl
@[simp] theorem exec_presentComplete (head : Nat) (s : State) :
    exec (.presentComplete head) s = execPresentComplete head s := rfl
@[simp] theorem exec_launchEntry (slice : Nat) (queue : Nat) (s : State) :
    exec (.launchEntry slice queue) s = execLaunchEntry slice queue s := rfl
@[simp] theorem exec_teamPlacement (slice : Nat) (s : State) :
    exec (.teamPlacement slice) s = execTeamPlacement slice s := rfl
@[simp] theorem exec_agingQuantum (l : Nat) (s : State) :
    exec (.agingQuantum l) s = execAgingQuantum l s := rfl
@[simp] theorem exec_preemptionWaitEnd (u : Nat) (s : State) :
    exec (.preemptionWaitEnd u) s = execPreemptionWaitEnd u s := rfl
@[simp] theorem exec_launchEnd (l : Nat) (s : State) :
    exec (.launchEnd l) s = execLaunchEnd l s := rfl
@[simp] theorem exec_phaseFlushPoint (l : Nat) (s : State) :
    exec (.phaseFlushPoint l) s = execPhaseFlushPoint l s := rfl
@[simp] theorem exec_lqDoorbell (inst : Nat) (v : BitVec 32) (s : State) :
    exec (.lqDoorbell inst v) s = execLqDoorbell inst v s := rfl
@[simp] theorem exec_lqCtlWrite (inst : Nat) (v : BitVec 32) (s : State) :
    exec (.lqCtlWrite inst v) s = execLqCtlWrite inst v s := rfl
@[simp] theorem exec_kettleCtxswSave (slice : Nat) (s : State) :
    exec (.kettleCtxswSave slice) s = execKettleCtxswSave slice s := rfl
@[simp] theorem exec_kettleCtxswRestore (slice : Nat) (s : State) :
    exec (.kettleCtxswRestore slice) s = execKettleCtxswRestore slice s := rfl
@[simp] theorem exec_ctxswSaveDone (slice : Nat) (s : State) :
    exec (.ctxswSaveDone slice) s = execCtxswSaveDone slice s := rfl
@[simp] theorem exec_ctxswRestoreDone (slice : Nat) (s : State) :
    exec (.ctxswRestoreDone slice) s = execCtxswRestoreDone slice s := rfl
@[simp] theorem exec_resume (slice : Nat) (seq : BitVec 32) (s : State) :
    exec (.resume slice seq) s = execResume slice seq s := rfl
@[simp] theorem exec_abortLaunch (slice : Nat) (seq : BitVec 32) (s : State) :
    exec (.abortLaunch slice seq) s = execAbortLaunch slice seq s := rfl
@[simp] theorem exec_resumeOperation (slice : Nat) (seq : BitVec 32) (s : State) :
    exec (.resumeOperation slice seq) s = execResumeOperation slice seq s := rfl
@[simp] theorem exec_abortOperation (slice : Nat) (seq : BitVec 32) (s : State) :
    exec (.abortOperation slice seq) s = execAbortOperation slice seq s := rfl
@[simp] theorem exec_abortLaunchBySeq (slice : Nat) (queue : BitVec 2) (seq : BitVec 32) (s : State) :
    exec (.abortLaunchBySeq slice queue seq) s = execAbortLaunchBySeq slice queue seq s := rfl
@[simp] theorem exec_faultqCtlWrite (slice : Nat) (v : BitVec 32) (s : State) :
    exec (.faultqCtlWrite slice v) s = execFaultqCtlWrite slice v s := rfl
@[simp] theorem exec_dieCarveWrite (die : Nat) (v : BitVec 32) (s : State) :
    exec (.dieCarveWrite die v) s = execDieCarveWrite die v s := rfl
@[simp] theorem exec_sliceGroupWrite (v : BitVec 32) (s : State) :
    exec (.sliceGroupWrite v) s = execSliceGroupWrite v s := rfl
@[simp] theorem exec_xlatInvalPage (slice : Nat) (va : Nat) (s : State) :
    exec (.xlatInvalPage slice va) s = execXlatInvalPage slice va s := rfl
@[simp] theorem exec_xlatInvalAll (slice : Nat) (s : State) :
    exec (.xlatInvalAll slice) s = execXlatInvalAll slice s := rfl
@[simp] theorem exec_xlatInvalDone (slice : Nat) (s : State) :
    exec (.xlatInvalDone slice) s = execXlatInvalDone slice s := rfl
@[simp] theorem exec_scrSkewWrite (u : Nat) (second : Bool) (v : BitVec 32) (s : State) :
    exec (.scrSkewWrite u second v) s = execScrSkewWrite u second v s := rfl
@[simp] theorem exec_fabricCtlWrite (v : BitVec 32) (s : State) :
    exec (.fabricCtlWrite v) s = execFabricCtlWrite v s := rfl
@[simp] theorem exec_travNodeueClear (core : Nat) (v : BitVec 64) (s : State) :
    exec (.travNodeueClear core v) s = execTravNodeueClear core v s := rfl
@[simp] theorem exec_dispCtlWrite (head : Nat) (v : BitVec 32) (s : State) :
    exec (.dispCtlWrite head v) s = execDispCtlWrite head v s := rfl
@[simp] theorem exec_snapTrigger (s : State) :
    exec (.snapTrigger) s = execSnapTrigger s := rfl
@[simp] theorem exec_powerCapWrite (v : BitVec 32) (s : State) :
    exec (.powerCapWrite v) s = execPowerCapWrite v s := rfl
@[simp] theorem exec_fstepAdjust (watts : BitVec 16) (s : State) :
    exec (.fstepAdjust watts) s = execFstepAdjust watts s := rfl
@[simp] theorem exec_fwAttest (buf : Nat) (s : State) :
    exec (.fwAttest buf) s = execFwAttest buf s := rfl
@[simp] theorem exec_fwStage (buf : Nat) (s : State) :
    exec (.fwStage buf) s = execFwStage buf s := rfl
@[simp] theorem exec_fwStatus (buf : Nat) (s : State) :
    exec (.fwStatus buf) s = execFwStatus buf s := rfl
@[simp] theorem exec_fwMboxResult (s : State) :
    exec (.fwMboxResult) s = execFwMboxResult s := rfl
@[simp] theorem exec_sysregWrite (sreg : BitVec 16) (v : BitVec 64) (s : State) :
    exec (.sysregWrite sreg v) s = execSysregWrite sreg v s := rfl
@[simp] theorem exec_reset (ok : Bool) (s : State) :
    exec (.reset ok) s = execReset ok s := rfl
@[simp] theorem exec_hostLinkTraining (width : Nat) (rate : Nat) (s : State) :
    exec (.hostLinkTraining width rate) s = execHostLinkTraining width rate s := rfl
@[simp] theorem exec_cxlLinkUp (gib : Nat) (s : State) :
    exec (.cxlLinkUp gib) s = execCxlLinkUp gib s := rfl
@[simp] theorem exec_cxlLinkDown (s : State) :
    exec (.cxlLinkDown) s = execCxlLinkDown s := rfl
@[simp] theorem exec_linePoisoned (line : Nat) (s : State) :
    exec (.linePoisoned line) s = execLinePoisoned line s := rfl
@[simp] theorem exec_correctedError (die : Nat) (s : State) :
    exec (.correctedError die) s = execCorrectedError die s := rfl
@[simp] theorem exec_slotStart (plane : Nat) (s : State) :
    exec (.slotStart plane) s = execSlotStart plane s := rfl
@[simp] theorem exec_slotMarker (plane : Nat) (onTime : Bool) (s : State) :
    exec (.slotMarker plane onTime) s = execSlotMarker plane onTime s := rfl
@[simp] theorem exec_slotFrameReceive (plane : Nat) (f : Frame) (s : State) :
    exec (.slotFrameReceive plane f) s = execSlotFrameReceive plane f s := rfl
@[simp] theorem exec_remoteRequest (k : Nat) (s : State) :
    exec (.remoteRequest k) s = execRemoteRequest k s := rfl
@[simp] theorem exec_remoteResponse (k : Nat) (s : State) :
    exec (.remoteResponse k) s = execRemoteResponse k s := rfl
@[simp] theorem exec_remoteRefusal (k : Nat) (s : State) :
    exec (.remoteRefusal k) s = execRemoteRefusal k s := rfl
@[simp] theorem exec_remoteTimeout (tag : Nat) (s : State) :
    exec (.remoteTimeout tag) s = execRemoteTimeout tag s := rfl
@[simp] theorem exec_acknowledgment (k : Nat) (s : State) :
    exec (.acknowledgment k) s = execAcknowledgment k s := rfl
@[simp] theorem exec_collectiveChunk (k : Nat) (s : State) :
    exec (.collectiveChunk k) s = execCollectiveChunk k s := rfl
@[simp] theorem exec_chunkRefusal (k : Nat) (s : State) :
    exec (.chunkRefusal k) s = execChunkRefusal k s := rfl
@[simp] theorem exec_collectiveTimeout (k : Nat) (s : State) :
    exec (.collectiveTimeout k) s = execCollectiveTimeout k s := rfl
@[simp] theorem exec_unassignedOpcode (w : BitVec 32) (opw : BitVec 32) (s : State) :
    exec (.unassignedOpcode w opw) s = execUnassignedOpcode w opw s := rfl
@[simp] theorem exec_displayportLinkTraining (head : Nat) (width : Nat) (height : Nat) (s : State) :
    exec (.displayportLinkTraining head width height) s = execDisplayportLinkTraining head width height s := rfl

end Sys2Proof.Machine
end

