-- ==== Sys2Proof/Laws/Memory.lean ====
section
/-!
SUPPORT. The laws of memory: a byte read after a put, and that every memory operation keeps the canonical form.
-/

namespace Sys2Proof.Machine

open Sys2Proof (Byte)

theorem memGet_below {m : List Host.Cell} {lo a : Nat} (h : memWfAbove lo m = true) (ha : a < lo) : memGet m a = 0 := by
  cases m with
  | nil => rfl
  | cons e m =>
    obtain ⟨a', b⟩ := e
    simp only [memWfAbove, Bool.and_eq_true, decide_eq_true_eq] at h
    have : a ≠ a' := by omega
    have : a < a' := by omega
    simp [memGet, *]

theorem memWfAbove.mono {m : List Host.Cell} {lo lo' : Nat} (h : memWfAbove lo m = true) (hl : lo' ≤ lo) :
    memWfAbove lo' m = true := by
  cases m with
  | nil => rfl
  | cons e m =>
    obtain ⟨a', b⟩ := e
    simp only [memWfAbove, Bool.and_eq_true, decide_eq_true_eq] at h ⊢
    exact ⟨⟨by omega, h.1.2⟩, h.2⟩

/-- A put keeps the canonical form. -/
theorem memPut_wfAbove {m : List Host.Cell} {lo a : Nat} (b : Byte) (h : memWfAbove lo m = true) (ha : lo ≤ a) :
    memWfAbove lo (memPut m a b) = true := by
  have cons : ∀ (lo a : Nat) (b : Byte) (m : List Host.Cell),
      memWfAbove lo ((a, b) :: m) = true ↔ lo ≤ a ∧ b ≠ 0 ∧ memWfAbove (a + 1) m = true := by
    intro lo a b m
    simp only [memWfAbove, Bool.and_eq_true, decide_eq_true_eq, bne_iff_ne, ne_eq, and_assoc]
  induction m generalizing lo with
  | nil =>
    simp only [memPut]; split
    · rfl
    · rename_i hb; exact (cons _ _ _ _).2 ⟨ha, hb, rfl⟩
  | cons e m ih =>
    obtain ⟨a', b'⟩ := e
    obtain ⟨h1, h2, h3⟩ := (cons _ _ _ _).1 h
    simp only [memPut]
    split
    · split
      · exact memWfAbove.mono h3 (by omega)
      · rename_i hb; subst a'; exact (cons _ _ _ _).2 ⟨ha, hb, h3⟩
    · split
      · split
        · exact h
        · rename_i hb
          exact (cons _ _ _ _).2 ⟨ha, hb, (cons _ _ _ _).2 ⟨by omega, h2, h3⟩⟩
      · exact (cons _ _ _ _).2 ⟨h1, h2, ih h3 (by omega)⟩

/-- Memory.wf is kept by a put. -/
theorem Memory.wf_memPut {m : List Host.Cell} (a : Nat) (b : Byte) (h : Memory.wf m = true) : Memory.wf (memPut m a b) = true :=
  memPut_wfAbove b h (Nat.zero_le a)

/-- Memory.wf is kept by a run of puts. -/
theorem Memory.wf_memPuts {m : List Host.Cell} (a : Nat) (bs : List Byte) (h : Memory.wf m = true) :
    Memory.wf (memPuts m a bs) = true := by
  induction bs generalizing m a with
  | nil => exact h
  | cons b bs ih => exact ih _ (Memory.wf_memPut a b h)

/-- What a put changes, and that it changes nothing else. -/
theorem memGet_memPut_above {m : List Host.Cell} {lo : Nat} (h : memWfAbove lo m = true) (a : Nat) (b : Byte) (j : Nat) :
    memGet (memPut m a b) j = if j = a then b else memGet m j := by
  induction m generalizing lo with
  | nil =>
    simp only [memPut]
    split
    · subst b; simp [memGet]
    · by_cases hj : j = a
      · simp [memGet, hj]
      · simp [memGet, hj]
  | cons e m ih =>
    obtain ⟨a', b'⟩ := e
    simp only [memWfAbove, Bool.and_eq_true, decide_eq_true_eq] at h
    simp only [memPut]
    split
    · subst a'
      split
      · subst b
        by_cases hj : j = a
        · subst hj; simp [memGet_below h.2]
        · by_cases hlt : j < a
          · simp [memGet, hj, hlt, memGet_below h.2 (show j < a + 1 by omega)]
          · simp [memGet, hj, hlt]
      · by_cases hj : j = a <;> simp [memGet, hj]
    · split
      · split
        · subst b
          by_cases hj : j = a
          · subst hj; simp [memGet, *]
          · simp [hj]
        · by_cases hj : j = a
          · simp [memGet, hj]
          · by_cases hlt : j < a
            · have : j ≠ a' := by omega
              have : j < a' := by omega
              simp [memGet, *]
            · simp [memGet, hj, hlt]
      · simp only [memGet]
        rw [ih h.2]
        by_cases hj : j = a
        · have : ¬ j < a' := by omega
          have : j ≠ a' := by omega
          simp [*]
        · simp [hj]

theorem memGet_memPut {m : List Host.Cell} (h : Memory.wf m = true) (a : Nat) (b : Byte) (j : Nat) :
    memGet (memPut m a b) j = if j = a then b else memGet m j := memGet_memPut_above h a b j

/-- What a run of puts changes, and that it changes nothing else. -/
theorem memGet_memPuts {m : List Host.Cell} (h : Memory.wf m = true) (a : Nat) (bs : List Byte) (j : Nat) :
    memGet (memPuts m a bs) j = if h : a ≤ j ∧ j < a + bs.length then bs[j - a]'(by omega) else memGet m j := by
  induction bs generalizing m a with
  | nil =>
    have : ¬ (a ≤ j ∧ j < a) := by omega
    simp [memPuts, this]
  | cons b bs ih =>
    rw [memPuts, ih (Memory.wf_memPut a b h), memGet_memPut h]
    by_cases hj : j = a
    · subst hj
      have : ¬ (j + 1 ≤ j ∧ j < j + 1 + bs.length) := by omega
      simp [this]
    · by_cases hr : a + 1 ≤ j ∧ j < a + 1 + bs.length
      · have h2 : a ≤ j ∧ j < a + (b :: bs).length := by simp only [List.length_cons]; omega
        rw [dif_pos hr, dif_pos h2]
        have e : j - a = (j - (a + 1)) + 1 := by omega
        simp [e]
      · have h2 : ¬ (a ≤ j ∧ j < a + (b :: bs).length) := by simp only [List.length_cons]; omega
        rw [dif_neg hr, dif_neg h2, if_neg hj]

/-- Two canonical memories that read alike are one list. -/
theorem memory_ext_above {m n : List Host.Cell} {lo : Nat} (hm : memWfAbove lo m = true) (hn : memWfAbove lo n = true)
    (h : ∀ a, memGet m a = memGet n a) : m = n := by
  induction m generalizing n lo with
  | nil =>
    cases n with
    | nil => rfl
    | cons e n =>
      obtain ⟨a, b⟩ := e
      simp only [memWfAbove, Bool.and_eq_true] at hn
      have := h a
      simp only [memGet, if_true] at this
      rw [← this] at hn; simp at hn
  | cons e m ih =>
    obtain ⟨a, b⟩ := e
    cases n with
    | nil =>
      simp only [memWfAbove, Bool.and_eq_true] at hm
      have := h a
      simp only [memGet, if_true] at this
      rw [this] at hm; simp at hm
    | cons e' n =>
      obtain ⟨a', b'⟩ := e'
      simp only [memWfAbove, Bool.and_eq_true, decide_eq_true_eq] at hm hn
      have hb : b ≠ 0 := by simpa using hm.1.2
      have hb' : b' ≠ 0 := by simpa using hn.1.2
      have ha : a = a' := by
        rcases Nat.lt_trichotomy a a' with q | q | q
        · have := h a
          have q' : a ≠ a' := by omega
          simp only [memGet, if_true, q, q', if_false] at this
          exact absurd this hb
        · exact q
        · have := h a'
          have q' : a' ≠ a := by omega
          simp only [memGet, if_true, q, q', if_false] at this
          exact absurd this.symm hb'
      subst ha
      have e1 := h a
      simp only [memGet, if_true] at e1
      subst e1
      congr 1
      refine ih hm.2 hn.2 fun j => ?_
      by_cases hj : j < a + 1
      · rw [memGet_below hm.2 hj, memGet_below hn.2 hj]
      · have := h j
        have q : j ≠ a := by omega
        have q' : ¬ j < a := by omega
        simpa [memGet, q, q'] using this

theorem memory_ext {m n : List Host.Cell} (hm : Memory.wf m = true) (hn : Memory.wf n = true)
    (h : ∀ a, memGet m a = memGet n a) : m = n := memory_ext_above hm hn h

theorem Memory.wf_reset : Memory.wf State.reset.mem = true := rfl

end Sys2Proof.Machine
end

