-- ==== Sys2Proof/Laws/Writes.lean ====
section
/-!
SUPPORT. How the invariants of a state pass through folds and choices, and that each operation that writes memory keeps its
canonical form.
-/

set_option Elab.async false

namespace Sys2Proof.Machine

open Sys2Proof

@[simp] theorem keeps_next (t : State) : Keeps (.next t) ↔ Memory.wf t.mem = true := by simp [Keeps]
@[simp] theorem keeps_fault (t) : ¬ Keeps (.fault t) := by simp [Keeps]
@[simp] theorem keeps_refused (t) : ¬ Keeps (.refused t) := by simp [Keeps]

theorem foldl_wf {β : Type} (f : State → β → State) (l : List β) (s : State) (h : Memory.wf s.mem = true)
    (hf : ∀ s b, Memory.wf s.mem = true → Memory.wf (f s b).mem = true) : Memory.wf (l.foldl f s).mem = true := by
  induction l generalizing s with
  | nil => exact h
  | cons b l ih => exact ih _ (hf s b h)

theorem memWfAbove_filter {m : List Host.Cell} {lo : Nat} (p : Host.Cell → Bool) (h : memWfAbove lo m = true) :
    memWfAbove lo (m.filter p) = true := by
  induction m generalizing lo with
  | nil => rfl
  | cons e m ih =>
    obtain ⟨a, b⟩ := e
    simp only [memWfAbove, Bool.and_eq_true, decide_eq_true_eq] at h
    rw [List.filter_cons]
    split
    · simp only [memWfAbove, Bool.and_eq_true, decide_eq_true_eq]
      exact ⟨h.1, ih h.2⟩
    · exact memWfAbove.mono (ih h.2) (by omega)

theorem Memory.wf_memZero {m : List Host.Cell} (a n : Nat) (h : Memory.wf m = true) : Memory.wf (memZero m a n) = true :=
  memWfAbove_filter _ h

theorem Memory.wf_cisMerge {m : List Host.Cell} (a : Nat) (ws : List (Option Word)) (h : Memory.wf m = true) :
    Memory.wf (cisMerge m a ws) = true := by
  fun_induction cisMerge m a ws <;> grind -ring -lia -linarith -ac -order [Memory.wf_memPuts]

theorem foldl_inv {α β : Type} (P : α → Prop) (f : α → β → α) (l : List β) (a : α) (h : P a)
    (hf : ∀ a b, P a → P (f a b)) : P (l.foldl f a) := by
  induction l generalizing a with
  | nil => exact h
  | cons b l ih => exact ih _ (hf a b h)

theorem foldlM_inv {α β ε : Type} (P : α → Prop) (f : α → β → Except ε α) (l : List β) (a : α) (h : P a)
    (hf : ∀ a b a', P a → f a b = .ok a' → P a') : ∀ a', l.foldlM f a = .ok a' → P a' := by
  induction l generalizing a with
  | nil => intro a' e; simp [pure, Except.pure] at e; exact e ▸ h
  | cons b l ih =>
    intro a' e
    rw [List.foldlM_cons] at e
    cases hb : f a b with
    | error x => rw [hb] at e; simp [bind, Except.bind] at e
    | ok y => rw [hb] at e; exact ih y (hf _ _ _ h hb) a' e

theorem ite_wf {x : State} (c : Prop) [Decidable c] (a b : State) (e : x = if c then a else b) (ha : Memory.wf a.mem = true)
    (hb : Memory.wf b.mem = true) : Memory.wf x.mem = true := by
  by_cases h : c
  · rw [if_pos h] at e; rw [e]; exact ha
  · rw [if_neg h] at e; rw [e]; exact hb

end Sys2Proof.Machine
end

