-- ==== Sys2Proof/Laws/KeepsOps.lean ====
section
/-!
SUPPORT. Every operation keeps the canonical form of memory.
-/

set_option linter.unusedVariables false

namespace Sys2Proof.Machine

open Sys2Proof

theorem State.reset_wf : Memory.wf (State.reset).mem = true := by
  rfl

theorem State.setThr_wf (s : State) (u : Nat) (t : Nat) (x : Thread) (h0 : Memory.wf s.mem = true) : Memory.wf (State.setThr s u t x).mem = true := by
  exact h0

theorem State.enterHandler_wf (s : State) (u : Nat) (t : Nat) (epc : Nat) (detail : Dbl) (addr : Dbl) (h0 : Memory.wf s.mem = true) : Memory.wf (State.enterHandler s u t epc detail addr).mem = true := by
  exact h0

theorem State.faultThread_wf (s : State) (u : Nat) (t : Nat) (pos : Nat) (h0 : Memory.wf s.mem = true) : Memory.wf (State.faultThread s u t pos).mem = true := by
  exact h0

theorem State.setTeam_wf (s : State) (u : Nat) (x : Team) (h0 : Memory.wf s.mem = true) : Memory.wf (State.setTeam s u x).mem = true := by
  exact h0

theorem State.setSys_wf (s : State) (n : Nat) (i : Nat) (x : Nat) (h0 : Memory.wf s.mem = true) : Memory.wf (State.setSys s n i x).mem = true := by
  exact h0

theorem State.setSysBit_wf (s : State) (n : Nat) (i : Nat) (k : Nat) (h0 : Memory.wf s.mem = true) : Memory.wf (State.setSysBit s n i k).mem = true := by
  unfold State.setSysBit
  grind -ring -lia -linarith -ac -order [State.setSys_wf]

theorem State.trigger_wf (s : State) (h0 : Memory.wf s.mem = true) : Memory.wf (State.trigger s).mem = true := by
  unfold State.trigger
  grind -ring -lia -linarith -ac -order [State.setSys_wf, State.setSysBit_wf]

theorem State.stopFor_wf (s : State) (u : Nat) (fi : FaultInfo) (reason : Nat) (h0 : Memory.wf s.mem = true) : Memory.wf (State.stopFor s u fi reason).mem = true := by
  unfold State.stopFor
  grind -ring -lia -linarith -ac -order [State.setTeam_wf, State.trigger_wf]

theorem State.route_wf (s : State) (u : Nat) (ts : List Nat) (c : Cause) (epc : Nat) (at_ : Nat) (detail : Dbl) (addr : Dbl) (h0 : Memory.wf s.mem = true) : Memory.wf (State.route s u ts c epc at_ detail addr).mem = true := by
  unfold State.route
  grind -ring -lia -linarith -ac -order [foldl_wf, State.enterHandler_wf, State.faultThread_wf, State.setThr_wf, State.stopFor_wf]

theorem State.putV_wf (s : State) (u : Nat) (t : Nat) (r : Nat) (x : Word) (h0 : Memory.wf s.mem = true) : Memory.wf (State.putV s u t r x).mem = true := by
  exact h0

theorem State.setEmpty_wf (s : State) (u : Nat) (t : Nat) (r : Nat) (b : Bool) (h0 : Memory.wf s.mem = true) : Memory.wf (State.setEmpty s u t r b).mem = true := by
  exact h0

theorem State.fillReg_wf (s : State) (u : Nat) (t : Nat) (r : Nat) (x : Word) (h0 : Memory.wf s.mem = true) : Memory.wf (State.fillReg s u t r x).mem = true := by
  unfold State.fillReg
  grind -ring -lia -linarith -ac -order [State.putV_wf, State.setEmpty_wf]

theorem State.arriveAt_wf (s : State) (u : Nat) (t : Nat) (pos : Nat) (h0 : Memory.wf s.mem = true) : Memory.wf (State.arriveAt s u t pos).mem = true := by
  exact h0

theorem State.setLaunch_wf (s : State) (l : Nat) (x : Launch) (h0 : Memory.wf s.mem = true) : Memory.wf (State.setLaunch s l x).mem = true := by
  exact h0

theorem State.setV_wf (s : State) (lane : Nat) (r : Nat) (x : Word) (h0 : Memory.wf s.mem = true) : Memory.wf (State.setV s lane r x).mem = true := by
  exact h0

theorem State.putU_wf (s : State) (u : Nat) (g : Nat) (r : Nat) (x : Word) (h0 : Memory.wf s.mem = true) : Memory.wf (State.putU s u g r x).mem = true := by
  exact h0

theorem takeTrap_wf (tr : Trap) (s : State) (h0 : Memory.wf s.mem = true) : Memory.wf (takeTrap tr s).mem = true := by
  unfold takeTrap
  grind -ring -lia -linarith -ac -order [State.route_wf, State.setTeam_wf, State.trigger_wf]

theorem State.setU_wf (s : State) (r : Nat) (x : Word) (h0 : Memory.wf s.mem = true) : Memory.wf (State.setU s r x).mem = true := by
  exact h0

theorem State.goBack_wf (s : State) (u : Nat) (t : Nat) (b : Back) (h0 : Memory.wf s.mem = true) : Memory.wf (State.goBack s u t b).mem = true := by
  unfold State.goBack
  grind -ring -lia -linarith -ac -order [State.arriveAt_wf, State.putV_wf, State.setThr_wf]

theorem State.setP_wf (s : State) (lane : Nat) (r : Nat) (x : Nat) (h0 : Memory.wf s.mem = true) : Memory.wf (State.setP s lane r x).mem = true := by
  exact h0

theorem State.setCc_wf (s : State) (lane : Nat) (c : Nat) (x : BitVec 4) (h0 : Memory.wf s.mem = true) : Memory.wf (State.setCc s lane c x).mem = true := by
  exact h0

theorem State.goto_wf (s : State) (lane : Nat) (pos : Nat) (h0 : Memory.wf s.mem = true) : Memory.wf (State.goto s lane pos).mem = true := by
  exact h0

theorem State.lanes_wf (s : State) (f : State → Nat → State) (h0 : Memory.wf s.mem = true) (hf : ∀ x0 x1, Memory.wf x0.mem = true → Memory.wf (f x0 x1).mem = true) : Memory.wf (State.lanes s f).mem = true := by
  unfold State.lanes
  grind -ring -lia -linarith -ac -order [foldl_wf]

theorem State.clrSysBit_wf (s : State) (n : Nat) (i : Nat) (k : Nat) (h0 : Memory.wf s.mem = true) : Memory.wf (State.clrSysBit s n i k).mem = true := by
  unfold State.clrSysBit
  grind -ring -lia -linarith -ac -order [State.setSys_wf]

theorem State.fillRegs_wf (s : State) (u : Nat) (t : Nat) (vals : List (Nat × Word)) (h0 : Memory.wf s.mem = true) : Memory.wf (State.fillRegs s u t vals).mem = true := by
  unfold State.fillRegs
  grind -ring -lia -linarith -ac -order [foldl_wf, State.fillReg_wf]

theorem State.setThL_wf (s : State) (lane : Nat) (x : Thread) (h0 : Memory.wf s.mem = true) : Memory.wf (State.setThL s lane x).mem = true := by
  exact h0

theorem State.leaveHandler_wf (s : State) (lane : Nat) (h0 : Memory.wf s.mem = true) : Memory.wf (State.leaveHandler s lane).mem = true := by
  unfold State.leaveHandler
  grind -ring -lia -linarith -ac -order [State.arriveAt_wf, State.goBack_wf, State.setThL_wf]

theorem State.markEmpty_wf (s : State) (d : Nat) (n : Nat) (h0 : Memory.wf s.mem = true) : Memory.wf (State.markEmpty s d n).mem = true := by
  unfold State.markEmpty
  grind -ring -lia -linarith -ac -order [foldl_wf, State.setEmpty_wf]

theorem State.dropTlb_wf (s : State) (slice : Nat) (p : Tlb → Bool) (h0 : Memory.wf s.mem = true) : Memory.wf (State.dropTlb s slice p).mem = true := by
  exact h0

theorem State.hold_wf (s : State) (place : Nat) (e : Tlb) (h0 : Memory.wf s.mem = true) : Memory.wf (State.hold s place e).mem = true := by
  unfold State.hold
  grind -ring -lia -linarith -ac -order []

theorem State.note_wf (s : State) (core : Nat) (e : Tlb) (h0 : Memory.wf s.mem = true) : Memory.wf (State.note s core e).mem = true := by
  unfold State.note
  grind -ring -lia -linarith -ac -order [State.hold_wf]

theorem State.putEntry_wf (s : State) (pa : Nat) (x : Nat) (h0 : Memory.wf s.mem = true) : Memory.wf (State.putEntry s pa x).mem = true := by
  unfold State.putEntry
  grind -ring -lia -linarith -ac -order [Memory.wf_memPuts]

theorem State.revive_wf (s : State) (e : Tlb) (h0 : Memory.wf s.mem = true) : Memory.wf (State.revive s e).mem = true := by
  unfold State.revive
  grind -ring -lia -linarith -ac -order [State.dropTlb_wf, State.putEntry_wf, Memory.wf_memZero]

theorem State.addEntry_wf (s : State) (slice : Nat) (e : NewEntry) (h0 : Memory.wf s.mem = true) : Memory.wf (State.addEntry s slice e).mem = true := by
  unfold State.addEntry
  grind -ring -lia -linarith -ac -order [State.trigger_wf]

theorem State.postOne_wf (s : State) (k : Nat) (h0 : Memory.wf s.mem = true) : ∀ s_, State.postOne s k = some s_ → Memory.wf s_.mem = true := by
  unfold State.postOne
  grind -ring -lia -linarith -ac -order [State.revive_wf, State.setLaunch_wf, State.setSys_wf, Memory.wf_memPuts]

theorem State.postSome_wf (a_2 : Nat) (a_1 : Nat) (a_ : State) (h0 : Memory.wf a_.mem = true) : Memory.wf (State.postSome a_2 a_1 a_).mem = true := by
  fun_induction State.postSome a_2 a_1 a_ <;> grind -ring -lia -linarith -ac -order [State.postOne_wf, State.setSysBit_wf]

theorem State.postAll_wf (s : State) (k : Nat) (h0 : Memory.wf s.mem = true) : Memory.wf (State.postAll s k).mem = true := by
  unfold State.postAll
  grind -ring -lia -linarith -ac -order [State.postSome_wf]

theorem State.report_wf (s : State) (slice : Nat) (e : NewEntry) (h0 : Memory.wf s.mem = true) : Memory.wf (State.report s slice e).mem = true := by
  unfold State.report
  grind -ring -lia -linarith -ac -order [State.addEntry_wf, State.postAll_wf]

theorem State.acquired_wf (s : State) (core : Nat) (scope : Nat) (obj : Option Nat) (h0 : Memory.wf s.mem = true) : Memory.wf (State.acquired s core scope obj).mem = true := by
  exact h0

theorem State.dropCopy_wf (s : State) (place : Nat) (line : Nat) (h0 : Memory.wf s.mem = true) : Memory.wf (State.dropCopy s place line).mem = true := by
  exact h0

theorem State.cisEvict_wf (s : State) (line : Nat) (h0 : Memory.wf s.mem = true) : Memory.wf (State.cisEvict s line).mem = true := by
  unfold State.cisEvict
  grind -ring -lia -linarith -ac -order [State.report_wf, Memory.wf_cisMerge]

theorem State.memLine_wf (s : State) (line : Nat) (data : List Byte) (sel : List Bool) (h0 : Memory.wf s.mem = true) : Memory.wf (State.memLine s line data sel).mem = true := by
  unfold State.memLine
  grind -ring -lia -linarith -ac -order [Memory.wf_memPuts]

theorem State.refetch_wf (s : State) (line : Nat) (p : Nat → Bool) (h0 : Memory.wf s.mem = true) : Memory.wf (State.refetch s line p).mem = true := by
  exact h0

theorem State.sendReq_wf (s : State) (slice : Nat) (uid : Nat) (t : Nat) (dst : Nat) (req : Req) (act : RemAct) (from_ : optParam (Option Nat) none) (h0 : Memory.wf s.mem = true) : Memory.wf (State.sendReq s slice uid t dst req act from_).mem = true := by
  unfold State.sendReq
  grind -ring -lia -linarith -ac -order [State.refetch_wf]

theorem State.sendDirty_wf (s : State) (place : Nat) (line : Nat) (uid : Nat) (t : Nat) (c : LineCopy) (h0 : Memory.wf s.mem = true) : Memory.wf (State.sendDirty s place line uid t c).mem = true := by
  unfold State.sendDirty
  exact foldl_wf _ _ _ h0 fun s x h => State.sendReq_wf _ _ _ _ _ _ _ _ h

theorem State.setCopy_wf (s : State) (place : Nat) (line : Nat) (c : LineCopy) (h0 : Memory.wf s.mem = true) : Memory.wf (State.setCopy s place line c).mem = true := by
  exact h0

theorem State.writeBackDie_wf (s : State) (place : Nat) (line : Nat) (uid : Nat) (t : Nat) (h0 : Memory.wf s.mem = true) : Memory.wf (State.writeBackDie s place line uid t).mem = true := by
  unfold State.writeBackDie
  grind -ring -lia -linarith -ac -order [State.cisEvict_wf, State.memLine_wf, State.sendDirty_wf, State.setCopy_wf]

theorem State.evictDie_wf (s : State) (place : Nat) (line : Nat) (uid : Nat) (t : Nat) (h0 : Memory.wf s.mem = true) : Memory.wf (State.evictDie s place line uid t).mem = true := by
  unfold State.evictDie
  grind -ring -lia -linarith -ac -order [State.dropCopy_wf, State.writeBackDie_wf]

theorem State.installDie_wf (s : State) (place : Nat) (line : Nat) (c : LineCopy) (h0 : Memory.wf s.mem = true) : Memory.wf (State.installDie s place line c).mem = true := by
  unfold State.installDie
  grind -ring -lia -linarith -ac -order [State.evictDie_wf, State.setCopy_wf]

theorem State.homeWrite_wf (s : State) (line : Nat) (data : List Byte) (sel : List Bool) (vas : List Nat) (h0 : Memory.wf s.mem = true) : Memory.wf (State.homeWrite s line data sel vas).mem = true := by
  unfold State.homeWrite
  dsimp only
  split
  · exact State.installDie_wf _ _ _ _ (ite_wf _ _ _ rfl h0 h0)
  · exact State.memLine_wf _ _ _ _ h0

theorem State.writeBack_wf (s : State) (place : Nat) (line : Nat) (uid : Nat) (t : Nat) (h0 : Memory.wf s.mem = true) : Memory.wf (State.writeBack s place line uid t).mem = true := by
  unfold State.writeBack
  grind -ring -lia -linarith -ac -order [State.cisEvict_wf, State.homeWrite_wf, State.sendDirty_wf, State.setCopy_wf, State.writeBackDie_wf]

theorem State.evict_wf (s : State) (place : Nat) (line : Nat) (uid : Nat) (t : Nat) (h0 : Memory.wf s.mem = true) : Memory.wf (State.evict s place line uid t).mem = true := by
  unfold State.evict
  grind -ring -lia -linarith -ac -order [State.dropCopy_wf, State.writeBack_wf]

theorem State.evictAll_wf (s : State) (place : Nat) (p : Nat → Bool) (uid : Nat) (t : Nat) (h0 : Memory.wf s.mem = true) : Memory.wf (State.evictAll s place p uid t).mem = true := by
  unfold State.evictAll
  grind -ring -lia -linarith -ac -order [foldl_wf, State.evict_wf]

theorem State.refresh_wf (s : State) (core : Nat) (scope : Nat) (uid : Nat) (t : Nat) (h0 : Memory.wf s.mem = true) : Memory.wf (State.refresh s core scope uid t).mem = true := by
  unfold State.refresh
  grind -ring -lia -linarith -ac -order [State.acquired_wf, State.evictAll_wf]

theorem State.writeBackAll_wf (s : State) (place : Nat) (p : Nat → Bool) (uid : Nat) (t : Nat) (h0 : Memory.wf s.mem = true) : Memory.wf (State.writeBackAll s place p uid t).mem = true := by
  unfold State.writeBackAll
  grind -ring -lia -linarith -ac -order [foldl_wf, State.writeBack_wf]

theorem State.publishIf_wf (s : State) (core : Nat) (scope : Nat) (uid : Nat) (t : Nat) (p : Nat → LineCopy → Bool) (h0 : Memory.wf s.mem = true) : Memory.wf (State.publishIf s core scope uid t p).mem = true := by
  unfold State.publishIf
  grind -ring -lia -linarith -ac -order [State.writeBackAll_wf]

theorem State.publish_wf (s : State) (core : Nat) (scope : Nat) (uid : Nat) (t : Nat) (h0 : Memory.wf s.mem = true) : Memory.wf (State.publish s core scope uid t).mem = true := by
  unfold State.publish
  grind -ring -lia -linarith -ac -order [State.publishIf_wf]

theorem State.trimL1_wf (s : State) (core : Nat) (h0 : Memory.wf s.mem = true) : Memory.wf (State.trimL1 s core).mem = true := by
  unfold State.trimL1
  grind -ring -lia -linarith -ac -order [foldl_wf, State.evict_wf]

theorem State.install_wf (s : State) (place : Nat) (line : Nat) (c : LineCopy) (h0 : Memory.wf s.mem = true) : Memory.wf (State.install s place line c).mem = true := by
  unfold State.install
  grind -ring -lia -linarith -ac -order [State.evict_wf, State.setCopy_wf]

theorem State.l1Line_wf (s : State) (core : Nat) (line : Nat) (h0 : Memory.wf s.mem = true) : Memory.wf (State.l1Line s core line).1.mem = true := by
  unfold State.l1Line
  grind -ring -lia -linarith -ac -order [State.cisEvict_wf, State.install_wf]

theorem State.homeRead_wf (s : State) (pa : Nat) (n : Nat) (h0 : Memory.wf s.mem = true) : Memory.wf (State.homeRead s pa n).1.mem = true := by
  unfold State.homeRead
  grind -ring -lia -linarith -ac -order [State.cisEvict_wf]

theorem State.kettleAddr_wf (s : State) (l : Nat) (k : Acc) (va : Nat) (h0 : Memory.wf s.mem = true) : ∀ s_ x_, State.kettleAddr s l k va = .ok (s_, x_) → Memory.wf s_.mem = true := by
  unfold State.kettleAddr
  grind -ring -lia -linarith -ac -order [State.revive_wf]

theorem State.kRead_wf (s : State) (l : Nat) (va : Nat) (n : Nat) (h0 : Memory.wf s.mem = true) : Memory.wf (State.kRead s l va n).1.mem = true := by
  unfold State.kRead
  grind -ring -lia -linarith -ac -order [State.homeRead_wf, State.kettleAddr_wf]

theorem State.engRead1_wf (s : State) (core : Nat) (pa : Nat) (h0 : Memory.wf s.mem = true) : Memory.wf (State.engRead1 s core pa).1.mem = true := by
  unfold State.engRead1
  grind -ring -lia -linarith -ac -order [State.cisEvict_wf]

theorem State.homePut_wf (s : State) (pa : Nat) (bs : List Byte) (h0 : Memory.wf s.mem = true) : Memory.wf (State.homePut s pa bs).mem = true := by
  unfold State.homePut
  grind -ring -lia -linarith -ac -order [State.cisEvict_wf, State.homeWrite_wf]

theorem State.kWrite_wf (s : State) (l : Nat) (va : Nat) (bs : List Byte) (h0 : Memory.wf s.mem = true) : ∀ s_, State.kWrite s l va bs = .ok s_ → Memory.wf s_.mem = true := by
  unfold State.kWrite
  grind -ring -lia -linarith -ac -order [State.homePut_wf, State.kettleAddr_wf]

theorem State.freshen_wf (s : State) (core : Nat) (u : Nat) (va : Nat) (line : Nat) (h0 : Memory.wf s.mem = true) : Memory.wf (State.freshen s core u va line).mem = true := by
  unfold State.freshen
  grind -ring -lia -linarith -ac -order [State.evict_wf]

theorem State.loadAt_wf (s : State) (core : Nat) (u : Nat) (e : Tlb) (va : Nat) (n : Nat) (h0 : Memory.wf s.mem = true) : Memory.wf (State.loadAt s core u e va n).1.mem = true := by
  unfold State.loadAt
  grind -ring -lia -linarith -ac -order [State.cisEvict_wf, State.freshen_wf, State.l1Line_wf]

theorem State.engWrite_wf (s : State) (core : Nat) (pa : Nat) (bs : List Byte) (h0 : Memory.wf s.mem = true) : Memory.wf (State.engWrite s core pa bs).mem = true := by
  unfold State.engWrite
  grind -ring -lia -linarith -ac -order [State.cisEvict_wf, State.evict_wf, State.homeWrite_wf]

theorem State.giveUp_wf (s : State) (core : Nat) (va : Nat) (uid : Nat) (t : Nat) (h0 : Memory.wf s.mem = true) : Memory.wf (State.giveUp s core va uid t).mem = true := by
  unfold State.giveUp
  grind -ring -lia -linarith -ac -order [State.evict_wf]

theorem State.storeAt_wf (s : State) (core : Nat) (e : Tlb) (va : Nat) (bs : List Byte) (h0 : Memory.wf s.mem = true) : Memory.wf (State.storeAt s core e va bs).mem = true := by
  unfold State.storeAt
  grind -ring -lia -linarith -ac -order [State.cisEvict_wf, State.install_wf, State.revive_wf, State.setCopy_wf]

theorem State.renumber_wf (s : State) (u : Nat) (g : Nat) (h0 : Memory.wf s.mem = true) : Memory.wf (State.renumber s u g).mem = true := by
  unfold State.renumber
  grind -ring -lia -linarith -ac -order [foldl_wf, State.setThr_wf]

theorem State.applyCarve_wf (s : State) (u : Nat) (scrg : Nat) (l1g : Nat) (h0 : Memory.wf s.mem = true) : Memory.wf (State.applyCarve s u scrg l1g).mem = true := by
  unfold State.applyCarve
  grind -ring -lia -linarith -ac -order [State.setTeam_wf, State.trimL1_wf]

theorem State.departLate_wf (s : State) (u : Nat) (t : Nat) (b : Nat) (word : Word) (h0 : Memory.wf s.mem = true) : Memory.wf (State.departLate s u t b word).mem = true := by
  unfold State.departLate
  grind -ring -lia -linarith -ac -order [State.setThr_wf]

theorem State.moveOn_wf (s : State) (u : Nat) (ts : List Nat) (h0 : Memory.wf s.mem = true) : Memory.wf (State.moveOn s u ts).mem = true := by
  unfold State.moveOn
  grind -ring -lia -linarith -ac -order [foldl_wf, State.arriveAt_wf]

theorem State.regroup_wf (s : State) (u : Nat) (g : Nat) (ts : List Nat) (h0 : Memory.wf s.mem = true) : Memory.wf (State.regroup s u g ts).mem = true := by
  unfold State.regroup
  grind -ring -lia -linarith -ac -order [foldl_wf, State.renumber_wf, State.setThr_wf]

theorem State.retestMeet_wf (s : State) (u : Nat) (g : Nat) (m : Nat) (h0 : Memory.wf s.mem = true) : Memory.wf (State.retestMeet s u g m).mem = true := by
  unfold State.retestMeet
  grind -ring -lia -linarith -ac -order [foldl_wf, State.regroup_wf, State.setThr_wf]

theorem State.retestGang_wf (s : State) (u : Nat) (g : Nat) (h0 : Memory.wf s.mem = true) : Memory.wf (State.retestGang s u g).mem = true := by
  unfold State.retestGang
  grind -ring -lia -linarith -ac -order [foldl_wf, State.retestMeet_wf]

theorem State.release_wf (s : State) (u : Nat) (ts : List Nat) (h0 : Memory.wf s.mem = true) : Memory.wf (State.release s u ts).mem = true := by
  unfold State.release
  grind -ring -lia -linarith -ac -order [foldl_wf, State.moveOn_wf, State.regroup_wf, State.retestGang_wf]

theorem State.setBar_wf (s : State) (u : Nat) (b : Nat) (x : Bar) (h0 : Memory.wf s.mem = true) : Memory.wf (State.setBar s u b x).mem = true := by
  exact h0

theorem State.completePhase_wf (s : State) (u : Nat) (b : Nat) (h0 : Memory.wf s.mem = true) : Memory.wf (State.completePhase s u b).mem = true := by
  unfold State.completePhase
  grind -ring -lia -linarith -ac -order [foldl_wf, State.applyCarve_wf, State.departLate_wf, State.putV_wf, State.release_wf, State.setBar_wf, State.setThr_wf]

theorem State.retestBar_wf (s : State) (u : Nat) (b : Nat) (h0 : Memory.wf s.mem = true) : Memory.wf (State.retestBar s u b).mem = true := by
  unfold State.retestBar
  grind -ring -lia -linarith -ac -order [State.completePhase_wf]

theorem State.retestBars_wf (s : State) (u : Nat) (h0 : Memory.wf s.mem = true) : Memory.wf (State.retestBars s u).mem = true := by
  unfold State.retestBars
  grind -ring -lia -linarith -ac -order [foldl_wf, State.retestBar_wf]

theorem State.exitThreads_wf (s : State) (u : Nat) (ts : List Nat) (h0 : Memory.wf s.mem = true) : Memory.wf (State.exitThreads s u ts).mem = true := by
  unfold State.exitThreads
  grind -ring -lia -linarith -ac -order [foldl_wf, State.renumber_wf, State.retestBars_wf, State.retestGang_wf, State.setThr_wf]

theorem State.mwaitFor_wf (s : State) (u : Nat) (t : Nat) (next : Nat) (w : Wait) (h0 : Memory.wf s.mem = true) : Memory.wf (State.mwaitFor s u t next w).mem = true := by
  exact h0

theorem State.waitFor_wf (s : State) (u : Nat) (t : Nat) (next : Nat) (w : Wait) (h0 : Memory.wf s.mem = true) : Memory.wf (State.waitFor s u t next w).mem = true := by
  exact h0

theorem State.letGo_wf (s : State) (u : Nat) (ts : List Nat) (h0 : Memory.wf s.mem = true) : Memory.wf (State.letGo s u ts).mem = true := by
  unfold State.letGo
  grind -ring -lia -linarith -ac -order [foldl_wf, State.moveOn_wf, State.retestGang_wf]

theorem State.testWait_wf (s : State) (u : Nat) (t : Nat) (h0 : Memory.wf s.mem = true) : Memory.wf (State.testWait s u t).mem = true := by
  unfold State.testWait
  grind -ring -lia -linarith -ac -order [foldl_wf, State.letGo_wf, State.setThr_wf]

theorem State.endTrav_wf (s : State) (u : Nat) (t : Nat) (r : TravRes) (h0 : Memory.wf s.mem = true) : Memory.wf (State.endTrav s u t r).mem = true := by
  unfold State.endTrav
  grind -ring -lia -linarith -ac -order [foldl_wf, State.fillRegs_wf, State.setThr_wf]

theorem State.replayTrav_wf (s : State) (u : Nat) (t : Nat) (h0 : Memory.wf s.mem = true) : Memory.wf (State.replayTrav s u t).mem = true := by
  unfold State.replayTrav
  grind -ring -lia -linarith -ac -order [State.endTrav_wf, State.setThr_wf]

theorem State.dropNodes_wf (s : State) (u : Nat) (h0 : Memory.wf s.mem = true) : Memory.wf (State.dropNodes s u).mem = true := by
  exact h0

theorem State.splitGang_wf (s : State) (u : Nat) (g : Nat) (out : List Nat) (h0 : Memory.wf s.mem = true) : Memory.wf (State.splitGang s u g out).mem = true := by
  unfold State.splitGang
  grind -ring -lia -linarith -ac -order [foldl_wf, State.setThr_wf]

theorem State.arriveBar_wf (s : State) (u : Nat) (t : Nat) (b : Nat) (h0 : Memory.wf s.mem = true) : Memory.wf (State.arriveBar s u t b).mem = true := by
  exact h0

theorem State.fill_wf (s : State) (f : Fill) (h0 : Memory.wf s.mem = true) : Memory.wf (State.fill s f).mem = true := by
  unfold State.fill
  grind -ring -lia -linarith -ac -order [foldl_wf, State.fillRegs_wf, State.putU_wf]

theorem State.fetchLine_wf (s : State) (p : Pend) (h0 : Memory.wf s.mem = true) : Memory.wf (State.fetchLine s p).mem = true := by
  unfold State.fetchLine
  grind -ring -lia -linarith -ac -order [State.giveUp_wf, State.sendReq_wf]

theorem State.observe_wf (s : State) (core : Nat) (pa : Nat) (n : Nat) (scope : Nat) (h0 : Memory.wf s.mem = true) : Memory.wf (State.observe s core pa n scope).mem = true := by
  unfold State.observe
  grind -ring -lia -linarith -ac -order [State.refresh_wf]

theorem State.overtook_wf (s : State) (core : Nat) (va : Nat) (h0 : Memory.wf s.mem = true) : Memory.wf (State.overtook s core va).mem = true := by
  exact h0

theorem State.scTime_wf (s : State) (core : Nat) (key : Nat) (h0 : Memory.wf s.mem = true) : Memory.wf (State.scTime s core key).mem = true := by
  exact h0

theorem State.performCopy_wf (s : State) (p : Pend) (c : LineCopy) (h0 : Memory.wf s.mem = true) : Memory.wf (State.performCopy s p c).mem = true := by
  unfold State.performCopy
  grind -ring -lia -linarith -ac -order [State.fillRegs_wf, State.observe_wf, State.overtook_wf, State.scTime_wf, State.setCopy_wf]

theorem State.cisArrive_wf (s : State) (a : CisAdd) (h0 : Memory.wf s.mem = true) : Memory.wf (State.cisArrive s a).mem = true := by
  unfold State.cisArrive
  grind -ring -lia -linarith -ac -order [State.cisEvict_wf, State.evict_wf]

theorem State.afterFault_wf (s : State) (u : Nat) (g : Nat) (h0 : Memory.wf s.mem = true) : Memory.wf (State.afterFault s u g).mem = true := by
  unfold State.afterFault
  grind -ring -lia -linarith -ac -order [foldl_wf, State.splitGang_wf, State.testWait_wf]

theorem State.lateFault_wf (s : State) (u : Nat) (t : Nat) (c : Cause) (addr : Nat) (write : Bool) (h0 : Memory.wf s.mem = true) : Memory.wf (State.lateFault s u t c addr write).mem = true := by
  unfold State.lateFault
  grind -ring -lia -linarith -ac -order [State.afterFault_wf, State.route_wf, State.stopFor_wf]

theorem State.performHome_wf (s : State) (k : OpK) (pa : Nat) (va : Nat) (size : Nat) (x : Nat) (cmp : Nat) (scope : Nat) (h0 : Memory.wf s.mem = true) : Memory.wf (State.performHome s k pa va size x cmp scope).1.mem = true := by
  unfold State.performHome
  grind -ring -lia -linarith -ac -order [State.cisEvict_wf, State.evict_wf, State.homeWrite_wf, State.memLine_wf]

theorem State.performLocal_wf (s : State) (core : Nat) (uid : Nat) (t : Nat) (k : OpK) (e : Tlb) (va : Nat) (size : Nat) (x : Nat) (cmp : Nat) (scope : Nat) (h0 : Memory.wf s.mem = true) : Memory.wf (State.performLocal s core uid t k e va size x cmp scope).1.mem = true := by
  unfold State.performLocal
  grind -ring -lia -linarith -ac -order [State.evict_wf, State.loadAt_wf, State.observe_wf, State.performHome_wf, State.revive_wf, State.storeAt_wf]

theorem State.storeDom_wf (s : State) (u : Nat) (t : Nat) (core : Nat) (slice : Nat) (va : Nat) (n : Nat) (x : Nat) (h0 : Memory.wf s.mem = true) : Memory.wf (State.storeDom s u t core slice va n x).mem = true := by
  unfold State.storeDom
  grind -ring -lia -linarith -ac -order [State.overtook_wf, State.sendReq_wf, State.setCopy_wf]

theorem State.perform_wf (s : State) (p : Pend) (h0 : Memory.wf s.mem = true) : Memory.wf (State.perform s p).mem = true := by
  unfold State.perform
  grind -ring -lia -linarith -ac -order [State.acquired_wf, State.fillRegs_wf, State.lateFault_wf, State.performCopy_wf, State.performLocal_wf, State.scTime_wf, State.storeDom_wf]

theorem State.ready_wf (s : State) (p : Pend) (h0 : Memory.wf s.mem = true) : Memory.wf (State.ready s p).mem = true := by
  unfold State.ready
  grind -ring -lia -linarith -ac -order [State.evict_wf, State.freshen_wf]

theorem State.performRun_wf (s : State) (a_ : List Pend) (h0 : Memory.wf s.mem = true) : Memory.wf (State.performRun s a_).1.mem = true := by
  fun_induction State.performRun s a_ <;> grind -ring -lia -linarith -ac -order [State.fetchLine_wf, State.perform_wf, State.ready_wf]

theorem State.performBack_wf (s : State) (ps : List Pend) (h0 : Memory.wf s.mem = true) : Memory.wf (State.performBack s ps).mem = true := by
  unfold State.performBack
  grind -ring -lia -linarith -ac -order [State.performRun_wf]

theorem State.drainHit_wf (s : State) (u : Nat) (g : Nat) (hit : Nat → Bool) (h0 : Memory.wf s.mem = true) : Memory.wf (State.drainHit s u g hit).mem = true := by
  unfold State.drainHit
  grind -ring -lia -linarith -ac -order [foldl_wf, State.cisArrive_wf, State.performBack_wf]

theorem State.drainFor_wf (s : State) (l : List (Nat × Nat × Option Tlb)) (h0 : Memory.wf s.mem = true) : Memory.wf (State.drainFor s l).mem = true := by
  unfold State.drainFor
  grind -ring -lia -linarith -ac -order [State.drainHit_wf]

theorem State.readNow_wf (s : State) (u : Nat) (core : Nat) (va : Nat) (tr : Option Tlb) (n : Nat) (h0 : Memory.wf s.mem = true) : Memory.wf (State.readNow s u core va tr n).1.mem = true := by
  unfold State.readNow
  grind -ring -lia -linarith -ac -order [State.freshen_wf, State.loadAt_wf, State.overtook_wf]

theorem State.drainGang_wf (s : State) (u : Nat) (g : Nat) (h0 : Memory.wf s.mem = true) : Memory.wf (State.drainGang s u g).mem = true := by
  unfold State.drainGang
  grind -ring -lia -linarith -ac -order [State.drainHit_wf]

theorem State.drain_wf (s : State) (h0 : Memory.wf s.mem = true) : Memory.wf (State.drain s).mem = true := by
  unfold State.drain
  grind -ring -lia -linarith -ac -order [State.drainGang_wf]

theorem State.sampled_wf (s : State) (k : Nat) (u : Nat) (l : LateLoad) (h0 : Memory.wf s.mem = true) : Memory.wf (State.sampled s k u l).1.mem = true := by
  unfold State.sampled
  refine foldl_inv (fun p : State × List Byte => Memory.wf p.1.mem = true) _ _ _ h0 fun a b h => ?_
  obtain ⟨b1, b2⟩ := b
  dsimp only
  split
  · exact h
  · split
    · rename_i e; have := State.readNow_wf a.1 u l.core (l.va + b1) l.tr b2 h; rw [e] at this; exact this
    · exact h

theorem State.arriving_wf (s : State) (k : Nat) (f : Fill) (h0 : Memory.wf s.mem = true) : Memory.wf (State.arriving s k f).1.mem = true := by
  unfold State.arriving
  split
  · exact h0
  · rename_i l hl
    refine foldl_inv (fun p : State × List Byte => Memory.wf p.1.mem = true) _ _ _ h0 fun a b h => ?_
    obtain ⟨b1, b2⟩ := b
    dsimp only
    split
    · exact h
    · split
      · rename_i e; have := State.readNow_wf a.1 f.uid l.core (l.va + b1) l.tr b2 h; rw [e] at this; exact this
      · exact h

theorem State.sampleLoad_wf (s : State) (k : Nat) (h0 : Memory.wf s.mem = true) : Memory.wf (State.sampleLoad s k).mem = true := by
  unfold State.sampleLoad
  grind -ring -lia -linarith -ac -order [State.sampled_wf]

theorem State.performAtoms_wf (s : State) (k : Nat) (h0 : Memory.wf s.mem = true) : Memory.wf (State.performAtoms s k).mem = true := by
  unfold State.performAtoms
  grind -ring -lia -linarith -ac -order [State.performBack_wf]

theorem State.performScops_wf (s : State) (k : Nat) (h0 : Memory.wf s.mem = true) : Memory.wf (State.performScops s k).mem = true := by
  unfold State.performScops
  grind -ring -lia -linarith -ac -order [State.performBack_wf]

theorem State.observeLoad_wf (s : State) (u : Nat) (t : Nat) (va : Nat) (tr : Option Tlb) (n : Nat) (h0 : Memory.wf s.mem = true) : Memory.wf (State.observeLoad s u t va tr n).mem = true := by
  unfold State.observeLoad
  grind -ring -lia -linarith -ac -order [State.observe_wf]

theorem State.setLogs_wf (s : State) (u : Nat) (g : Nat) (l : List OpLog) (h0 : Memory.wf s.mem = true) : Memory.wf (State.setLogs s u g l).mem = true := by
  exact h0

theorem State.loadLane_wf (s : State) (u : Nat) (t : Nat) (va : Nat) (tr : Option Tlb) (minor : Nat) (reg : Nat) (h0 : Memory.wf s.mem = true) : ∀ s_, State.loadLane s u t va tr minor reg = some s_ → Memory.wf s_.mem = true := by
  unfold State.loadLane
  grind -ring -lia -linarith -ac -order [State.observeLoad_wf, State.readNow_wf, State.sendReq_wf]

theorem State.loadLanes_wf (s : State) (u : Nat) (g : Nat) (minor : Nat) (reg : Nat) (a_ : List (Nat × Nat × Option Tlb)) (h0 : Memory.wf s.mem = true) : ∀ s_, State.loadLanes s u g minor reg a_ = .ok s_ → Memory.wf s_.mem = true := by
  fun_induction State.loadLanes s u g minor reg a_ <;> grind -ring -lia -linarith -ac -order [State.loadLane_wf]

theorem State.noteAll_wf (s : State) (core : Nat) (l : List (Nat × Nat × Option Tlb)) (h0 : Memory.wf s.mem = true) : Memory.wf (State.noteAll s core l).mem = true := by
  unfold State.noteAll
  grind -ring -lia -linarith -ac -order [foldl_wf, State.note_wf]

theorem State.markU_wf (s : State) (rs : List Nat) (h0 : Memory.wf s.mem = true) : Memory.wf (State.markU s rs).mem = true := by
  unfold State.markU
  grind -ring -lia -linarith -ac -order [foldl_wf]

theorem State.deferFault_wf (s : State) (u : Nat) (g : Nat) (lg : OpLog) (tr : Trap) (h0 : Memory.wf s.mem = true) : Memory.wf (State.deferFault s u g lg tr).mem = true := by
  unfold State.deferFault
  grind -ring -lia -linarith -ac -order [foldl_wf, State.afterFault_wf, State.enterHandler_wf, State.faultThread_wf, State.setLogs_wf, State.stopFor_wf]

theorem State.storeLane_wf (s : State) (u : Nat) (t : Nat) (va : Nat) (tr : Option Tlb) (n : Nat) (x : Nat) (h0 : Memory.wf s.mem = true) : Memory.wf (State.storeLane s u t va tr n x).mem = true := by
  unfold State.storeLane
  grind -ring -lia -linarith -ac -order [State.storeAt_wf, State.storeDom_wf]

theorem State.checkLd_wf (s : State) (u : Nat) (g : Nat) (lg : OpLog) (h0 : Memory.wf s.mem = true) : Memory.wf (State.checkLd s u g lg).mem = true := by
  unfold State.checkLd
  grind -ring -lia -linarith -ac -order [State.deferFault_wf, State.loadLanes_wf, State.noteAll_wf, State.setLogs_wf]

theorem State.replayLds_wf (s : State) (u : Nat) (ts : List Nat) (h0 : Memory.wf s.mem = true) : Memory.wf (State.replayLds s u ts).mem = true := by
  unfold State.replayLds
  grind -ring -lia -linarith -ac -order [foldl_wf, State.checkLd_wf]

theorem State.loadScr_wf (s : State) (offs : List (Nat × Nat)) (t : Nat) (n : Nat) (h0 : Memory.wf s.mem = true) : Memory.wf (State.loadScr s offs t n).mem = true := by
  unfold State.loadScr
  grind -ring -lia -linarith -ac -order [foldl_wf]

theorem State.putScr_wf (s : State) (u : Nat) (off : Nat) (bs : List Byte) (h0 : Memory.wf s.mem = true) : Memory.wf (State.putScr s u off bs).mem = true := by
  exact h0

theorem storePasses_wf (bank : Nat → Nat) (word : Nat → List Byte) (u : Nat) (a_2 : Nat) (a_1 : List (Nat × Nat)) (a_ : State) (h0 : Memory.wf a_.mem = true) : Memory.wf (storePasses bank word u a_2 a_1 a_).mem = true := by
  fun_induction storePasses bank word u a_2 a_1 a_ <;> grind -ring -lia -linarith -ac -order [foldl_wf, State.putScr_wf]

theorem State.storeScr_wf (s : State) (offs : List (Nat × Nat)) (t : Nat) (n : Nat) (h0 : Memory.wf s.mem = true) : Memory.wf (State.storeScr s offs t n).mem = true := by
  unfold State.storeScr
  grind -ring -lia -linarith -ac -order [foldl_wf, storePasses_wf]

theorem State.writeSkew_wf (s : State) (u : Nat) (second : Bool) (v : Word) (h0 : Memory.wf s.mem = true) : Memory.wf (State.writeSkew s u second v).mem = true := by
  exact h0

theorem State.finishWait_wf (s : State) (u : Nat) (t : Nat) (h0 : Memory.wf s.mem = true) : Memory.wf (State.finishWait s u t).mem = true := by
  unfold State.finishWait
  grind -ring -lia -linarith -ac -order [State.setThr_wf, State.testWait_wf]

theorem State.spillPut_wf (s : State) (l : Nat) (h0 : Memory.wf s.mem = true) : Memory.wf (State.spillPut s l).mem = true := by
  unfold State.spillPut
  grind -ring -lia -linarith -ac -order [State.kWrite_wf]

theorem State.spillFirst_wf (s : State) (p : BufOp → Bool) (h0 : Memory.wf s.mem = true) : Memory.wf (State.spillFirst s p).mem = true := by
  unfold State.spillFirst
  grind -ring -lia -linarith -ac -order [State.spillPut_wf]

theorem State.spillOne_wf (s : State) (core : Nat) (h0 : Memory.wf s.mem = true) : ∀ s_, State.spillOne s core = some s_ → Memory.wf s_.mem = true := by
  unfold State.spillOne
  grind -ring -lia -linarith -ac -order [State.spillFirst_wf]

theorem State.bufferOp_wf (s : State) (lane : Nat) (va : Nat) (scope : Nat) (kind : BufK) (regs : List Nat) (h0 : Memory.wf s.mem = true) : ∀ s_, State.bufferOp s lane va scope kind regs = some s_ → Memory.wf s_.mem = true := by
  unfold State.bufferOp
  grind -ring -lia -linarith -ac -order [State.setTeam_wf, State.spillOne_wf]

theorem State.bufferLanes_wf (s : State) (scope : Nat) (kind : Nat → BufK) (regs : List Nat) (a_ : List (Nat × Nat)) (h0 : Memory.wf s.mem = true) : ∀ s_, State.bufferLanes s scope kind regs a_ = .ok s_ → Memory.wf s_.mem = true := by
  fun_induction State.bufferLanes s scope kind regs a_ <;> grind -ring -lia -linarith -ac -order [State.bufferOp_wf]

theorem State.markRegs_wf (s : State) (rs : List Nat) (h0 : Memory.wf s.mem = true) : Memory.wf (State.markRegs s rs).mem = true := by
  unfold State.markRegs
  grind -ring -lia -linarith -ac -order [foldl_wf, State.markEmpty_wf]

theorem State.issueOp_wf (s : State) (d : OpDesc) (lane : Nat) (va : Nat) (tr : Option Tlb) (x : Nat) (cmp : Nat) (h0 : Memory.wf s.mem = true) : Memory.wf (State.issueOp s d lane va tr x cmp).mem = true := by
  unfold State.issueOp
  grind -ring -lia -linarith -ac -order [State.acquired_wf, State.giveUp_wf, State.sendReq_wf]

theorem State.addStat_wf (s : State) (u : Nat) (va : Nat) (n : Nat) (h0 : Memory.wf s.mem = true) : ∀ s_, State.addStat s u va n = .ok s_ → Memory.wf s_.mem = true := by
  unfold State.addStat
  grind -ring -lia -linarith -ac -order [State.performLocal_wf]

theorem State.addStatsGo_wf (s : State) (u : Nat) (base : Nat) (a_ : List (Nat × Nat)) (h0 : Memory.wf s.mem = true) : Memory.wf (State.addStatsGo s u base a_).1.mem = true := by
  fun_induction State.addStatsGo s u base a_ <;> grind -ring -lia -linarith -ac -order [State.addStat_wf]

theorem State.addStats_wf (s : State) (u : Nat) (h0 : Memory.wf s.mem = true) : Memory.wf (State.addStats s u).mem = true := by
  unfold State.addStats
  grind -ring -lia -linarith -ac -order [State.addStatsGo_wf, State.report_wf, State.setTeam_wf]

theorem State.countStat_wf (s : State) (u : Nat) (tensor : Nat) (kind : Nat) (n : Nat) (h0 : Memory.wf s.mem = true) : Memory.wf (State.countStat s u tensor kind n).mem = true := by
  unfold State.countStat
  grind -ring -lia -linarith -ac -order [State.setTeam_wf]

theorem State.addResv_wf (s : State) (l : Nat) (node : Nat) (f : Nat → Nat) (h0 : Memory.wf s.mem = true) : Memory.wf (State.addResv s l node f).mem = true := by
  exact h0

theorem State.releaseResv_wf (s : State) (u : Nat) (h0 : Memory.wf s.mem = true) : Memory.wf (State.releaseResv s u).mem = true := by
  unfold State.releaseResv
  grind -ring -lia -linarith -ac -order [foldl_wf, State.addResv_wf]

theorem State.dropTeam_wf (s : State) (u : Nat) (h0 : Memory.wf s.mem = true) : Memory.wf (State.dropTeam s u).mem = true := by
  exact h0

theorem State.endTeam_wf (s : State) (u : Nat) (h0 : Memory.wf s.mem = true) : Memory.wf (State.endTeam s u).mem = true := by
  unfold State.endTeam
  grind -ring -lia -linarith -ac -order [foldl_wf, State.addStats_wf, State.drainGang_wf, State.dropTeam_wf, State.publish_wf, State.releaseResv_wf, State.setLaunch_wf, State.setSysBit_wf]

theorem State.testEnd_wf (s : State) (u : Nat) (h0 : Memory.wf s.mem = true) : Memory.wf (State.testEnd s u).mem = true := by
  unfold State.testEnd
  grind -ring -lia -linarith -ac -order [State.endTeam_wf]

theorem State.engineDone_wf (s : State) (u : Nat) (h0 : Memory.wf s.mem = true) : Memory.wf (State.engineDone s u).mem = true := by
  unfold State.engineDone
  grind -ring -lia -linarith -ac -order [State.retestBars_wf, State.testEnd_wf]

theorem State.arriveLanes_wf (s : State) (n : Nat) (h0 : Memory.wf s.mem = true) : Memory.wf (State.arriveLanes s n).mem = true := by
  unfold State.arriveLanes
  grind -ring -lia -linarith -ac -order [State.arriveBar_wf, State.lanes_wf]

theorem State.setMeet_wf (s : State) (l : Nat) (m : Nat) (h0 : Memory.wf s.mem = true) : Memory.wf (State.setMeet s l m).mem = true := by
  exact h0

theorem State.barrierWait_wf (s : State) (ls : List Nat) (d : Nat) (n : Nat) (h0 : Memory.wf s.mem = true) : Memory.wf (State.barrierWait s ls d n).mem = true := by
  unfold State.barrierWait
  grind -ring -lia -linarith -ac -order [foldl_wf, State.waitFor_wf]

theorem State.setNode_wf (s : State) (l : Nat) (node : Nat) (nd : GNode) (h0 : Memory.wf s.mem = true) : Memory.wf (State.setNode s l node nd).mem = true := by
  exact h0

theorem State.arriveRec_wf (s : State) (r : RecArr) (h0 : Memory.wf s.mem = true) : Memory.wf (State.arriveRec s r).mem = true := by
  unfold State.arriveRec
  grind -ring -lia -linarith -ac -order [State.fillRegs_wf, State.kWrite_wf, State.report_wf, State.setNode_wf]

theorem State.joinLanes_wf (s : State) (a : VReg) (d : Option Nat) (h0 : Memory.wf s.mem = true) : Memory.wf (State.joinLanes s a d).mem = true := by
  unfold State.joinLanes
  grind -ring -lia -linarith -ac -order [State.drain_wf, State.lanes_wf, State.publish_wf, State.setTeam_wf]

theorem State.decJoin_wf (s : State) (j : JoinArr) (h0 : Memory.wf s.mem = true) : Memory.wf (State.decJoin s j).mem = true := by
  unfold State.decJoin
  grind -ring -lia -linarith -ac -order [State.fillReg_wf, State.kRead_wf, State.kWrite_wf, State.report_wf]

theorem State.engOutGo_wf (s : State) (c : Ctx) (op : Nat) (a_2 : Nat) (a_1 : Nat) (a_ : List Byte) (h0 : Memory.wf s.mem = true) : Memory.wf (State.engOutGo s c op a_2 a_1 a_).1.mem = true := by
  fun_induction State.engOutGo s c op a_2 a_1 a_ <;> grind -ring -lia -linarith -ac -order [State.hold_wf]

theorem State.engPutGo_wf (s : State) (c : Ctx) (a_2 : Nat) (a_1 : Nat) (a_ : List Byte) (h0 : Memory.wf s.mem = true) : Memory.wf (State.engPutGo s c a_2 a_1 a_).1.mem = true := by
  fun_induction State.engPutGo s c a_2 a_1 a_ <;> grind -ring -lia -linarith -ac -order [State.engWrite_wf, State.hold_wf, State.revive_wf]

theorem State.engPut_wf (s : State) (c : Ctx) (va : Nat) (bs : List Byte) (h0 : Memory.wf s.mem = true) : Memory.wf (State.engPut s c va bs).1.mem = true := by
  unfold State.engPut
  grind -ring -lia -linarith -ac -order [State.engPutGo_wf]

theorem State.writeCwDom_wf (s : State) (c : Ctx) (va : Nat) (scope : Nat) (word : Nat) (h0 : Memory.wf s.mem = true) : Memory.wf (State.writeCwDom s c va scope word).mem = true := by
  unfold State.writeCwDom
  grind -ring -lia -linarith -ac -order [State.giveUp_wf, State.performCopy_wf, State.ready_wf, State.sendReq_wf]

theorem State.engBytes_wf (s : State) (core : Nat) (pa : Nat) (a_ : Nat) (h0 : Memory.wf s.mem = true) : Memory.wf (State.engBytes s core pa a_).1.mem = true := by
  fun_induction State.engBytes s core pa a_ <;> grind -ring -lia -linarith -ac -order [State.engRead1_wf]

theorem State.fillLanes_wf (s : State) (u : Nat) (g : Nat) (lanes : List Nat) (d : Nat) (x : Word) (h0 : Memory.wf s.mem = true) : Memory.wf (State.fillLanes s u g lanes d x).mem = true := by
  unfold State.fillLanes
  grind -ring -lia -linarith -ac -order [foldl_wf, State.fillReg_wf]

theorem State.writeCw_wf (s : State) (c : Ctx) (va : Nat) (scope : Nat) (word : Nat) (h0 : Memory.wf s.mem = true) : Memory.wf (State.writeCw s c va scope word).mem = true := by
  unfold State.writeCw
  grind -ring -lia -linarith -ac -order [State.performLocal_wf, State.report_wf, State.writeCwDom_wf]

theorem State.doFin_wf (s : State) (u : Nat) (f : EngFin) (h0 : Memory.wf s.mem = true) : Memory.wf (State.doFin s u f).mem = true := by
  unfold State.doFin
  grind -ring -lia -linarith -ac -order [State.fillLanes_wf, State.writeCw_wf]

theorem State.suspend_wf (s : State) (c : Ctx) (cause : Cause) (addr : Nat) (write : Bool) (kind : Nat) (ch : Nat) (ref : Nat) (h0 : Memory.wf s.mem = true) : Memory.wf (State.suspend s c cause addr write kind ch ref).mem = true := by
  unfold State.suspend
  grind -ring -lia -linarith -ac -order [State.report_wf]

theorem State.engReadGo_wf (s : State) (c : Ctx) (a_2 : Nat) (a_1 : Nat) (a_ : Nat) (h0 : Memory.wf s.mem = true) : Memory.wf (State.engReadGo s c a_2 a_1 a_).1.mem = true := by
  fun_induction State.engReadGo s c a_2 a_1 a_ <;> grind -ring -lia -linarith -ac -order [State.engBytes_wf, State.hold_wf]

theorem State.engRead_wf (s : State) (c : Ctx) (va : Nat) (n : Nat) (h0 : Memory.wf s.mem = true) : Memory.wf (State.engRead s c va n).1.mem = true := by
  unfold State.engRead
  grind -ring -lia -linarith -ac -order [State.engReadGo_wf]

theorem State.endFins_wf (s : State) (u : Nat) (op : Nat) (h0 : Memory.wf s.mem = true) : Memory.wf (State.endFins s u op).mem = true := by
  unfold State.endFins
  grind -ring -lia -linarith -ac -order [foldl_wf, State.doFin_wf, State.engineDone_wf]

theorem State.engOut_wf (s : State) (c : Ctx) (op : Nat) (va : Nat) (bs : List Byte) (h0 : Memory.wf s.mem = true) : Memory.wf (State.engOut s c op va bs).1.mem = true := by
  unfold State.engOut
  grind -ring -lia -linarith -ac -order [State.engOutGo_wf]

theorem State.descCheck_wf (s : State) (lane : Nat) (desc : Nat) (cw : Option Nat) (h0 : Memory.wf s.mem = true) : Memory.wf (State.descCheck s lane desc cw).1.mem = true := by
  unfold State.descCheck
  grind -ring -lia -linarith -ac -order [State.drain_wf, State.engRead_wf, State.note_wf]

theorem State.enginePart_wf (s : State) (k : Nat) (h0 : Memory.wf s.mem = true) : Memory.wf (State.enginePart s k).mem = true := by
  unfold State.enginePart
  grind -ring -lia -linarith -ac -order [State.endFins_wf, State.engWrite_wf, State.revive_wf]

theorem State.finish_wf (s : State) (u : Nat) (op : Nat) (f : EngFin) (h0 : Memory.wf s.mem = true) : Memory.wf (State.finish s u op f).mem = true := by
  unfold State.finish
  grind -ring -lia -linarith -ac -order [State.doFin_wf, State.engineDone_wf]

theorem State.setTile_wf (s : State) (u : Nat) (t : Nat) (ws : List Word) (h0 : Memory.wf s.mem = true) : Memory.wf (State.setTile s u t ws).mem = true := by
  exact h0

theorem State.queueMop_wf (s : State) (d : Nat) (tile : Nat) (k : MOpK) (h0 : Memory.wf s.mem = true) : Memory.wf (State.queueMop s d tile k).mem = true := by
  unfold State.queueMop
  grind -ring -lia -linarith -ac -order [State.markEmpty_wf]

theorem State.countFw_wf (s : State) (u : Nat) (w : Nat) (kind : Nat) (n : Nat) (h0 : Memory.wf s.mem = true) : Memory.wf (State.countFw s u w kind n).mem = true := by
  unfold State.countFw
  grind -ring -lia -linarith -ac -order [State.countStat_wf]

theorem State.runMop_wf (s : State) (o : MOp) (h0 : Memory.wf s.mem = true) : Memory.wf (State.runMop s o).mem = true := by
  unfold State.runMop
  grind -ring -lia -linarith -ac -order [foldl_wf, State.countFw_wf, State.putScr_wf, State.setTile_wf]

theorem State.finishMop_wf (s : State) (o : MOp) (h0 : Memory.wf s.mem = true) : Memory.wf (State.finishMop s o).mem = true := by
  unfold State.finishMop
  grind -ring -lia -linarith -ac -order [State.engineDone_wf, State.fillLanes_wf, State.runMop_wf]

theorem State.putAct_wf (s : State) (core : Nat) (bank : Nat) (bs : List Byte) (h0 : Memory.wf s.mem = true) : Memory.wf (State.putAct s core bank bs).mem = true := by
  unfold State.putAct
  grind -ring -lia -linarith -ac -order [foldl_wf]

theorem State.finishImg_wf (s : State) (l : ImgLoad) (bs : List Byte) (h0 : Memory.wf s.mem = true) : Memory.wf (State.finishImg s l bs).mem = true := by
  unfold State.finishImg
  grind -ring -lia -linarith -ac -order [State.engineDone_wf, State.fillLanes_wf, State.putAct_wf]

theorem State.runImg_wf (s : State) (core : Nat) (kind : Nat) (ready : ImgLoad → Bool) (h0 : Memory.wf s.mem = true) : Memory.wf (State.runImg s core kind ready).mem = true := by
  unfold State.runImg
  grind -ring -lia -linarith -ac -order [State.engRead_wf, State.finishImg_wf, State.suspend_wf]

theorem State.putReg_wf (s : State) (line : Nat) (skipped : Nat) (taken : Nat) (r : CReg) (h0 : Memory.wf s.mem = true) : Memory.wf (State.putReg s line skipped taken r).mem = true := by
  unfold State.putReg
  grind -ring -lia -linarith -ac -order [State.homePut_wf]

theorem State.examine_wf (s : State) (c : Ctx) (d : CDecl) (line : Nat) (need : Nat) (a_3 : Nat) (a_2 : CReg) (a_1 : Nat) (a_ : Nat) (h0 : Memory.wf s.mem = true) : Memory.wf (State.examine s c d line need a_3 a_2 a_1 a_).1.mem = true := by
  fun_induction State.examine s c d line need a_3 a_2 a_1 a_ <;> grind -ring -lia -linarith -ac -order [State.engRead_wf, State.putReg_wf]

theorem State.require_wf (s : State) (c : Ctx) (d : CDecl) (line : Nat) (need : Nat) (h0 : Memory.wf s.mem = true) : Memory.wf (State.require s c d line need).1.mem = true := by
  unfold State.require
  grind -ring -lia -linarith -ac -order [State.examine_wf]

theorem State.claim_wf (s : State) (d : CDecl) (line : Nat) (h0 : Memory.wf s.mem = true) : Memory.wf (State.claim s d line).mem = true := by
  unfold State.claim
  grind -ring -lia -linarith -ac -order []

theorem State.fenceReg_wf (s : State) (line : Nat) (r : CReg) (h0 : Memory.wf s.mem = true) : Memory.wf (State.fenceReg s line r).mem = true := by
  exact h0

theorem State.fenceFor_wf (s : State) (tr : Trap) (handle : Nat) (h0 : Memory.wf s.mem = true) : Memory.wf (State.fenceFor s tr handle).mem = true := by
  unfold State.fenceFor
  grind -ring -lia -linarith -ac -order [State.fenceReg_wf]

theorem State.sendCaddy_wf (s : State) (minor : Nat) (handle : Nat) (line : Nat) (d : CDecl) (t : Nat) (a : VReg) (need : Nat) (l : Nat) (h0 : Memory.wf s.mem = true) : Memory.wf (State.sendCaddy s minor handle line d t a need l).mem = true := by
  exact h0

theorem State.performCaddy_wf (s : State) (o : CaddyOp) (h0 : Memory.wf s.mem = true) : Memory.wf (State.performCaddy s o).mem = true := by
  unfold State.performCaddy
  grind -ring -lia -linarith -ac -order [State.cisEvict_wf, State.fenceReg_wf, State.fillRegs_wf, State.lateFault_wf, State.putReg_wf, State.report_wf]

theorem State.settleReg_wf (s : State) (line : Nat) (h0 : Memory.wf s.mem = true) : Memory.wf (State.settleReg s line).mem = true := by
  unfold State.settleReg
  grind -ring -lia -linarith -ac -order [foldl_wf, State.performCaddy_wf]

theorem State.settleFor_wf (s : State) (line : Nat) (ins : Nat) (h0 : Memory.wf s.mem = true) : Memory.wf (State.settleFor s line ins).mem = true := by
  unfold State.settleFor
  grind -ring -lia -linarith -ac -order [State.settleReg_wf]

theorem State.settleGang_wf (s : State) (u : Nat) (g : Nat) (h0 : Memory.wf s.mem = true) : Memory.wf (State.settleGang s u g).mem = true := by
  unfold State.settleGang
  grind -ring -lia -linarith -ac -order [foldl_wf, State.settleReg_wf]

theorem State.readRec_wf (s : State) (va : Nat) (h0 : Memory.wf s.mem = true) : Memory.wf (State.readRec s va).1.mem = true := by
  unfold State.readRec
  grind -ring -lia -linarith -ac -order [State.engRead_wf, State.note_wf]

theorem State.copyRecs_wf (s : State) (dva : Nat) (sva : Nat) (caddy : Bool) (h0 : Memory.wf s.mem = true) : Memory.wf (State.copyRecs s dva sva caddy).1.mem = true := by
  unfold State.copyRecs
  grind -ring -lia -linarith -ac -order [State.drain_wf, State.readRec_wf]

theorem State.setChan_wf (s : State) (u : Nat) (ch : Nat) (c : Chan) (h0 : Memory.wf s.mem = true) : Memory.wf (State.setChan s u ch c).mem = true := by
  exact h0

theorem State.setCopyHead_wf (s : State) (u : Nat) (ch : Nat) (c : Copy) (h0 : Memory.wf s.mem = true) : Memory.wf (State.setCopyHead s u ch c).mem = true := by
  exact h0

theorem State.modCopyHead_wf (s : State) (u : Nat) (ch : Nat) (f : Copy → Copy) (h0 : Memory.wf s.mem = true) : Memory.wf (State.modCopyHead s u ch f).mem = true := by
  unfold State.modCopyHead
  grind -ring -lia -linarith -ac -order [State.setCopyHead_wf]

theorem State.faultCopy_wf (s : State) (u : Nat) (ch : Nat) (c : Copy) (x : Cause) (addr : Nat) (write : Bool) (h0 : Memory.wf s.mem = true) : Memory.wf (State.faultCopy s u ch c x addr write).mem = true := by
  unfold State.faultCopy
  grind -ring -lia -linarith -ac -order [State.modCopyHead_wf, State.suspend_wf]

theorem State.denseSource_wf (s : State) (u : Nat) (c : Copy) (ix : List Nat) (h0 : Memory.wf s.mem = true) : Memory.wf (State.denseSource s u c ix).1.mem = true := by
  unfold State.denseSource
  grind -ring -lia -linarith -ac -order [State.fenceReg_wf]

theorem State.copySource_wf (s : State) (u : Nat) (ch : Nat) (c : Copy) (src : Option ℤ) (ix : List Nat) (h0 : Memory.wf s.mem = true) : Memory.wf (State.copySource s u ch c src ix).1.mem = true := by
  unfold State.copySource
  grind -ring -lia -linarith -ac -order [State.denseSource_wf, State.engRead_wf, State.giveUp_wf, State.sendReq_wf, State.setCopyHead_wf]

theorem State.scrPuts_wf (s : State) (u : Nat) (off : Nat) (bs : List Byte) (h0 : Memory.wf s.mem = true) : Memory.wf (State.scrPuts s u off bs).mem = true := by
  exact h0

theorem Ahead.unit_wf (x : Ctx) (p : Ahead) (a : Nat × Bool) (h0 : Memory.wf p.1.mem = true) : Memory.wf (Ahead.unit x p a).1.mem = true := by
  unfold Ahead.unit
  grind -ring -lia -linarith -ac -order [State.hold_wf]

theorem Copy.ahead_wf (c : Copy) (x : Ctx) (a_2 : Nat) (a_1 : Nat) (a_ : Ahead) (h0 : Memory.wf a_.1.mem = true) : Memory.wf (Copy.ahead c x a_2 a_1 a_).1.mem = true := by
  fun_induction Copy.ahead c x a_2 a_1 a_ with
  | case1 => exact h0
  | case2 => exact h0
  | case3 at_ p fuel hn ih =>
    exact ih (foldl_inv (fun p : Ahead => Memory.wf p.1.mem = true) _ _ _ h0 fun a b h => Ahead.unit_wf x a b h)

theorem State.queueCopy_wf (s : State) (ch : Nat) (c : Copy) (h0 : Memory.wf s.mem = true) : Memory.wf (State.queueCopy s ch c).mem = true := by
  unfold State.queueCopy
  grind -ring -lia -linarith -ac -order [State.setBar_wf, State.setChan_wf]

theorem State.finishCopy_wf (s : State) (u : Nat) (ch : Nat) (aborted : Bool) (h0 : Memory.wf s.mem = true) : Memory.wf (State.finishCopy s u ch aborted).mem = true := by
  unfold State.finishCopy
  grind -ring -lia -linarith -ac -order [State.engineDone_wf, State.setBar_wf, State.setChan_wf, State.writeCw_wf]

theorem State.countCopy_wf (s : State) (u : Nat) (ch : Nat) (n : Nat) (h0 : Memory.wf s.mem = true) : Memory.wf (State.countCopy s u ch n).mem = true := by
  unfold State.countCopy
  grind -ring -lia -linarith -ac -order [State.finishCopy_wf, State.setChan_wf]

theorem State.deliverCopy_wf (s : State) (u : Nat) (ch : Nat) (c : Copy) (h0 : Memory.wf s.mem = true) : Memory.wf (State.deliverCopy s u ch c).mem = true := by
  unfold State.deliverCopy
  grind -ring -lia -linarith -ac -order [State.copySource_wf, State.countCopy_wf, State.engPut_wf, State.faultCopy_wf, State.giveUp_wf, State.modCopyHead_wf, State.scrPuts_wf, State.sendReq_wf]

theorem State.aheadTrec_wf (s : State) (t : Trec) (h0 : Memory.wf s.mem = true) : Memory.wf (State.aheadTrec s t).mem = true := by
  unfold State.aheadTrec
  grind -ring -lia -linarith -ac -order [Copy.ahead_wf]

theorem State.walkAhead_wf (s : State) (u : Nat) (ch : Nat) (h0 : Memory.wf s.mem = true) : Memory.wf (State.walkAhead s u ch).mem = true := by
  unfold State.walkAhead
  grind -ring -lia -linarith -ac -order [Copy.ahead_wf, State.modCopyHead_wf]

theorem State.readTrec_wf (s : State) (va : Nat) (h0 : Memory.wf s.mem = true) : Memory.wf (State.readTrec s va).1.mem = true := by
  unfold State.readTrec
  grind -ring -lia -linarith -ac -order [State.readRec_wf]

theorem State.copyReply_wf (s : State) (u : Nat) (ch : Nat) (x : Nat) (h0 : Memory.wf s.mem = true) : Memory.wf (State.copyReply s u ch x).mem = true := by
  unfold State.copyReply
  grind -ring -lia -linarith -ac -order [State.countCopy_wf, State.setCopyHead_wf]

theorem State.dropBuf_wf (s : State) (b : BufOp) (cause : Nat) (h0 : Memory.wf s.mem = true) : Memory.wf (State.dropBuf s b cause).mem = true := by
  unfold State.dropBuf
  grind -ring -lia -linarith -ac -order [State.fillRegs_wf, State.report_wf, State.setLaunch_wf]

theorem State.bufReply_wf (s : State) (b : BufOp) (r : Option Nat) (h0 : Memory.wf s.mem = true) : Memory.wf (State.bufReply s b r).mem = true := by
  unfold State.bufReply
  grind -ring -lia -linarith -ac -order [State.dropBuf_wf, State.fillRegs_wf]

theorem State.sendRed_wf (s : State) (lane : Nat) (va : Nat) (w : Nat) (t : Nat) (e : Tlb) (h0 : Memory.wf s.mem = true) : Memory.wf (State.sendRed s lane va w t e).mem = true := by
  unfold State.sendRed
  grind -ring -lia -linarith -ac -order [State.evict_wf, State.revive_wf]

theorem State.bufferRed_wf (s : State) (scope : Nat) (w : Nat) (t : Nat) (addrs : List (Nat × Nat)) (h0 : Memory.wf s.mem = true) : ∀ s_, State.bufferRed s scope w t addrs = .ok s_ → Memory.wf s_.mem = true := by
  unfold State.bufferRed
  refine foldlM_inv (fun s : State => Memory.wf s.mem = true) _ _ _ h0 fun s e s' h hs => ?_
  exact foldlM_inv (fun s : State => Memory.wf s.mem = true) _ _ _ h
    (fun s k s' h hs => State.bufferLanes_wf _ _ _ _ _ h _ hs) _ hs

theorem State.unreserve_wf (s : State) (line : Nat) (need : Nat) (h0 : Memory.wf s.mem = true) : Memory.wf (State.unreserve s line need).mem = true := by
  exact h0

theorem State.applyCred_wf (s : State) (b : BufOp) (handle : Nat) (line0 : Nat) (key : Nat) (data : List Word) (need : Nat) (h0 : Memory.wf s.mem = true) : Memory.wf (State.applyCred s b handle line0 key data need).mem = true := by
  unfold State.applyCred
  grind -ring -lia -linarith -ac -order [State.dropBuf_wf, State.fenceReg_wf, State.putReg_wf, State.unreserve_wf]

theorem State.applyBuf_wf (s : State) (b : BufOp) (h0 : Memory.wf s.mem = true) : Memory.wf (State.applyBuf s b).mem = true := by
  unfold State.applyBuf
  grind -ring -lia -linarith -ac -order [State.applyCred_wf, State.dropBuf_wf, State.fillRegs_wf, State.performLocal_wf, State.sendReq_wf]

theorem State.flushBufs_wf (s : State) (p : BufOp → Bool) (h0 : Memory.wf s.mem = true) : Memory.wf (State.flushBufs s p).mem = true := by
  unfold State.flushBufs
  grind -ring -lia -linarith -ac -order [foldl_wf, State.applyBuf_wf]

theorem State.engTry_wf (s : State) (c : Ctx) (op : Nat) (va : Nat) (bs : List Byte) (h0 : Memory.wf s.mem = true) : Memory.wf (State.engTry s c op va bs).1.mem = true := by
  unfold State.engTry
  grind -ring -lia -linarith -ac -order [State.engOut_wf]

theorem State.engPuts_wf (s : State) (c : Ctx) (a_ : List (Nat × List Byte)) (h0 : Memory.wf s.mem = true) : Memory.wf (State.engPuts s c a_).1.mem = true := by
  fun_induction State.engPuts s c a_ <;> grind -ring -lia -linarith -ac -order [State.engTry_wf]

theorem State.routeEnd_wf (s : State) (c : Ctx) (b : List Byte) (fill : NMap Nat) (a_ : List Nat) (h0 : Memory.wf s.mem = true) : Memory.wf (State.routeEnd s c b fill a_).1.mem = true := by
  fun_induction State.routeEnd s c b fill a_ <;> grind -ring -lia -linarith -ac -order [State.engTry_wf]

theorem State.engWord_wf (s : State) (c : Ctx) (va : Nat) (h0 : Memory.wf s.mem = true) : Memory.wf (State.engWord s c va).1.mem = true := by
  unfold State.engWord
  grind -ring -lia -linarith -ac -order [State.engRead_wf]

theorem State.routeGo_wf (s : State) (c : Ctx) (b : List Byte) (a_2 : List Nat) (a_1 : NMap Nat) (a_ : Nat) (h0 : Memory.wf s.mem = true) : Memory.wf (State.routeGo s c b a_2 a_1 a_).1.mem = true := by
  fun_induction State.routeGo s c b a_2 a_1 a_ <;> grind -ring -lia -linarith -ac -order [State.engTry_wf, State.engWord_wf]

theorem State.runSort_wf (s : State) (c : Ctx) (b : List Byte) (h0 : Memory.wf s.mem = true) : Memory.wf (State.runSort s c b).1.mem = true := by
  unfold State.runSort
  grind -ring -lia -linarith -ac -order [State.engPuts_wf, State.engRead_wf]

theorem State.setColl_wf (s : State) (c : Coll) (h0 : Memory.wf s.mem = true) : Memory.wf (State.setColl s c).mem = true := by
  exact h0

theorem State.endColl_wf (s : State) (c : Coll) (status : Nat) (reason : Nat) (h0 : Memory.wf s.mem = true) : Memory.wf (State.endColl s c status reason).mem = true := by
  unfold State.endColl
  grind -ring -lia -linarith -ac -order [State.finish_wf, State.setColl_wf]

theorem State.engWrote_wf (s : State) (c : Coll) (va : Nat) (bs : List Byte) (h0 : Memory.wf s.mem = true) : Memory.wf (State.engWrote s c va bs).1.mem = true := by
  unfold State.engWrote
  grind -ring -lia -linarith -ac -order [State.engOut_wf]

theorem State.writeTile_wf (s : State) (c : Coll) (base : Nat) (bs : List Byte) (a_ : List (Nat × Nat × Nat)) (h0 : Memory.wf s.mem = true) : Memory.wf (State.writeTile s c base bs a_).1.mem = true := by
  fun_induction State.writeTile s c base bs a_ <;> grind -ring -lia -linarith -ac -order [State.engWrote_wf]

theorem State.landA2a_wf (s : State) (c : Coll) (idx : Nat) (off : Nat) (bs : List Byte) (whole : Option Nat) (h0 : Memory.wf s.mem = true) : Memory.wf (State.landA2a s c idx off bs whole).1.mem = true := by
  unfold State.landA2a
  grind -ring -lia -linarith -ac -order [State.engTry_wf, State.engWrote_wf]

theorem State.faultColl_wf (s : State) (c : Coll) (h0 : Memory.wf s.mem = true) : Memory.wf (State.faultColl s c).mem = true := by
  unfold State.faultColl
  grind -ring -lia -linarith -ac -order [State.endColl_wf, State.setColl_wf]

theorem State.readTile_wf (s : State) (c : Ctx) (base : Nat) (a_1 : List (Nat × Nat × Nat)) (a_ : List Byte) (h0 : Memory.wf s.mem = true) : Memory.wf (State.readTile s c base a_1 a_).1.mem = true := by
  fun_induction State.readTile s c base a_1 a_ <;> grind -ring -lia -linarith -ac -order [State.engRead_wf]

theorem State.ownTile_wf (s : State) (c : Coll) (t : Nat) (h0 : Memory.wf s.mem = true) : Memory.wf (State.ownTile s c t).1.mem = true := by
  unfold State.ownTile
  grind -ring -lia -linarith -ac -order [State.readTile_wf]

theorem State.ownTiles_wf (s : State) (c : Coll) (a_ : List Nat) (h0 : Memory.wf s.mem = true) : Memory.wf (State.ownTiles s c a_).1.mem = true := by
  fun_induction State.ownTiles s c a_ <;> grind -ring -lia -linarith -ac -order [State.ownTile_wf]

theorem State.partBytes_wf (s : State) (c : Coll) (m : CMember) (off : Nat) (n : Nat) (h0 : Memory.wf s.mem = true) : Memory.wf (State.partBytes s c m off n).1.mem = true := by
  unfold State.partBytes
  grind -ring -lia -linarith -ac -order [State.engRead_wf, State.ownTiles_wf]

theorem State.queueChunk_wf (s : State) (id : Nat) (mid : Nat) (off : Nat) (h0 : Memory.wf s.mem = true) : Memory.wf (State.queueChunk s id mid off).mem = true := by
  unfold State.queueChunk
  grind -ring -lia -linarith -ac -order [State.faultColl_wf, State.partBytes_wf, State.setColl_wf]

theorem State.compReady_wf (s : State) (c : Coll) (a_ : List (Nat × List Nat)) (h0 : Memory.wf s.mem = true) : Memory.wf (State.compReady s c a_).1.mem = true := by
  fun_induction State.compReady s c a_ <;> grind -ring -lia -linarith -ac -order [State.ownTile_wf, State.writeTile_wf]

theorem State.tryColl_wf (s : State) (id : Nat) (h0 : Memory.wf s.mem = true) : Memory.wf (State.tryColl s id).mem = true := by
  unfold State.tryColl
  grind -ring -lia -linarith -ac -order [State.compReady_wf, State.endColl_wf, State.engRead_wf, State.engWrote_wf, State.setColl_wf]

theorem State.openColl_wf (s : State) (c : Coll) (h0 : Memory.wf s.mem = true) : Memory.wf (State.openColl s c).mem = true := by
  unfold State.openColl
  grind -ring -lia -linarith -ac -order [foldl_wf, State.endColl_wf, State.engRead_wf, State.landA2a_wf, State.queueChunk_wf, State.setColl_wf, State.tryColl_wf]

theorem State.readOrders_wf (s : State) (c : Ctx) (aux : Nat) (count : Nat) (a_ : List Nat) (h0 : Memory.wf s.mem = true) : Memory.wf (State.readOrders s c aux count a_).1.mem = true := by
  fun_induction State.readOrders s c aux count a_ <;> grind -ring -lia -linarith -ac -order [State.engRead_wf]

theorem State.startColl_wf (s : State) (c : Coll) (h0 : Memory.wf s.mem = true) : Memory.wf (State.startColl s c).mem = true := by
  unfold State.startColl
  grind -ring -lia -linarith -ac -order [State.endColl_wf, State.engRead_wf, State.openColl_wf, State.readOrders_wf]

theorem State.landChunk_wf (s : State) (c : Coll) (m : Msg) (h0 : Memory.wf s.mem = true) : Memory.wf (State.landChunk s c m).mem = true := by
  unfold State.landChunk
  grind -ring -lia -linarith -ac -order [State.endColl_wf, State.landA2a_wf, State.setColl_wf, State.tryColl_wf]

theorem State.refuseChunk_wf (s : State) (m : Msg) (h0 : Memory.wf s.mem = true) : Memory.wf (State.refuseChunk s m).mem = true := by
  exact h0

theorem State.chunkAgain_wf (s : State) (id : Nat) (mid : Nat) (off : Nat) (h0 : Memory.wf s.mem = true) : Memory.wf (State.chunkAgain s id mid off).mem = true := by
  unfold State.chunkAgain
  grind -ring -lia -linarith -ac -order [State.queueChunk_wf, State.setColl_wf]

theorem State.chunkPlaced_wf (s : State) (id : Nat) (mid : Nat) (off : Nat) (h0 : Memory.wf s.mem = true) : Memory.wf (State.chunkPlaced s id mid off).mem = true := by
  unfold State.chunkPlaced
  grind -ring -lia -linarith -ac -order [State.queueChunk_wf, State.setColl_wf]

theorem State.writeDispCtl_wf (s : State) (head : Nat) (x : Nat) (h0 : Memory.wf s.mem = true) : Memory.wf (State.writeDispCtl s head x).mem = true := by
  unfold State.writeDispCtl
  grind -ring -lia -linarith -ac -order [State.setSys_wf, State.setSysBit_wf]

theorem State.setHead_wf (s : State) (k : Nat) (h : Head) (h0 : Memory.wf s.mem = true) : Memory.wf (State.setHead s k h).mem = true := by
  exact h0

theorem State.endPres_wf (s : State) (k : Nat) (p : PresOp) (status : Nat) (reason : Nat) (n : Nat) (h0 : Memory.wf s.mem = true) : Memory.wf (State.endPres s k p status reason n).mem = true := by
  unfold State.endPres
  grind -ring -lia -linarith -ac -order [State.finish_wf, State.setHead_wf]

theorem State.readRows_wf (s : State) (c : Ctx) (a_ : List (Nat × Nat)) (h0 : Memory.wf s.mem = true) : Memory.wf (State.readRows s c a_).1.mem = true := by
  fun_induction State.readRows s c a_ <;> grind -ring -lia -linarith -ac -order [State.engRead_wf]

theorem State.encode_wf (s : State) (k : Nat) (p : PresOp) (h0 : Memory.wf s.mem = true) : Memory.wf (State.encode s k p).mem = true := by
  unfold State.encode
  grind -ring -lia -linarith -ac -order [State.endPres_wf, State.engOut_wf, State.readRows_wf, State.setHead_wf]

theorem State.latch_wf (s : State) (k : Nat) (p : PresOp) (h0 : Memory.wf s.mem = true) : Memory.wf (State.latch s k p).mem = true := by
  unfold State.latch
  grind -ring -lia -linarith -ac -order [State.endPres_wf, State.readRows_wf, State.setHead_wf]

theorem State.failFill_wf (s : State) (o : RemOp) (place : Nat) (line : Nat) (h0 : Memory.wf s.mem = true) : Memory.wf (State.failFill s o place line).mem = true := by
  unfold State.failFill
  grind -ring -lia -linarith -ac -order [State.fillRegs_wf, State.finishWait_wf]

theorem State.fillLine_wf (s : State) (o : RemOp) (place : Nat) (line : Nat) (x : Nat) (h0 : Memory.wf s.mem = true) : Memory.wf (State.fillLine s o place line x).mem = true := by
  unfold State.fillLine
  grind -ring -lia -linarith -ac -order [State.giveUp_wf, State.install_wf, State.sendReq_wf]

theorem State.observeAt_wf (s : State) (o : RemOp) (minor : Nat) (h0 : Memory.wf s.mem = true) : Memory.wf (State.observeAt s o minor).mem = true := by
  unfold State.observeAt
  grind -ring -lia -linarith -ac -order [State.observe_wf]

theorem State.answer_wf (s : State) (o : RemOp) (v : Option Nat) (h0 : Memory.wf s.mem = true) : Memory.wf (State.answer s o v).mem = true := by
  unfold State.answer
  grind -ring -lia -linarith -ac -order [State.acquired_wf, State.bufReply_wf, State.copyReply_wf, State.failFill_wf, State.fill_wf, State.fillLine_wf, State.fillRegs_wf, State.observeAt_wf]

theorem State.teamFlag_wf (s : State) (u : Nat) (k : Nat) (h0 : Memory.wf s.mem = true) : Memory.wf (State.teamFlag s u k).mem = true := by
  unfold State.teamFlag
  grind -ring -lia -linarith -ac -order [State.setTeam_wf]

theorem State.settle_wf (s : State) (o : RemOp) (flag : Option Nat) (v : Option Nat) (h0 : Memory.wf s.mem = true) : Memory.wf (State.settle s o flag v).mem = true := by
  unfold State.settle
  grind -ring -lia -linarith -ac -order [State.answer_wf, State.teamFlag_wf]

theorem State.takeIn_wf (s : State) (m : Msg) (h0 : Memory.wf s.mem = true) : Memory.wf (State.takeIn s m).mem = true := by
  unfold State.takeIn
  grind -ring -lia -linarith -ac -order []

theorem State.replyTo_wf (s : State) (m : Msg) (r : Req) (ans : Option (Nat × Nat)) (h0 : Memory.wf s.mem = true) : Memory.wf (State.replyTo s m r ans).mem = true := by
  unfold State.replyTo
  grind -ring -lia -linarith -ac -order [State.takeIn_wf]

theorem State.servePart_wf (s : State) (r : Req) (e : Tlb) (i : Nat) (n : Nat) (h0 : Memory.wf s.mem = true) : Memory.wf (State.servePart s r e i n).1.mem = true := by
  unfold State.servePart
  grind -ring -lia -linarith -ac -order [State.evict_wf, State.performHome_wf, State.revive_wf]

theorem State.serve_wf (s : State) (k : Nat) (m : Msg) (r : Req) (h0 : Memory.wf s.mem = true) : Memory.wf (State.serve s k m r).mem = true := by
  unfold State.serve
  grind -ring -lia -linarith -ac -order [State.replyTo_wf, State.servePart_wf]

theorem State.setPlane_wf (s : State) (p : Nat) (x : Plane) (h0 : Memory.wf s.mem = true) : Memory.wf (State.setPlane s p x).mem = true := by
  exact h0

theorem State.unseq_wf (s : State) (q : QMsg) (h0 : Memory.wf s.mem = true) : Memory.wf (State.unseq s q).1.mem = true := by
  exact h0

theorem State.countFab_wf (s : State) (msg : Bool) (h0 : Memory.wf s.mem = true) : Memory.wf (State.countFab s msg).mem = true := by
  unfold State.countFab
  grind -ring -lia -linarith -ac -order [State.setSys_wf]

theorem State.deliverHeld_wf (src : Nat) (a_1 : Nat) (a_ : State) (h0 : Memory.wf a_.mem = true) : Memory.wf (State.deliverHeld src a_1 a_).mem = true := by
  fun_induction State.deliverHeld src a_1 a_ <;> grind -ring -lia -linarith -ac -order [State.takeIn_wf]

theorem State.deliver_wf (s : State) (m : Msg) (h0 : Memory.wf s.mem = true) : Memory.wf (State.deliver s m).mem = true := by
  exact ite_wf _ _ _ rfl (State.takeIn_wf _ _ h0) (ite_wf _ _ _ rfl h0 (State.deliverHeld_wf _ _ _ h0))

theorem State.putWell_wf (s : State) (m : Msg) (h0 : Memory.wf s.mem = true) : Memory.wf (State.putWell s m).mem = true := by
  exact h0

theorem State.receive_wf (s : State) (p : Nat) (m : Msg) (h0 : Memory.wf s.mem = true) : Memory.wf (State.receive s p m).mem = true := by
  unfold State.receive
  grind -ring -lia -linarith -ac -order [State.countFab_wf, State.deliver_wf, State.putWell_wf, State.setPlane_wf]

theorem State.chunksPlaced_wf (s : State) (qs : List QMsg) (h0 : Memory.wf s.mem = true) : Memory.wf (State.chunksPlaced s qs).mem = true := by
  unfold State.chunksPlaced
  grind -ring -lia -linarith -ac -order [foldl_wf, State.chunkPlaced_wf, State.tryColl_wf]

theorem State.place_wf (s : State) (p : Nat) (q : QMsg) (relay : Bool) (h0 : Memory.wf s.mem = true) : Memory.wf (State.place s p q relay).mem = true := by
  unfold State.place
  grind -ring -lia -linarith -ac -order [State.setPlane_wf]

theorem State.relayTo_wf (p : Nat) (d : Nat) (a_3 : Nat) (a_2 : Nat) (a_1 : List Nat) (a_ : State) (h0 : Memory.wf a_.mem = true) : Memory.wf (State.relayTo p d a_3 a_2 a_1 a_).mem = true := by
  fun_induction State.relayTo p d a_3 a_2 a_1 a_ <;> grind -ring -lia -linarith -ac -order [State.place_wf]

theorem State.relayAll_wf (s : State) (p : Nat) (slot : Nat) (d : Nat) (allow : List (Nat × Nat)) (h0 : Memory.wf s.mem = true) : Memory.wf (State.relayAll s p slot d allow).mem = true := by
  unfold State.relayAll
  grind -ring -lia -linarith -ac -order [foldl_wf, State.chunksPlaced_wf, State.relayTo_wf]

theorem State.unack_wf (s : State) (m : Msg) (h0 : Memory.wf s.mem = true) : Memory.wf (State.unack s m).mem = true := by
  unfold State.unack
  grind -ring -lia -linarith -ac -order []

theorem State.unplace_wf (s : State) (q : QMsg) (h0 : Memory.wf s.mem = true) : Memory.wf (State.unplace s q).mem = true := by
  unfold State.unplace
  grind -ring -lia -linarith -ac -order []

theorem State.unseqAll_wf (a_1 : List QMsg) (a_ : State) (h0 : Memory.wf a_.mem = true) : Memory.wf (State.unseqAll a_1 a_).1.mem = true := by
  induction a_1 with
  | nil => exact h0
  | cons q qs ih =>
    simp only [State.unseqAll]
    exact State.unseq_wf _ _ ih

theorem State.unsend_wf (s : State) (p : Nat) (h0 : Memory.wf s.mem = true) : Memory.wf (State.unsend s p).mem = true := by
  unfold State.unsend
  exact State.unseqAll_wf _ _ (foldl_wf _ _ _ (foldl_wf _ _ _ h0 fun s b h => State.unplace_wf s b h)
    fun s b h => State.unack_wf s b h)

theorem State.readCal_wf (s : State) (h0 : Memory.wf s.mem = true) : Memory.wf (State.readCal s).mem = true := by
  exact h0

theorem State.writeFabricCtl_wf (s : State) (v : Nat) (h0 : Memory.wf s.mem = true) : Memory.wf (State.writeFabricCtl s v).mem = true := by
  unfold State.writeFabricCtl
  grind -ring -lia -linarith -ac -order [State.readCal_wf, State.setSys_wf, State.setSysBit_wf]

theorem State.markOverrun_wf (s : State) (d : Nat) (h0 : Memory.wf s.mem = true) : Memory.wf (State.markOverrun s d).mem = true := by
  unfold State.markOverrun
  grind -ring -lia -linarith -ac -order [foldl_wf]

theorem State.placeAck_wf (s : State) (p : Nat) (d : Nat) (m : Msg) (h0 : Memory.wf s.mem = true) : Memory.wf (State.placeAck s p d m).mem = true := by
  unfold State.placeAck
  grind -ring -lia -linarith -ac -order [State.setPlane_wf]

theorem State.turn_wf (s : State) (p : Nat) (d : Nat) (a_ : List Nat) (h0 : Memory.wf s.mem = true) : Memory.wf (State.turn s p d a_).1.mem = true := by
  fun_induction State.turn s p d a_ <;> grind -ring -lia -linarith -ac -order [State.place_wf]

theorem State.turns_wf (p : Nat) (d : Nat) (a_2 : Nat) (a_1 : List Nat) (a_ : State) (h0 : Memory.wf a_.mem = true) : Memory.wf (State.turns p d a_2 a_1 a_).mem = true := by
  fun_induction State.turns p d a_2 a_1 a_ <;> grind -ring -lia -linarith -ac -order [State.turn_wf]

theorem State.sendFrame_wf (s : State) (p : Nat) (slot : Nat) (d : Nat) (h0 : Memory.wf s.mem = true) : Memory.wf (State.sendFrame s p slot d).mem = true := by
  unfold State.sendFrame
  lift_lets
  intro allow left wells pl0 s1 pl s2 acks s3 order s4 pl2 a f
  have h1 : Memory.wf s2.mem = true := h0
  have h2 : Memory.wf s3.mem = true := foldl_wf _ _ _ h1 (fun s b h => State.placeAck_wf _ _ _ _ h)
  have h3 : Memory.wf s4.mem = true := State.markOverrun_wf _ _ (State.turns_wf _ _ _ _ _ h2)
  clear_value s4
  exact State.chunksPlaced_wf _ _ h3

theorem State.writeLqBase_wf (s : State) (i : Nat) (v : Nat) (h0 : Memory.wf s.mem = true) : Memory.wf (State.writeLqBase s i v).mem = true := by
  unfold State.writeLqBase
  grind -ring -lia -linarith -ac -order [State.setSys_wf, State.setSysBit_wf]

theorem State.doorbell_wf (s : State) (i : Nat) (v : Nat) (h0 : Memory.wf s.mem = true) : Memory.wf (State.doorbell s i v).mem = true := by
  unfold State.doorbell
  grind -ring -lia -linarith -ac -order [State.evictAll_wf]

theorem State.kReads_wf (s : State) (l : Nat) (a_2 : Nat) (a_1 : Nat) (a_ : Nat) (h0 : Memory.wf s.mem = true) : Memory.wf (State.kReads s l a_2 a_1 a_).1.mem = true := by
  fun_induction State.kReads s l a_2 a_1 a_ <;> grind -ring -lia -linarith -ac -order [State.kRead_wf]

theorem State.finishLaunch_wf (s : State) (l : Nat) (status : Nat) (reason : Nat) (h0 : Memory.wf s.mem = true) : Memory.wf (State.finishLaunch s l status reason).mem = true := by
  unfold State.finishLaunch
  grind -ring -lia -linarith -ac -order [State.kettleAddr_wf, State.performHome_wf, State.report_wf, State.setLaunch_wf]

theorem State.readGraph_wf (s : State) (l : Nat) (va : Nat) (stage : Nat) (h0 : Memory.wf s.mem = true) : Memory.wf (State.readGraph s l va stage).1.mem = true := by
  unfold State.readGraph
  grind -ring -lia -linarith -ac -order [State.kReads_wf]

theorem State.ringEntry_wf (s : State) (slice : Nat) (va : Nat) (h0 : Memory.wf s.mem = true) : Memory.wf (State.ringEntry s slice va).1.mem = true := by
  unfold State.ringEntry
  grind -ring -lia -linarith -ac -order [State.homeRead_wf]

theorem State.checkEntry_wf (s : State) (l : Nat) (b : List Byte) (h0 : Memory.wf s.mem = true) : Memory.wf (State.checkEntry s l b).1.mem = true := by
  unfold State.checkEntry
  grind -ring -lia -linarith -ac -order [State.kettleAddr_wf, State.readGraph_wf, State.setLaunch_wf]

theorem State.publishSlice_wf (s : State) (k : Nat) (h0 : Memory.wf s.mem = true) : Memory.wf (State.publishSlice s k).mem = true := by
  unfold State.publishSlice
  grind -ring -lia -linarith -ac -order [foldl_wf, State.publish_wf]

theorem State.writeLqCtl_wf (s : State) (i : Nat) (v : Nat) (h0 : Memory.wf s.mem = true) : Memory.wf (State.writeLqCtl s i v).mem = true := by
  unfold State.writeLqCtl
  grind -ring -lia -linarith -ac -order [State.setSys_wf, State.setSysBit_wf]

theorem State.seeLine_wf (s : State) (u : Nat) (va : Nat) (now : List Byte) (h0 : Memory.wf s.mem = true) : Memory.wf (State.seeLine s u va now).mem = true := by
  unfold State.seeLine
  grind -ring -lia -linarith -ac -order [State.setTeam_wf]

theorem State.lineNow_wf (s : State) (u : Nat) (t : Nat) (pos : Nat) (h0 : Memory.wf s.mem = true) : Memory.wf (State.lineNow s u t pos).1.mem = true := by
  unfold State.lineNow
  grind -ring -lia -linarith -ac -order [State.cisEvict_wf, State.note_wf]

theorem State.sampleCode_wf (s : State) (u : Nat) (pos : Nat) (h0 : Memory.wf s.mem = true) : Memory.wf (State.sampleCode s u pos).mem = true := by
  unfold State.sampleCode
  grind -ring -lia -linarith -ac -order [State.lineNow_wf, State.seeLine_wf]

theorem State.codeLine_wf (s : State) (u : Nat) (va : Nat) (now : List Byte) (h0 : Memory.wf s.mem = true) : Memory.wf (State.codeLine s u va now).1.mem = true := by
  unfold State.codeLine
  grind -ring -lia -linarith -ac -order [State.seeLine_wf]

theorem State.fetch_wf (s : State) (u : Nat) (t : Nat) (pos : Nat) (h0 : Memory.wf s.mem = true) : Memory.wf (State.fetch s u t pos).1.mem = true := by
  unfold State.fetch
  grind -ring -lia -linarith -ac -order [State.codeLine_wf, State.lineNow_wf]

theorem State.replayLoads_wf (s : State) (u : Nat) (h0 : Memory.wf s.mem = true) : Memory.wf (State.replayLoads s u).mem = true := by
  unfold State.replayLoads
  grind -ring -lia -linarith -ac -order [foldl_wf, State.engRead_wf, State.finishImg_wf, State.suspend_wf]

theorem State.restoreWait_wf (s : State) (u : Nat) (t : Nat) (h0 : Memory.wf s.mem = true) : Memory.wf (State.restoreWait s u t).mem = true := by
  unfold State.restoreWait
  grind -ring -lia -linarith -ac -order [State.fetch_wf, State.setThr_wf, State.waitFor_wf]

theorem State.restoreWaits_wf (s : State) (u : Nat) (h0 : Memory.wf s.mem = true) : Memory.wf (State.restoreWaits s u).mem = true := by
  unfold State.restoreWaits
  grind -ring -lia -linarith -ac -order [foldl_wf, State.restoreWait_wf, State.retestBars_wf, State.retestGang_wf]

theorem State.physPut_wf (s : State) (pa : Nat) (bs : List Byte) (h0 : Memory.wf s.mem = true) : Memory.wf (State.physPut s pa bs).mem = true := by
  unfold State.physPut
  grind -ring -lia -linarith -ac -order [Memory.wf_memPuts]

theorem State.restoreThread_wf (s : State) (a : Area) (u : Nat) (x : Nat × Thread) (h0 : Memory.wf s.mem = true) : Memory.wf (State.restoreThread s a u x).mem = true := by
  exact h0

theorem State.restoreTeam_wf (s : State) (v : Saved) (tm : Team) (h0 : Memory.wf s.mem = true) : Memory.wf (State.restoreTeam s v tm).mem = true := by
  unfold State.restoreTeam
  refine foldl_wf _ _ _ ?_ (fun s b h => State.setLogs_wf _ _ _ _ h)
  refine foldl_wf _ _ _ ?_ (fun s b h => h)
  refine State.scrPuts_wf _ _ _ _ ?_
  refine foldl_wf _ _ _ ?_ (fun s b h => State.putU_wf _ _ _ _ _ h)
  refine foldl_wf _ _ _ ?_ (fun s b h =>
    foldl_wf _ _ _ h (fun s b h => State.setEmpty_wf _ _ _ _ _ (State.putV_wf _ _ _ _ _ h)))
  refine foldl_wf _ _ _ ?_ (fun s b h => State.setChan_wf _ _ _ _ h)
  refine foldl_wf _ _ _ ?_ (fun s b h => State.setBar_wf _ _ _ _ h)
  exact foldl_wf _ _ _ (State.setTeam_wf _ _ _ h0) (fun s b h => State.restoreThread_wf _ _ _ _ h)

theorem State.cacheNode_wf (s : State) (u : Nat) (addr : Nat) (b : List Byte) (h0 : Memory.wf s.mem = true) : Memory.wf (State.cacheNode s u addr b).mem = true := by
  exact h0

theorem State.bumpTable_wf (s : State) (c : Ctx) (va : Nat) (h0 : Memory.wf s.mem = true) : Memory.wf (State.bumpTable s c va).mem = true := by
  unfold State.bumpTable
  grind -ring -lia -linarith -ac -order [State.performLocal_wf]

theorem State.emitHit_wf (s : State) (u : Nat) (t : Nat) (edge : Nat) (v : Trav) (h : Hit) (h0 : Memory.wf s.mem = true) : Memory.wf (State.emitHit s u t edge v h).mem = true := by
  unfold State.emitHit
  grind -ring -lia -linarith -ac -order [State.arriveRec_wf, State.publish_wf, State.setTeam_wf]

theorem State.tableUe_wf (s : State) (c : Ctx) (x : Cause) (va : Nat) (h0 : Memory.wf s.mem = true) : Memory.wf (State.tableUe s c x va).mem = true := by
  unfold State.tableUe
  grind -ring -lia -linarith -ac -order [State.report_wf]

theorem State.shade_wf (s : State) (u : Nat) (t : Nat) (v : Trav) (h : Hit) (h0 : Memory.wf s.mem = true) : Memory.wf (State.shade s u t v h).1.mem = true := by
  unfold State.shade
  grind -ring -lia -linarith -ac -order [State.bumpTable_wf, State.emitHit_wf, State.engRead_wf, State.setTeam_wf, State.tableUe_wf]

theorem State.doneTrav_wf (s : State) (u : Nat) (t : Nat) (v : Trav) (h0 : Memory.wf s.mem = true) : Memory.wf (State.doneTrav s u t v).mem = true := by
  unfold State.doneTrav
  grind -ring -lia -linarith -ac -order [State.endTrav_wf, State.engineDone_wf, State.shade_wf]

theorem State.fetchNode_wf (s : State) (c : Ctx) (n : TNode) (h0 : Memory.wf s.mem = true) : Memory.wf (State.fetchNode s c n).1.mem = true := by
  unfold State.fetchNode
  grind -ring -lia -linarith -ac -order [State.engRead_wf]

theorem State.nodeUe_wf (s : State) (u : Nat) (addr : Nat) (at_ : Nat) (h0 : Memory.wf s.mem = true) : Memory.wf (State.nodeUe s u addr at_).mem = true := by
  unfold State.nodeUe
  grind -ring -lia -linarith -ac -order [State.report_wf, State.setSys_wf]

theorem State.poisonTrav_wf (s : State) (u : Nat) (t : Nat) (h0 : Memory.wf s.mem = true) : Memory.wf (State.poisonTrav s u t).mem = true := by
  unfold State.poisonTrav
  grind -ring -lia -linarith -ac -order [State.endTrav_wf, State.engineDone_wf]

theorem State.prefetchNodes_wf (s : State) (c : Ctx) (ns : List TNode) (h0 : Memory.wf s.mem = true) : Memory.wf (State.prefetchNodes s c ns).mem = true := by
  unfold State.prefetchNodes
  grind -ring -lia -linarith -ac -order [foldl_wf, State.cacheNode_wf, State.engRead_wf]

theorem State.stopTrav_wf (s : State) (u : Nat) (t : Nat) (v : Trav) (c : Cause) (addr : Nat) (h0 : Memory.wf s.mem = true) : Memory.wf (State.stopTrav s u t v c addr).mem = true := by
  unfold State.stopTrav
  grind -ring -lia -linarith -ac -order [State.doneTrav_wf, State.engineDone_wf, State.poisonTrav_wf, State.setThr_wf]

theorem State.visitNode_wf (s : State) (u : Nat) (t : Nat) (v : Trav) (h0 : Memory.wf s.mem = true) : Memory.wf (State.visitNode s u t v).mem = true := by
  unfold State.visitNode
  grind -ring -lia -linarith -ac -order [State.cacheNode_wf, State.doneTrav_wf, State.fetchNode_wf, State.nodeUe_wf, State.poisonTrav_wf, State.prefetchNodes_wf, State.setThr_wf, State.stopTrav_wf]

theorem State.runTrav_wf (a_3 : Nat) (a_2 : Nat) (a_1 : Nat) (a_ : State) (h0 : Memory.wf a_.mem = true) : Memory.wf (State.runTrav a_3 a_2 a_1 a_).mem = true := by
  fun_induction State.runTrav a_3 a_2 a_1 a_ <;> grind -ring -lia -linarith -ac -order [State.visitNode_wf]

theorem State.awaitTrav_wf (s : State) (s' : State) (d : VReg) (sel : Bool) (l : Nat) (h0 : Memory.wf s.mem = true) (h1 : Memory.wf s'.mem = true) : Memory.wf (State.awaitTrav s s' d sel l).mem = true := by
  unfold State.awaitTrav
  grind -ring -lia -linarith -ac -order [State.endTrav_wf, State.replayTrav_wf, State.setThL_wf]

theorem State.startTrav_wf (s : State) (a : VReg) (w : TraceW) (b : List Byte) (l : Nat) (h0 : Memory.wf s.mem = true) : Memory.wf (State.startTrav s a w b l).mem = true := by
  exact h0

theorem State.travAhead_wf (s : State) (h0 : Memory.wf s.mem = true) : Memory.wf (State.travAhead s).mem = true := by
  unfold State.travAhead
  grind -ring -lia -linarith -ac -order [State.lanes_wf, State.replayTrav_wf, State.runTrav_wf]

theorem State.writeNodeue_wf (s : State) (core : Nat) (v : Nat) (h0 : Memory.wf s.mem = true) : Memory.wf (State.writeNodeue s core v).mem = true := by
  unfold State.writeNodeue
  grind -ring -lia -linarith -ac -order [State.setSys_wf]

/-- A thread without a traversal has none to take on. -/
theorem State.runTrav_of_none (s : State) (fuel u t : Nat) (h : (s.thr u t).trav = none) : State.runTrav fuel u t s = s := by
  cases fuel <;> simp [State.runTrav, h]

theorem State.freeCreds_wf (s : State) (u : Nat) (h0 : Memory.wf s.mem = true) : Memory.wf (State.freeCreds s u).mem = true := by
  unfold State.freeCreds
  grind -ring -lia -linarith -ac -order [foldl_wf, State.unreserve_wf]

theorem State.dropColls_wf (s : State) (p : Coll → Bool) (h0 : Memory.wf s.mem = true) : Memory.wf (State.dropColls s p).mem = true := by
  exact h0

theorem State.dropOps_wf (s : State) (u : Nat) (h0 : Memory.wf s.mem = true) : Memory.wf (State.dropOps s u).mem = true := by
  exact h0

theorem State.discardTeam_wf (s : State) (u : Nat) (h0 : Memory.wf s.mem = true) : Memory.wf (State.discardTeam s u).mem = true := by
  unfold State.discardTeam
  grind -ring -lia -linarith -ac -order [State.dropOps_wf, State.dropTeam_wf, State.freeCreds_wf]

theorem State.abortLaunch_wf (s : State) (l : Nat) (status : Nat) (h0 : Memory.wf s.mem = true) : Memory.wf (State.abortLaunch s l status).mem = true := by
  unfold State.abortLaunch
  grind -ring -lia -linarith -ac -order [foldl_wf, State.discardTeam_wf, State.dropColls_wf, State.finishLaunch_wf, State.publishSlice_wf, State.setLaunch_wf]

theorem State.fenceSlice_wf (s : State) (k : Nat) (addr : Nat) (h0 : Memory.wf s.mem = true) : Memory.wf (State.fenceSlice s k addr).mem = true := by
  unfold State.fenceSlice
  grind -ring -lia -linarith -ac -order [foldl_wf, State.abortLaunch_wf, State.report_wf, State.setSysBit_wf]

theorem State.dropRecs_wf (s : State) (l : Nat) (node : Nat) (slots : List Nat) (h0 : Memory.wf s.mem = true) : Memory.wf (State.dropRecs s l node slots).mem = true := by
  exact h0

theorem State.served_wf (s : State) (l : Nat) (h0 : Memory.wf s.mem = true) : Memory.wf (State.served s l).mem = true := by
  exact h0

theorem State.reserve_wf (s : State) (l : Nat) (node : Nat) (h0 : Memory.wf s.mem = true) : Memory.wf (State.reserve s l node).mem = true := by
  unfold State.reserve
  grind -ring -lia -linarith -ac -order [foldl_wf, State.addResv_wf]

theorem State.startTeam_wf (s : State) (l : Nat) (node : Nat) (c : Nat) (lti : Nat) (nd : GNode) (recs : List Rec) (co : Nat × Nat × Nat) (lin : Nat) (h0 : Memory.wf s.mem = true) : Memory.wf (State.startTeam s l node c lti nd recs co lin).mem = true := by
  unfold State.startTeam
  grind -ring -lia -linarith -ac -order [foldl_wf, State.putU_wf, State.reserve_wf, State.scrPuts_wf, State.setTeam_wf, State.setThr_wf, State.trimL1_wf]

theorem State.placeBatch_wf (s : State) (l : Nat) (node : Nat) (c : Nat) (h0 : Memory.wf s.mem = true) : Memory.wf (State.placeBatch s l node c).mem = true := by
  unfold State.placeBatch
  grind -ring -lia -linarith -ac -order [foldl_wf, State.dropRecs_wf, State.report_wf, State.served_wf, State.setLaunch_wf, State.setNode_wf, State.startTeam_wf]

theorem State.placeLin_wf (s : State) (l : Nat) (lin : Nat) (c : Nat) (h0 : Memory.wf s.mem = true) : Memory.wf (State.placeLin s l lin c).mem = true := by
  unfold State.placeLin
  grind -ring -lia -linarith -ac -order [State.served_wf, State.setLaunch_wf, State.startTeam_wf]

theorem State.unfault_wf (s : State) (u : Nat) (h0 : Memory.wf s.mem = true) : Memory.wf (State.unfault s u).mem = true := by
  unfold State.unfault
  grind -ring -lia -linarith -ac -order [foldl_wf, State.goBack_wf, State.replayLds_wf, State.retestGang_wf, State.setThr_wf]

theorem State.placeSaved_wf (s : State) (v : Saved) (c : Nat) (h0 : Memory.wf s.mem = true) : Memory.wf (State.placeSaved s v c).mem = true := by
  unfold State.placeSaved
  grind -ring -lia -linarith -ac -order [State.replayLoads_wf, State.restoreTeam_wf, State.restoreWaits_wf, State.served_wf, State.testEnd_wf, State.trimL1_wf, State.unfault_wf]

theorem State.placeCand_wf (s : State) (k : Nat) (c : Cand) (h0 : Memory.wf s.mem = true) : Memory.wf (State.placeCand s k c).mem = true := by
  unfold State.placeCand
  grind -ring -lia -linarith -ac -order [State.fenceSlice_wf, State.placeBatch_wf, State.placeLin_wf, State.placeSaved_wf]

theorem State.nextPhase_wf (s : State) (l : Nat) (h0 : Memory.wf s.mem = true) : Memory.wf (State.nextPhase s l).mem = true := by
  unfold State.nextPhase
  grind -ring -lia -linarith -ac -order [foldl_wf, State.letGo_wf, State.setLaunch_wf, State.setTeam_wf, State.setThr_wf]

theorem State.postFaults_wf (s : State) (u : Nat) (tm : Team) (addr : Nat) (fs : List FaultInfo) (h0 : Memory.wf s.mem = true) : Memory.wf (State.postFaults s u tm addr fs).1.mem = true := by
  unfold State.postFaults
  exact foldl_inv (fun p : State × List Nat => Memory.wf p.1.mem = true) _ _ _ h0
    (fun a fi h => by dsimp only; exact State.report_wf _ _ _ h)

theorem State.keepTeam_wf (s : State) (u : Nat) (st : Stop) (h0 : Memory.wf s.mem = true) : Memory.wf (State.keepTeam s u st).mem = true := by
  unfold State.keepTeam
  grind -ring -lia -linarith -ac -order [State.postFaults_wf, State.setTeam_wf]

theorem State.setLate_wf (s : State) (k : Nat) (h0 : Memory.wf s.mem = true) : Memory.wf (State.setLate s k).mem = true := by
  unfold State.setLate
  grind -ring -lia -linarith -ac -order [State.setSysBit_wf]

theorem State.writeCtxsw_wf (s : State) (k : Nat) (v : Nat) (h0 : Memory.wf s.mem = true) : Memory.wf (State.writeCtxsw s k v).mem = true := by
  unfold State.writeCtxsw
  grind -ring -lia -linarith -ac -order [foldl_wf, State.clrSysBit_wf, State.setSysBit_wf, State.setTeam_wf]

theorem State.maybeLate_wf (s : State) (k : Nat) (u : Nat) (h0 : Memory.wf s.mem = true) : Memory.wf (State.maybeLate s k u).mem = true := by
  unfold State.maybeLate
  grind -ring -lia -linarith -ac -order [State.setLate_wf]

theorem State.spillTeam_wf (s : State) (u : Nat) (h0 : Memory.wf s.mem = true) : Memory.wf (State.spillTeam s u).mem = true := by
  unfold State.spillTeam
  grind -ring -lia -linarith -ac -order [foldl_wf, State.spillFirst_wf]

theorem State.decide_wf (s : State) (k : Nat) (u : Nat) (st : Stop) (h0 : Memory.wf s.mem = true) : Memory.wf (State.decide s k u st).mem = true := by
  unfold State.decide
  grind -ring -lia -linarith -ac -order [State.setLate_wf, State.setTeam_wf]

theorem State.preemptTeam_wf (s : State) (u : Nat) (bound : Nat) (n : Nat) (h0 : Memory.wf s.mem = true) : Memory.wf (State.preemptTeam s u bound n).mem = true := by
  exact h0

theorem State.preemptFor_wf (s : State) (k : Nat) (n : Need) (h0 : Memory.wf s.mem = true) : Memory.wf (State.preemptFor s k n).mem = true := by
  unfold State.preemptFor
  grind -ring -lia -linarith -ac -order [foldl_wf, State.preemptTeam_wf]

theorem State.flushTeam_wf (s : State) (u : Nat) (h0 : Memory.wf s.mem = true) : Memory.wf (State.flushTeam s u).mem = true := by
  unfold State.flushTeam
  have h1 : Memory.wf ((((s.freeCreds u).releaseResv u).dropOps u).dropTeam u).mem = true := by
    grind [State.freeCreds_wf, State.releaseResv_wf, State.dropOps_wf, State.dropTeam_wf]
  dsimp only
  split
  · exact State.setLaunch_wf _ _ _ h1
  · have := foldl_inv (fun p : State × List Nat => Memory.wf p.1.mem = true)
      (fun (acc : State × List Nat) (r : Rec) =>
        let s' := acc.1
        let nd := (s'.launch (s.team u).launch).nodes.getD (s.team u).node {}
        let k := (freeSlot nd).getD 0
        let s' := match s'.kWrite (s.team u).launch (slotAddr nd k) r.bytes with
          | .ok s => s
          | .error _ => s'
        (s'.setNode (s.team u).launch (s.team u).node { nd with queue := ⟨k, (s.team u).lti, 0⟩ :: nd.queue }, k :: acc.2))
      (s.team u).recs.reverse (_, []) h1 (by
        intro a r h
        dsimp only
        apply State.setNode_wf
        split
        · rename_i e; exact State.kWrite_wf _ _ _ _ h _ e
        · exact h)
    split
    · exact State.setLaunch_wf _ _ _ this
    · exact this

theorem State.saveTeam_wf (s : State) (u : Nat) (addr : Nat) (st : Stop) (h0 : Memory.wf s.mem = true) : Memory.wf (State.saveTeam s u addr st).mem = true := by
  unfold State.saveTeam
  grind -ring -lia -linarith -ac -order [State.addStats_wf, State.dropTeam_wf, State.physPut_wf, State.postFaults_wf, State.spillTeam_wf]

theorem State.takeOff_wf (s : State) (k : Nat) (u : Nat) (st : Stop) (h0 : Memory.wf s.mem = true) : Memory.wf (State.takeOff s k u st).mem = true := by
  unfold State.takeOff
  grind -ring -lia -linarith -ac -order [State.decide_wf, State.flushTeam_wf, State.keepTeam_wf, State.maybeLate_wf, State.saveTeam_wf, State.setTeam_wf]

theorem State.texel_wf (s : State) (c : Ctx) (b : List Byte) (x : ℤ) (y : ℤ) (h0 : Memory.wf s.mem = true) : Memory.wf (State.texel s c b x y).1.mem = true := by
  unfold State.texel
  grind -ring -lia -linarith -ac -order [State.engRead_wf]

theorem State.tapsGo_wf (s : State) (c : Ctx) (b : List Byte) (ox : ℤ) (oy : ℤ) (fx : Dy) (fy : Dy) (ref : Nat) (a_1 : List Tap) (a_ : List Nat) (h0 : Memory.wf s.mem = true) : Memory.wf (State.tapsGo s c b ox oy fx fy ref a_1 a_).1.mem = true := by
  fun_induction State.tapsGo s c b ox oy fx fy ref a_1 a_ <;> grind -ring -lia -linarith -ac -order [State.texel_wf]

theorem State.sampleLane_wf (s : State) (c : Ctx) (b : List Byte) (taps : List Tap) (u : Nat) (v : Nat) (ref : Nat) (h0 : Memory.wf s.mem = true) : Memory.wf (State.sampleLane s c b taps u v ref).1.mem = true := by
  unfold State.sampleLane
  grind -ring -lia -linarith -ac -order [State.tapsGo_wf]

theorem State.readTris_wf (s : State) (a : VReg) (a_ : List Nat) (h0 : Memory.wf s.mem = true) : Memory.wf (State.readTris s a a_).1.mem = true := by
  fun_induction State.readTris s a a_ <;> grind -ring -lia -linarith -ac -order [State.engRead_wf]

theorem State.visAtomic_wf (s : State) (j : RastJob) (px : Nat) (py : Nat) (z : Nat) (h0 : Memory.wf s.mem = true) : Memory.wf (State.visAtomic s j px py z).1.mem = true := by
  unfold State.visAtomic
  grind -ring -lia -linarith -ac -order [State.performLocal_wf]

theorem State.drawGo_wf (s : State) (j : RastJob) (t : Tri) (a_1 : List (Nat × Nat)) (a_ : Nat) (h0 : Memory.wf s.mem = true) : Memory.wf (State.drawGo s j t a_1 a_).1.mem = true := by
  fun_induction State.drawGo s j t a_1 a_ <;> grind -ring -lia -linarith -ac -order [State.visAtomic_wf]

theorem State.drawnOne_wf (s : State) (u : Nat) (h0 : Memory.wf s.mem = true) : Memory.wf (State.drawnOne s u).mem = true := by
  unfold State.drawnOne
  grind -ring -lia -linarith -ac -order [foldl_wf, State.engineDone_wf, State.fillLanes_wf]

theorem State.dropMet_wf (s : State) (k : Nat) (h0 : Memory.wf s.mem = true) : Memory.wf (State.dropMet s k).mem = true := by
  exact h0

theorem State.writeInval_wf (s : State) (k : Nat) (v : Nat) (h0 : Memory.wf s.mem = true) : Memory.wf (State.writeInval s k v).mem = true := by
  unfold State.writeInval
  grind -ring -lia -linarith -ac -order [State.clrSysBit_wf, State.dropMet_wf, State.dropTlb_wf, State.setSysBit_wf]

theorem State.abortArea_wf (s : State) (v : Saved) (ch : Nat) (cn : Chan) (b : Option Nat) (h0 : Memory.wf s.mem = true) : Memory.wf (State.abortArea s v ch cn b).mem = true := by
  unfold State.abortArea
  grind -ring -lia -linarith -ac -order [State.physPut_wf]

theorem State.setSaved_wf (s : State) (v : Saved) (h0 : Memory.wf s.mem = true) : Memory.wf (State.setSaved s v).mem = true := by
  exact h0

theorem State.abortSaved_wf (s : State) (v : Saved) (ch : Nat) (h0 : Memory.wf s.mem = true) : Memory.wf (State.abortSaved s v ch).mem = true := by
  unfold State.abortSaved
  grind -ring -lia -linarith -ac -order [State.abortArea_wf, State.setSaved_wf, State.writeCw_wf]

theorem State.abortCopy_wf (s : State) (u : Nat) (ch : Nat) (h0 : Memory.wf s.mem = true) : Memory.wf (State.abortCopy s u ch).mem = true := by
  unfold State.abortCopy
  grind -ring -lia -linarith -ac -order [State.abortSaved_wf, State.finishCopy_wf, State.setChan_wf]

theorem State.abortOp_wf (s : State) (e : FEntry) (h0 : Memory.wf s.mem = true) : Memory.wf (State.abortOp s e).mem = true := by
  unfold State.abortOp
  grind -ring -lia -linarith -ac -order [foldl_wf, State.abortCopy_wf, State.engineDone_wf, State.fillLanes_wf, State.fillRegs_wf]

theorem State.answered_wf (s : State) (k : Nat) (seq : Nat) (h0 : Memory.wf s.mem = true) : Memory.wf (State.answered s k seq).mem = true := by
  exact h0

theorem State.refuseFault_wf (s : State) (k : Nat) (h0 : Memory.wf s.mem = true) : Memory.wf (State.refuseFault s k).mem = true := by
  unfold State.refuseFault
  grind -ring -lia -linarith -ac -order [State.setSysBit_wf]

theorem State.resumeCopy_wf (s : State) (u : Nat) (ch : Nat) (h0 : Memory.wf s.mem = true) : Memory.wf (State.resumeCopy s u ch).mem = true := by
  unfold State.resumeCopy
  grind -ring -lia -linarith -ac -order [State.setCopyHead_wf, State.setSaved_wf]

theorem State.resumeOp_wf (s : State) (e : FEntry) (h0 : Memory.wf s.mem = true) : Memory.wf (State.resumeOp s e).mem = true := by
  unfold State.resumeOp
  grind -ring -lia -linarith -ac -order [State.resumeCopy_wf]

theorem State.resumeTeam_wf (s : State) (k : Nat) (e : FEntry) (h0 : Memory.wf s.mem = true) : Memory.wf (State.resumeTeam s k e).mem = true := by
  unfold State.resumeTeam
  grind -ring -lia -linarith -ac -order [State.answered_wf, State.setLaunch_wf, State.setTeam_wf, State.testEnd_wf, State.unfault_wf]

theorem State.faultCmd_wf (s : State) (k : Nat) (cmd : Nat) (queue : Nat) (seq : Nat) (h0 : Memory.wf s.mem = true) : Memory.wf (State.faultCmd s k cmd queue seq).mem = true := by
  unfold State.faultCmd
  grind -ring -lia -linarith -ac -order [State.abortLaunch_wf, State.abortOp_wf, State.answered_wf, State.refuseFault_wf, State.resumeOp_wf, State.resumeTeam_wf]

theorem State.writeFault_wf (s : State) (k : Nat) (v : Nat) (h0 : Memory.wf s.mem = true) : Memory.wf (State.writeFault s k v).mem = true := by
  unfold State.writeFault
  grind -ring -lia -linarith -ac -order [State.faultCmd_wf]

theorem State.writeFaultqCtl_wf (s : State) (k : Nat) (v : Nat) (h0 : Memory.wf s.mem = true) : Memory.wf (State.writeFaultqCtl s k v).mem = true := by
  unfold State.writeFaultqCtl
  grind -ring -lia -linarith -ac -order [State.postAll_wf, State.setSys_wf]

theorem State.fwPut_wf (s : State) (a : Nat) (bs : List Byte) (h0 : Memory.wf s.mem = true) : Memory.wf (State.fwPut s a bs).mem = true := by
  unfold State.fwPut
  grind -ring -lia -linarith -ac -order [State.physPut_wf]

theorem State.writePowerCap_wf (s : State) (v : Nat) (h0 : Memory.wf s.mem = true) : Memory.wf (State.writePowerCap s v).mem = true := by
  unfold State.writePowerCap
  grind -ring -lia -linarith -ac -order [State.setSys_wf, State.setSysBit_wf]

theorem State.writeMbox_wf (s : State) (v : Nat) (h0 : Memory.wf s.mem = true) : Memory.wf (State.writeMbox s v).mem = true := by
  unfold State.writeMbox
  grind -ring -lia -linarith -ac -order [State.fwPut_wf, State.setSys_wf]

theorem State.writeGroup_wf (s : State) (v : Nat) (h0 : Memory.wf s.mem = true) : Memory.wf (State.writeGroup s v).mem = true := by
  unfold State.writeGroup
  grind -ring -lia -linarith -ac -order [State.setSys_wf, State.setSysBit_wf]

theorem State.writeCarve_wf (s : State) (d : Nat) (v : Nat) (h0 : Memory.wf s.mem = true) : Memory.wf (State.writeCarve s d v).mem = true := by
  unfold State.writeCarve
  grind -ring -lia -linarith -ac -order [foldl_wf, State.cisEvict_wf, State.evictAll_wf, State.setSys_wf, State.setSysBit_wf]

theorem State.countErr_wf (s : State) (d : Nat) (uncorrected : Bool) (h0 : Memory.wf s.mem = true) : Memory.wf (State.countErr s d uncorrected).mem = true := by
  unfold State.countErr
  grind -ring -lia -linarith -ac -order [State.setSys_wf]

theorem State.writeSnap_wf (s : State) (v : Nat) (h0 : Memory.wf s.mem = true) : Memory.wf (State.writeSnap s v).mem = true := by
  unfold State.writeSnap
  grind -ring -lia -linarith -ac -order [State.setSys_wf, State.trigger_wf]

theorem State.writeSys_wf (s : State) (n : Nat) (i : Nat) (v : Nat) (h0 : Memory.wf s.mem = true) : Memory.wf (State.writeSys s n i v).mem = true := by
  unfold State.writeSys
  grind -ring -lia -linarith -ac -order [State.doorbell_wf, State.setSys_wf, State.setSysBit_wf, State.writeCarve_wf, State.writeCtxsw_wf, State.writeDispCtl_wf, State.writeFabricCtl_wf, State.writeFault_wf, State.writeFaultqCtl_wf, State.writeGroup_wf, State.writeInval_wf, State.writeLqBase_wf, State.writeLqCtl_wf, State.writeMbox_wf, State.writeNodeue_wf, State.writePowerCap_wf, State.writeSnap_wf]

theorem State.wrsysVal_wf (s : State) (u : Nat) (t : Nat) (n : Nat) (i : Nat) (v : Nat) (h0 : Memory.wf s.mem = true) : Memory.wf (State.wrsysVal s u t n i v).mem = true := by
  unfold State.wrsysVal
  grind -ring -lia -linarith -ac -order [State.setTeam_wf, State.setThr_wf, State.writeSkew_wf, State.writeSys_wf]

theorem State.nextOf_wf (s : State) (c : Issuer) (h0 : Memory.wf s.mem = true) : Memory.wf (State.nextOf s c).1.mem = true := by
  unfold State.nextOf
  grind -ring -lia -linarith -ac -order [State.fetch_wf]

theorem State.advance_wf (s : State) (t : Nat) (h0 : Memory.wf s.mem = true) : Memory.wf (State.advance s t).mem = true := by
  unfold State.advance
  grind -ring -lia -linarith -ac -order [State.arriveAt_wf, State.setThr_wf]

theorem State.endIssue_wf (s : State) (h0 : Memory.wf s.mem = true) : Memory.wf (State.endIssue s).mem = true := by
  unfold State.endIssue
  grind -ring -lia -linarith -ac -order [foldl_wf, State.advance_wf, State.retestGang_wf, State.splitGang_wf]

theorem State.latchIssue_wf (s : State) (c : Issuer) (lanes : List Nat) (after : Nat) (word : Nat) (mstep : Option Nat) (h0 : Memory.wf s.mem = true) : Memory.wf (State.latchIssue s c lanes after word mstep).mem = true := by
  unfold State.latchIssue
  grind -ring -lia -linarith -ac -order [foldl_wf, State.setThr_wf]

theorem State.lateStop_wf (s : State) (c : Issuer) (h0 : Memory.wf s.mem = true) : ∀ s_, State.lateStop s c = some s_ → Memory.wf s_.mem = true := by
  unfold State.lateStop
  grind -ring -lia -linarith -ac -order [State.drainGang_wf, State.settleGang_wf]

theorem State.placeWord_wf (s : State) (w : Nat) (h0 : Memory.wf s.mem = true) : Memory.wf (State.placeWord s w).mem = true := by
  unfold State.placeWord
  grind -ring -lia -linarith -ac -order [Memory.wf_memPuts]

end Sys2Proof.Machine
end

