-- ==== Sys2Proof/Laws/KeepsExec.lean ====
section
/-!
SUPPORT. Every meaning answers a next state with memory in its canonical form.
-/

set_option linter.unusedVariables false

namespace Sys2Proof.Machine

open Sys2Proof

theorem raise_wf (tr : Trap) (s : State) (h0 : Memory.wf s.mem = true) : Keeps (raise tr s) := by
  unfold raise
  grind -ring -lia -linarith -ac -order [takeTrap_wf, keeps_next]

theorem stall_wf (s : State) (h0 : Memory.wf s.mem = true) : Keeps (stall s) := by
  exact ⟨_, rfl, h0⟩

theorem execLateResultFill_wf (k : Nat) (s : State) (h0 : Memory.wf s.mem = true) : Keeps (execLateResultFill k s) := by
  unfold execLateResultFill
  grind -ring -lia -linarith -ac -order [State.fill_wf, keeps_next]

theorem execL1Eviction_wf (place : Nat) (line : Nat) (s : State) (h0 : Memory.wf s.mem = true) : Keeps (execL1Eviction place line s) := by
  unfold execL1Eviction
  grind -ring -lia -linarith -ac -order [State.evict_wf, keeps_next]

theorem execLoadFill_wf (k : Nat) (s : State) (h0 : Memory.wf s.mem = true) : Keeps (execLoadFill k s) := by
  unfold execLoadFill
  grind -ring -lia -linarith -ac -order [State.arriving_wf, State.fill_wf, keeps_next]

theorem execScOperationPerform_wf (k : Nat) (s : State) (h0 : Memory.wf s.mem = true) : Keeps (execScOperationPerform k s) := by
  unfold execScOperationPerform
  grind -ring -lia -linarith -ac -order [State.performScops_wf, keeps_next]

theorem execScratchpadLoadFill_wf (k : Nat) (s : State) (h0 : Memory.wf s.mem = true) : Keeps (execScratchpadLoadFill k s) := by
  unfold execScratchpadLoadFill
  grind -ring -lia -linarith -ac -order [State.fill_wf, keeps_next]

theorem execAtomicPerform_wf (k : Nat) (s : State) (h0 : Memory.wf s.mem = true) : Keeps (execAtomicPerform k s) := by
  unfold execAtomicPerform
  grind -ring -lia -linarith -ac -order [State.performAtoms_wf, keeps_next]

theorem ldNow_wf (minor : Nat) (reg : Nat) (addrs : List (Nat × Nat)) (s : State) (h0 : Memory.wf s.mem = true) : Keeps (ldNow minor reg addrs s) := by
  unfold ldNow
  grind -ring -lia -linarith -ac -order [State.drainFor_wf, State.loadLanes_wf, State.markEmpty_wf, State.noteAll_wf, raise_wf, keeps_next]

theorem ldOp_wf (minor : Nat) (t : BitVec 6) (a : BitVec 6) (u : Bool) (s : State) (h0 : Memory.wf s.mem = true) : Keeps (ldOp minor t a u s) := by
  unfold ldOp
  grind -ring -lia -linarith -ac -order [State.drain_wf, State.markEmpty_wf, State.setLogs_wf, ldNow_wf, stall_wf, keeps_next]

theorem execLdI8_wf (t : BitVec 6) (a : BitVec 6) (u : Bool) (s : State) (h0 : Memory.wf s.mem = true) : Keeps (execLdI8 t a u s) := by
  unfold execLdI8
  grind -ring -lia -linarith -ac -order [ldOp_wf, keeps_next]

theorem uldOp_wf (n : Nat) (t : UReg) (a : BitVec 6) (u : Bool) (s : State) (h0 : Memory.wf s.mem = true) : Keeps (uldOp n t a u s) := by
  unfold uldOp
  grind -ring -lia -linarith -ac -order [State.drainFor_wf, State.markU_wf, State.noteAll_wf, State.observeLoad_wf, State.readNow_wf, State.sendReq_wf, raise_wf, keeps_next]

theorem execUldN64_wf (t : UReg) (a : BitVec 6) (u : Bool) (s : State) (h0 : Memory.wf s.mem = true) : Keeps (execUldN64 t a u s) := by
  unfold execUldN64
  grind -ring -lia -linarith -ac -order [uldOp_wf, keeps_next]

theorem stOp_wf (n : Nat) (t : BitVec 6) (a : BitVec 6) (u : Bool) (s : State) (h0 : Memory.wf s.mem = true) : Keeps (stOp n t a u s) := by
  unfold stOp
  grind -ring -lia -linarith -ac -order [foldl_wf, State.drainFor_wf, State.noteAll_wf, State.storeLane_wf, raise_wf, keeps_next]

theorem execStN64_wf (t : BitVec 6) (a : BitVec 6) (u : Bool) (s : State) (h0 : Memory.wf s.mem = true) : Keeps (execStN64 t a u s) := by
  unfold execStN64
  grind -ring -lia -linarith -ac -order [stOp_wf, keeps_next]

theorem execUldN32_wf (t : UReg) (a : BitVec 6) (u : Bool) (s : State) (h0 : Memory.wf s.mem = true) : Keeps (execUldN32 t a u s) := by
  unfold execUldN32
  grind -ring -lia -linarith -ac -order [uldOp_wf, keeps_next]

theorem execLdCheckDone_wf (u : Nat) (g : Nat) (s : State) (h0 : Memory.wf s.mem = true) : Keeps (execLdCheckDone u g s) := by
  unfold execLdCheckDone
  grind -ring -lia -linarith -ac -order [State.checkLd_wf, keeps_next]

theorem execLdI16_wf (t : BitVec 6) (a : BitVec 6) (u : Bool) (s : State) (h0 : Memory.wf s.mem = true) : Keeps (execLdI16 t a u s) := by
  unfold execLdI16
  grind -ring -lia -linarith -ac -order [ldOp_wf, keeps_next]

theorem ustOp_wf (n : Nat) (t : UReg) (a : BitVec 6) (u : Bool) (s : State) (h0 : Memory.wf s.mem = true) : Keeps (ustOp n t a u s) := by
  unfold ustOp
  grind -ring -lia -linarith -ac -order [foldl_wf, State.drainFor_wf, State.noteAll_wf, State.storeLane_wf, raise_wf, keeps_next]

theorem execUstN64_wf (t : UReg) (a : BitVec 6) (u : Bool) (s : State) (h0 : Memory.wf s.mem = true) : Keeps (execUstN64 t a u s) := by
  unfold execUstN64
  grind -ring -lia -linarith -ac -order [ustOp_wf, keeps_next]

theorem execStN16_wf (t : BitVec 6) (a : BitVec 6) (u : Bool) (s : State) (h0 : Memory.wf s.mem = true) : Keeps (execStN16 t a u s) := by
  unfold execStN16
  grind -ring -lia -linarith -ac -order [stOp_wf, keeps_next]

theorem execLdN32_wf (t : BitVec 6) (a : BitVec 6) (u : Bool) (s : State) (h0 : Memory.wf s.mem = true) : Keeps (execLdN32 t a u s) := by
  unfold execLdN32
  grind -ring -lia -linarith -ac -order [ldOp_wf, keeps_next]

theorem execStN32x4_wf (t : BitVec 6) (a : BitVec 6) (u : Bool) (s : State) (h0 : Memory.wf s.mem = true) : Keeps (execStN32x4 t a u s) := by
  unfold execStN32x4
  grind -ring -lia -linarith -ac -order [stOp_wf, keeps_next]

theorem execLdN8_wf (t : BitVec 6) (a : BitVec 6) (u : Bool) (s : State) (h0 : Memory.wf s.mem = true) : Keeps (execLdN8 t a u s) := by
  unfold execLdN8
  grind -ring -lia -linarith -ac -order [ldOp_wf, keeps_next]

theorem execLdN64_wf (t : BitVec 6) (a : BitVec 6) (u : Bool) (s : State) (h0 : Memory.wf s.mem = true) : Keeps (execLdN64 t a u s) := by
  unfold execLdN64
  grind -ring -lia -linarith -ac -order [ldOp_wf, keeps_next]

theorem execStN8_wf (t : BitVec 6) (a : BitVec 6) (u : Bool) (s : State) (h0 : Memory.wf s.mem = true) : Keeps (execStN8 t a u s) := by
  unfold execStN8
  grind -ring -lia -linarith -ac -order [stOp_wf, keeps_next]

theorem execLdN16_wf (t : BitVec 6) (a : BitVec 6) (u : Bool) (s : State) (h0 : Memory.wf s.mem = true) : Keeps (execLdN16 t a u s) := by
  unfold execLdN16
  grind -ring -lia -linarith -ac -order [ldOp_wf, keeps_next]

theorem execLdN32x4_wf (t : BitVec 6) (a : BitVec 6) (u : Bool) (s : State) (h0 : Memory.wf s.mem = true) : Keeps (execLdN32x4 t a u s) := by
  unfold execLdN32x4
  grind -ring -lia -linarith -ac -order [ldOp_wf, keeps_next]

theorem execUstN32_wf (t : UReg) (a : BitVec 6) (u : Bool) (s : State) (h0 : Memory.wf s.mem = true) : Keeps (execUstN32 t a u s) := by
  unfold execUstN32
  grind -ring -lia -linarith -ac -order [ustOp_wf, keeps_next]

theorem execStN32_wf (t : BitVec 6) (a : BitVec 6) (u : Bool) (s : State) (h0 : Memory.wf s.mem = true) : Keeps (execStN32 t a u s) := by
  unfold execStN32
  grind -ring -lia -linarith -ac -order [stOp_wf, keeps_next]

theorem scrRaise_wf (t : Trap) (w : Bool) (s : State) (h0 : Memory.wf s.mem = true) : Keeps (scrRaise t w s) := by
  unfold scrRaise
  grind -ring -lia -linarith -ac -order [raise_wf, keeps_next]

theorem ldsOp_wf (n : Nat) (t : BitVec 6) (a : BitVec 6) (u : Bool) (s : State) (h0 : Memory.wf s.mem = true) : Keeps (ldsOp n t a u s) := by
  unfold ldsOp
  grind -ring -lia -linarith -ac -order [State.loadScr_wf, State.markEmpty_wf, scrRaise_wf, keeps_next]

theorem execLdsN32x4_wf (t : BitVec 6) (a : BitVec 6) (u : Bool) (s : State) (h0 : Memory.wf s.mem = true) : Keeps (execLdsN32x4 t a u s) := by
  unfold execLdsN32x4
  grind -ring -lia -linarith -ac -order [ldsOp_wf, keeps_next]

theorem stsOp_wf (n : Nat) (t : BitVec 6) (a : BitVec 6) (u : Bool) (s : State) (h0 : Memory.wf s.mem = true) : Keeps (stsOp n t a u s) := by
  unfold stsOp
  grind -ring -lia -linarith -ac -order [State.storeScr_wf, scrRaise_wf, keeps_next]

theorem execStsN32x4_wf (t : BitVec 6) (a : BitVec 6) (u : Bool) (s : State) (h0 : Memory.wf s.mem = true) : Keeps (execStsN32x4 t a u s) := by
  unfold execStsN32x4
  grind -ring -lia -linarith -ac -order [stsOp_wf, keeps_next]

theorem execStsN32_wf (t : BitVec 6) (a : BitVec 6) (u : Bool) (s : State) (h0 : Memory.wf s.mem = true) : Keeps (execStsN32 t a u s) := by
  unfold execStsN32
  grind -ring -lia -linarith -ac -order [stsOp_wf, keeps_next]

theorem execLdsN32_wf (t : BitVec 6) (a : BitVec 6) (u : Bool) (s : State) (h0 : Memory.wf s.mem = true) : Keeps (execLdsN32 t a u s) := by
  unfold execLdsN32
  grind -ring -lia -linarith -ac -order [ldsOp_wf, keeps_next]

theorem execGather_wf (t : VReg) (a : VReg) (sz : BitVec 2) (s : State) (h0 : Memory.wf s.mem = true) : Keeps (execGather t a sz s) := by
  unfold execGather
  grind -ring -lia -linarith -ac -order [foldl_wf, State.loadScr_wf, State.setEmpty_wf, State.setV_wf, scrRaise_wf, keeps_next]

theorem execLdsN64_wf (t : BitVec 6) (a : BitVec 6) (u : Bool) (s : State) (h0 : Memory.wf s.mem = true) : Keeps (execLdsN64 t a u s) := by
  unfold execLdsN64
  grind -ring -lia -linarith -ac -order [ldsOp_wf, keeps_next]

theorem execStsN64_wf (t : BitVec 6) (a : BitVec 6) (u : Bool) (s : State) (h0 : Memory.wf s.mem = true) : Keeps (execStsN64 t a u s) := by
  unfold execStsN64
  grind -ring -lia -linarith -ac -order [stsOp_wf, keeps_next]

theorem execScatter_wf (t : VReg) (a : VReg) (sz : BitVec 2) (s : State) (h0 : Memory.wf s.mem = true) : Keeps (execScatter t a sz s) := by
  unfold execScatter
  grind -ring -lia -linarith -ac -order [State.storeScr_wf, scrRaise_wf, keeps_next]

theorem execScrSkewWrite_wf (u : Nat) (second : Bool) (v : BitVec 32) (s : State) (h0 : Memory.wf s.mem = true) : Keeps (execScrSkewWrite u second v s) := by
  unfold execScrSkewWrite
  grind -ring -lia -linarith -ac -order [State.writeSkew_wf, keeps_next]

theorem execBindPerformed_wf (u : Nat) (t : Nat) (s : State) (h0 : Memory.wf s.mem = true) : Keeps (execBindPerformed u t s) := by
  unfold execBindPerformed
  grind -ring -lia -linarith -ac -order [State.finishWait_wf, keeps_next]

theorem scopedOp_wf (d : OpDesc) (k : Acc) (addrs : List (Nat × Nat)) (x : Nat → Nat) (cmp : Nat → Nat) (s : State) (h0 : Memory.wf s.mem = true) : Keeps (scopedOp d k addrs x cmp s) := by
  unfold scopedOp
  grind -ring -lia -linarith -ac -order [foldl_wf, State.drain_wf, State.drainFor_wf, State.issueOp_wf, State.markRegs_wf, State.noteAll_wf, raise_wf, stall_wf, keeps_next]

theorem atomOp_wf (op : AtomOp) (res : Bool) (t : VReg) (a : VReg) (scope : BitVec 4) (sc : Bool) (ty : BitVec 3) (s : State) (h0 : Memory.wf s.mem = true) : Keeps (atomOp op res t a scope sc ty s) := by
  unfold atomOp
  grind -ring -lia -linarith -ac -order [State.bufferLanes_wf, State.markRegs_wf, State.noteAll_wf, raise_wf, scopedOp_wf, keeps_next]

theorem execRedAdd_wf (t : VReg) (a : VReg) (scope : BitVec 4) (sc : Bool) (ty : BitVec 3) (s : State) (h0 : Memory.wf s.mem = true) : Keeps (execRedAdd t a scope sc ty s) := by
  unfold execRedAdd
  grind -ring -lia -linarith -ac -order [atomOp_wf, keeps_next]

theorem execFenceAll_wf (scope : BitVec 4) (s : State) (h0 : Memory.wf s.mem = true) : Keeps (execFenceAll scope s) := by
  unfold execFenceAll
  grind -ring -lia -linarith -ac -order [State.drain_wf, State.dropNodes_wf, State.lanes_wf, State.mwaitFor_wf, State.publish_wf, keeps_next]

theorem execRelPerformed_wf (u : Nat) (t : Nat) (s : State) (h0 : Memory.wf s.mem = true) : Keeps (execRelPerformed u t s) := by
  unfold execRelPerformed
  grind -ring -lia -linarith -ac -order [State.fetchLine_wf, State.finishWait_wf, State.giveUp_wf, State.perform_wf, State.publishIf_wf, State.ready_wf, State.sendReq_wf, State.setThr_wf, keeps_next]

theorem execAtomAnd_wf (t : VReg) (a : VReg) (scope : BitVec 4) (sc : Bool) (ty : BitVec 3) (s : State) (h0 : Memory.wf s.mem = true) : Keeps (execAtomAnd t a scope sc ty s) := by
  unfold execAtomAnd
  grind -ring -lia -linarith -ac -order [atomOp_wf, keeps_next]

theorem execScst_wf (t : VReg) (a : VReg) (scope : BitVec 4) (sz : BitVec 2) (s : State) (h0 : Memory.wf s.mem = true) : Keeps (execScst t a scope sz s) := by
  unfold execScst
  grind -ring -lia -linarith -ac -order [scopedOp_wf, keeps_next]

theorem execAtomCas_wf (t : VReg) (a : VReg) (scope : BitVec 4) (sc : Bool) (ty : BitVec 3) (s : State) (h0 : Memory.wf s.mem = true) : Keeps (execAtomCas t a scope sc ty s) := by
  unfold execAtomCas
  grind -ring -lia -linarith -ac -order [atomOp_wf, keeps_next]

theorem execAtomMin_wf (t : VReg) (a : VReg) (scope : BitVec 4) (sc : Bool) (ty : BitVec 3) (s : State) (h0 : Memory.wf s.mem = true) : Keeps (execAtomMin t a scope sc ty s) := by
  unfold execAtomMin
  grind -ring -lia -linarith -ac -order [atomOp_wf, keeps_next]

theorem execScld_wf (t : VReg) (a : VReg) (scope : BitVec 4) (sz : BitVec 2) (s : State) (h0 : Memory.wf s.mem = true) : Keeps (execScld t a scope sz s) := by
  unfold execScld
  grind -ring -lia -linarith -ac -order [scopedOp_wf, keeps_next]

theorem execRedMin_wf (t : VReg) (a : VReg) (scope : BitVec 4) (sc : Bool) (ty : BitVec 3) (s : State) (h0 : Memory.wf s.mem = true) : Keeps (execRedMin t a scope sc ty s) := by
  unfold execRedMin
  grind -ring -lia -linarith -ac -order [atomOp_wf, keeps_next]

theorem execAtomAdd_wf (t : VReg) (a : VReg) (scope : BitVec 4) (sc : Bool) (ty : BitVec 3) (s : State) (h0 : Memory.wf s.mem = true) : Keeps (execAtomAdd t a scope sc ty s) := by
  unfold execAtomAdd
  grind -ring -lia -linarith -ac -order [atomOp_wf, keeps_next]

theorem execAtomXchg_wf (t : VReg) (a : VReg) (scope : BitVec 4) (sc : Bool) (ty : BitVec 3) (s : State) (h0 : Memory.wf s.mem = true) : Keeps (execAtomXchg t a scope sc ty s) := by
  unfold execAtomXchg
  grind -ring -lia -linarith -ac -order [atomOp_wf, keeps_next]

theorem execFenceAllDone_wf (u : Nat) (t : Nat) (s : State) (h0 : Memory.wf s.mem = true) : Keeps (execFenceAllDone u t s) := by
  unfold execFenceAllDone
  grind -ring -lia -linarith -ac -order [State.finishWait_wf, State.refresh_wf, State.setThr_wf, keeps_next]

theorem execAtomMax_wf (t : VReg) (a : VReg) (scope : BitVec 4) (sc : Bool) (ty : BitVec 3) (s : State) (h0 : Memory.wf s.mem = true) : Keeps (execAtomMax t a scope sc ty s) := by
  unfold execAtomMax
  grind -ring -lia -linarith -ac -order [atomOp_wf, keeps_next]

theorem execAtomOr_wf (t : VReg) (a : VReg) (scope : BitVec 4) (sc : Bool) (ty : BitVec 3) (s : State) (h0 : Memory.wf s.mem = true) : Keeps (execAtomOr t a scope sc ty s) := by
  unfold execAtomOr
  grind -ring -lia -linarith -ac -order [atomOp_wf, keeps_next]

theorem execBind_wf (t : VReg) (a : VReg) (s : State) (h0 : Memory.wf s.mem = true) : Keeps (execBind t a s) := by
  unfold execBind
  grind -ring -lia -linarith -ac -order [State.lanes_wf, State.mwaitFor_wf, State.setLaunch_wf, raise_wf, keeps_next]

theorem execRedMax_wf (t : VReg) (a : VReg) (scope : BitVec 4) (sc : Bool) (ty : BitVec 3) (s : State) (h0 : Memory.wf s.mem = true) : Keeps (execRedMax t a scope sc ty s) := by
  unfold execRedMax
  grind -ring -lia -linarith -ac -order [atomOp_wf, keeps_next]

theorem execAtomXor_wf (t : VReg) (a : VReg) (scope : BitVec 4) (sc : Bool) (ty : BitVec 3) (s : State) (h0 : Memory.wf s.mem = true) : Keeps (execAtomXor t a scope sc ty s) := by
  unfold execAtomXor
  grind -ring -lia -linarith -ac -order [atomOp_wf, keeps_next]

theorem execAmax_wf (d : BitVec 6) (a : BitVec 6) (u : Bool) (size : Bool) (scope : BitVec 4) (s : State) (h0 : Memory.wf s.mem = true) : Keeps (execAmax d a u size scope s) := by
  unfold execAmax
  grind -ring -lia -linarith -ac -order [scopedOp_wf, keeps_next]

theorem execAcq_wf (t : VReg) (a : VReg) (scope : BitVec 4) (s : State) (h0 : Memory.wf s.mem = true) : Keeps (execAcq t a scope s) := by
  unfold execAcq
  grind -ring -lia -linarith -ac -order [State.dropNodes_wf, scopedOp_wf, keeps_next]

theorem execRel_wf (a : VReg) (scope : BitVec 4) (s : State) (h0 : Memory.wf s.mem = true) : Keeps (execRel a scope s) := by
  unfold execRel
  grind -ring -lia -linarith -ac -order [foldl_wf, State.drain_wf, State.mwaitFor_wf, State.noteAll_wf, State.publishIf_wf, raise_wf, keeps_next]

theorem bin_wf (f : Word → Word → Word) (d : VReg) (a : VReg) (b : VReg) (s : State) (h0 : Memory.wf s.mem = true) : Keeps (bin f d a b s) := by
  unfold bin
  grind -ring -lia -linarith -ac -order [State.lanes_wf, State.setV_wf, keeps_next]

theorem execIaddsI32_wf (d : VReg) (a : VReg) (b : VReg) (s : State) (h0 : Memory.wf s.mem = true) : Keeps (execIaddsI32 d a b s) := by
  unfold execIaddsI32
  grind -ring -lia -linarith -ac -order [bin_wf, keeps_next]

theorem binCc_wf (c : BitVec 2) (f : Word → Word → Word) (g : Word → Word → BitVec 4) (d : VReg) (a : VReg) (b : VReg) (s : State) (h0 : Memory.wf s.mem = true) : Keeps (binCc c f g d a b s) := by
  unfold binCc
  grind -ring -lia -linarith -ac -order [State.lanes_wf, State.setCc_wf, State.setV_wf, keeps_next]

theorem execIaddCc_wf (c : BitVec 2) (d : VReg) (a : VReg) (b : VReg) (s : State) (h0 : Memory.wf s.mem = true) : Keeps (execIaddCc c d a b s) := by
  unfold execIaddCc
  grind -ring -lia -linarith -ac -order [binCc_wf, keeps_next]

theorem execShl_wf (d : VReg) (a : VReg) (b : VReg) (s : State) (h0 : Memory.wf s.mem = true) : Keeps (execShl d a b s) := by
  unfold execShl
  grind -ring -lia -linarith -ac -order [bin_wf, keeps_next]

theorem execImaxI32_wf (d : VReg) (a : VReg) (b : VReg) (s : State) (h0 : Memory.wf s.mem = true) : Keeps (execImaxI32 d a b s) := by
  unfold execImaxI32
  grind -ring -lia -linarith -ac -order [bin_wf, keeps_next]

theorem execIsubCc_wf (c : BitVec 2) (d : VReg) (a : VReg) (b : VReg) (s : State) (h0 : Memory.wf s.mem = true) : Keeps (execIsubCc c d a b s) := by
  unfold execIsubCc
  grind -ring -lia -linarith -ac -order [binCc_wf, keeps_next]

theorem un_wf (f : Word → Word) (d : VReg) (a : VReg) (s : State) (h0 : Memory.wf s.mem = true) : Keeps (un f d a s) := by
  unfold un
  grind -ring -lia -linarith -ac -order [State.lanes_wf, State.setV_wf, keeps_next]

theorem execXori_wf (d : VReg) (a : VReg) (i : BitVec 12) (s : State) (h0 : Memory.wf s.mem = true) : Keeps (execXori d a i s) := by
  unfold execXori
  grind -ring -lia -linarith -ac -order [un_wf, keeps_next]

theorem execImaxN32Cc_wf (c : BitVec 2) (d : VReg) (a : VReg) (b : VReg) (s : State) (h0 : Memory.wf s.mem = true) : Keeps (execImaxN32Cc c d a b s) := by
  unfold execImaxN32Cc
  grind -ring -lia -linarith -ac -order [binCc_wf, keeps_next]

theorem execBfx_wf (d : VReg) (a : VReg) (b : VReg) (s : State) (h0 : Memory.wf s.mem = true) : Keeps (execBfx d a b s) := by
  unfold execBfx
  grind -ring -lia -linarith -ac -order [bin_wf, keeps_next]

theorem execIadd64_wf (d : VReg) (a : VReg) (b : VReg) (s : State) (h0 : Memory.wf s.mem = true) : Keeps (execIadd64 d a b s) := by
  unfold execIadd64
  grind -ring -lia -linarith -ac -order [State.lanes_wf, State.setP_wf, keeps_next]

theorem execClz_wf (d : VReg) (a : VReg) (s : State) (h0 : Memory.wf s.mem = true) : Keeps (execClz d a s) := by
  unfold execClz
  grind -ring -lia -linarith -ac -order [un_wf, keeps_next]

theorem binX_wf (ci : Nat) (f : Word → Word → Nat → Word) (d : VReg) (a : VReg) (b : VReg) (s : State) (h0 : Memory.wf s.mem = true) : Keeps (binX ci f d a b s) := by
  unfold binX
  grind -ring -lia -linarith -ac -order [State.lanes_wf, State.setV_wf, keeps_next]

theorem execIsubx_wf (d : VReg) (a : VReg) (b : VReg) (s : State) (h0 : Memory.wf s.mem = true) : Keeps (execIsubx d a b s) := by
  unfold execIsubx
  grind -ring -lia -linarith -ac -order [binX_wf, keeps_next]

theorem execIsub_wf (d : VReg) (a : VReg) (b : VReg) (s : State) (h0 : Memory.wf s.mem = true) : Keeps (execIsub d a b s) := by
  unfold execIsub
  grind -ring -lia -linarith -ac -order [bin_wf, keeps_next]

theorem execImulhI32Cc_wf (c : BitVec 2) (d : VReg) (a : VReg) (b : VReg) (s : State) (h0 : Memory.wf s.mem = true) : Keeps (execImulhI32Cc c d a b s) := by
  unfold execImulhI32Cc
  grind -ring -lia -linarith -ac -order [binCc_wf, keeps_next]

theorem execShrI32_wf (d : VReg) (a : VReg) (b : VReg) (s : State) (h0 : Memory.wf s.mem = true) : Keeps (execShrI32 d a b s) := by
  unfold execShrI32
  grind -ring -lia -linarith -ac -order [bin_wf, keeps_next]

theorem execIaddx_wf (d : VReg) (a : VReg) (b : VReg) (s : State) (h0 : Memory.wf s.mem = true) : Keeps (execIaddx d a b s) := by
  unfold execIaddx
  grind -ring -lia -linarith -ac -order [binX_wf, keeps_next]

theorem execImul_wf (d : VReg) (a : VReg) (b : VReg) (s : State) (h0 : Memory.wf s.mem = true) : Keeps (execImul d a b s) := by
  unfold execImul
  grind -ring -lia -linarith -ac -order [bin_wf, keeps_next]

theorem execShri_wf (d : VReg) (a : VReg) (i : BitVec 5) (s : State) (h0 : Memory.wf s.mem = true) : Keeps (execShri d a i s) := by
  unfold execShri
  grind -ring -lia -linarith -ac -order [un_wf, keeps_next]

theorem execIsub64_wf (d : VReg) (a : VReg) (b : VReg) (s : State) (h0 : Memory.wf s.mem = true) : Keeps (execIsub64 d a b s) := by
  unfold execIsub64
  grind -ring -lia -linarith -ac -order [State.lanes_wf, State.setP_wf, keeps_next]

theorem execAddr_wf (d : VReg) (a : VReg) (b : VReg) (s : State) (h0 : Memory.wf s.mem = true) : Keeps (execAddr d a b s) := by
  unfold execAddr
  grind -ring -lia -linarith -ac -order [State.lanes_wf, State.setP_wf, keeps_next]

theorem execPopc_wf (d : VReg) (a : VReg) (s : State) (h0 : Memory.wf s.mem = true) : Keeps (execPopc d a s) := by
  unfold execPopc
  grind -ring -lia -linarith -ac -order [un_wf, keeps_next]

theorem execIaddi_wf (d : VReg) (a : VReg) (i : BitVec 12) (s : State) (h0 : Memory.wf s.mem = true) : Keeps (execIaddi d a i s) := by
  unfold execIaddi
  grind -ring -lia -linarith -ac -order [un_wf, keeps_next]

theorem execAndi_wf (d : VReg) (a : VReg) (i : BitVec 12) (s : State) (h0 : Memory.wf s.mem = true) : Keeps (execAndi d a i s) := by
  unfold execAndi
  grind -ring -lia -linarith -ac -order [un_wf, keeps_next]

theorem execImaxI32Cc_wf (c : BitVec 2) (d : VReg) (a : VReg) (b : VReg) (s : State) (h0 : Memory.wf s.mem = true) : Keeps (execImaxI32Cc c d a b s) := by
  unfold execImaxI32Cc
  grind -ring -lia -linarith -ac -order [binCc_wf, keeps_next]

theorem execImaxN32_wf (d : VReg) (a : VReg) (b : VReg) (s : State) (h0 : Memory.wf s.mem = true) : Keeps (execImaxN32 d a b s) := by
  unfold execImaxN32
  grind -ring -lia -linarith -ac -order [bin_wf, keeps_next]

theorem execMov_wf (d : VReg) (a : VReg) (s : State) (h0 : Memory.wf s.mem = true) : Keeps (execMov d a s) := by
  unfold execMov
  grind -ring -lia -linarith -ac -order [un_wf, keeps_next]

theorem execSel_wf (d : VReg) (a : VReg) (b : VReg) (c : BitVec 4) (n : BitVec 2) (s : State) (h0 : Memory.wf s.mem = true) : Keeps (execSel d a b c n s) := by
  unfold execSel
  grind -ring -lia -linarith -ac -order [State.lanes_wf, State.setV_wf, keeps_next]

theorem binXCc_wf (c : BitVec 2) (f : Word → Word → Nat → Word) (g : Word → Word → Nat → BitVec 4) (d : VReg) (a : VReg) (b : VReg) (s : State) (h0 : Memory.wf s.mem = true) : Keeps (binXCc c f g d a b s) := by
  unfold binXCc
  grind -ring -lia -linarith -ac -order [State.lanes_wf, State.setCc_wf, State.setV_wf, keeps_next]

theorem execOr_wf (d : VReg) (a : VReg) (b : VReg) (s : State) (h0 : Memory.wf s.mem = true) : Keeps (execOr d a b s) := by
  unfold execOr
  grind -ring -lia -linarith -ac -order [bin_wf, keeps_next]

theorem execIaddsI32Cc_wf (c : BitVec 2) (d : VReg) (a : VReg) (b : VReg) (s : State) (h0 : Memory.wf s.mem = true) : Keeps (execIaddsI32Cc c d a b s) := by
  unfold execIaddsI32Cc
  grind -ring -lia -linarith -ac -order [binCc_wf, keeps_next]

theorem execShrN32_wf (d : VReg) (a : VReg) (b : VReg) (s : State) (h0 : Memory.wf s.mem = true) : Keeps (execShrN32 d a b s) := by
  unfold execShrN32
  grind -ring -lia -linarith -ac -order [bin_wf, keeps_next]

theorem execMovi_wf (d : VReg) (i : BitVec 12) (s : State) (h0 : Memory.wf s.mem = true) : Keeps (execMovi d i s) := by
  unfold execMovi
  grind -ring -lia -linarith -ac -order [State.lanes_wf, State.setV_wf, keeps_next]

theorem execIsubxCc_wf (c : BitVec 2) (d : VReg) (a : VReg) (b : VReg) (s : State) (h0 : Memory.wf s.mem = true) : Keeps (execIsubxCc c d a b s) := by
  unfold execIsubxCc
  grind -ring -lia -linarith -ac -order [binXCc_wf, keeps_next]

theorem execIaddxCc_wf (c : BitVec 2) (d : VReg) (a : VReg) (b : VReg) (s : State) (h0 : Memory.wf s.mem = true) : Keeps (execIaddxCc c d a b s) := by
  unfold execIaddxCc
  grind -ring -lia -linarith -ac -order [binXCc_wf, keeps_next]

theorem execIadd_wf (d : VReg) (a : VReg) (b : VReg) (s : State) (h0 : Memory.wf s.mem = true) : Keeps (execIadd d a b s) := by
  unfold execIadd
  grind -ring -lia -linarith -ac -order [bin_wf, keeps_next]

theorem execImulhI32_wf (d : VReg) (a : VReg) (b : VReg) (s : State) (h0 : Memory.wf s.mem = true) : Keeps (execImulhI32 d a b s) := by
  unfold execImulhI32
  grind -ring -lia -linarith -ac -order [bin_wf, keeps_next]

theorem execImulhN32_wf (d : VReg) (a : VReg) (b : VReg) (s : State) (h0 : Memory.wf s.mem = true) : Keeps (execImulhN32 d a b s) := by
  unfold execImulhN32
  grind -ring -lia -linarith -ac -order [bin_wf, keeps_next]

theorem execShli_wf (d : VReg) (a : VReg) (i : BitVec 5) (s : State) (h0 : Memory.wf s.mem = true) : Keeps (execShli d a i s) := by
  unfold execShli
  grind -ring -lia -linarith -ac -order [un_wf, keeps_next]

theorem execIminN32_wf (d : VReg) (a : VReg) (b : VReg) (s : State) (h0 : Memory.wf s.mem = true) : Keeps (execIminN32 d a b s) := by
  unfold execIminN32
  grind -ring -lia -linarith -ac -order [bin_wf, keeps_next]

theorem execOri_wf (d : VReg) (a : VReg) (i : BitVec 12) (s : State) (h0 : Memory.wf s.mem = true) : Keeps (execOri d a i s) := by
  unfold execOri
  grind -ring -lia -linarith -ac -order [un_wf, keeps_next]

theorem execIminI32_wf (d : VReg) (a : VReg) (b : VReg) (s : State) (h0 : Memory.wf s.mem = true) : Keeps (execIminI32 d a b s) := by
  unfold execIminI32
  grind -ring -lia -linarith -ac -order [bin_wf, keeps_next]

theorem execXor_wf (d : VReg) (a : VReg) (b : VReg) (s : State) (h0 : Memory.wf s.mem = true) : Keeps (execXor d a b s) := by
  unfold execXor
  grind -ring -lia -linarith -ac -order [bin_wf, keeps_next]

theorem execIminI32Cc_wf (c : BitVec 2) (d : VReg) (a : VReg) (b : VReg) (s : State) (h0 : Memory.wf s.mem = true) : Keeps (execIminI32Cc c d a b s) := by
  unfold execIminI32Cc
  grind -ring -lia -linarith -ac -order [binCc_wf, keeps_next]

theorem execIminN32Cc_wf (c : BitVec 2) (d : VReg) (a : VReg) (b : VReg) (s : State) (h0 : Memory.wf s.mem = true) : Keeps (execIminN32Cc c d a b s) := by
  unfold execIminN32Cc
  grind -ring -lia -linarith -ac -order [binCc_wf, keeps_next]

theorem execImulhN32Cc_wf (c : BitVec 2) (d : VReg) (a : VReg) (b : VReg) (s : State) (h0 : Memory.wf s.mem = true) : Keeps (execImulhN32Cc c d a b s) := by
  unfold execImulhN32Cc
  grind -ring -lia -linarith -ac -order [binCc_wf, keeps_next]

theorem execBfi_wf (d : VReg) (a : VReg) (b : VReg) (s : State) (h0 : Memory.wf s.mem = true) : Keeps (execBfi d a b s) := by
  unfold execBfi
  grind -ring -lia -linarith -ac -order [State.lanes_wf, State.setV_wf, keeps_next]

theorem execAnd_wf (d : VReg) (a : VReg) (b : VReg) (s : State) (h0 : Memory.wf s.mem = true) : Keeps (execAnd d a b s) := by
  unfold execAnd
  grind -ring -lia -linarith -ac -order [bin_wf, keeps_next]

theorem execIcmp_wf (c : BitVec 2) (a : VReg) (b : VReg) (s : State) (h0 : Memory.wf s.mem = true) : Keeps (execIcmp c a b s) := by
  unfold execIcmp
  grind -ring -lia -linarith -ac -order [State.lanes_wf, State.setCc_wf, keeps_next]

theorem execImulCc_wf (c : BitVec 2) (d : VReg) (a : VReg) (b : VReg) (s : State) (h0 : Memory.wf s.mem = true) : Keeps (execImulCc c d a b s) := by
  unfold execImulCc
  grind -ring -lia -linarith -ac -order [binCc_wf, keeps_next]

theorem late_wf (f : Nat → Word) (d : VReg) (s : State) (h0 : Memory.wf s.mem = true) : Keeps (late f d s) := by
  unfold late
  grind -ring -lia -linarith -ac -order [State.markEmpty_wf, keeps_next]

theorem special_wf (f : FVal → Nat) (d : VReg) (a : VReg) (s : State) (h0 : Memory.wf s.mem = true) : Keeps (special f d a s) := by
  unfold special
  grind -ring -lia -linarith -ac -order [late_wf, keeps_next]

theorem execSqrtF32_wf (d : VReg) (a : VReg) (s : State) (h0 : Memory.wf s.mem = true) : Keeps (execSqrtF32 d a s) := by
  unfold execSqrtF32
  grind -ring -lia -linarith -ac -order [special_wf, keeps_next]

theorem execCosF32_wf (d : VReg) (a : VReg) (s : State) (h0 : Memory.wf s.mem = true) : Keeps (execCosF32 d a s) := by
  unfold execCosF32
  grind -ring -lia -linarith -ac -order [special_wf, keeps_next]

theorem execFdivF32_wf (d : VReg) (a : VReg) (b : VReg) (s : State) (h0 : Memory.wf s.mem = true) : Keeps (execFdivF32 d a b s) := by
  unfold execFdivF32
  grind -ring -lia -linarith -ac -order [late_wf, keeps_next]

theorem execFmulBf16x2_wf (r : BitVec 2) (d : VReg) (a : VReg) (b : VReg) (s : State) (h0 : Memory.wf s.mem = true) : Keeps (execFmulBf16x2 r d a b s) := by
  unfold execFmulBf16x2
  grind -ring -lia -linarith -ac -order [bin_wf, keeps_next]

theorem execFminF32_wf (d : VReg) (a : VReg) (b : VReg) (s : State) (h0 : Memory.wf s.mem = true) : Keeps (execFminF32 d a b s) := by
  unfold execFminF32
  grind -ring -lia -linarith -ac -order [bin_wf, keeps_next]

theorem execFcmpF32_wf (c : BitVec 2) (a : VReg) (b : VReg) (s : State) (h0 : Memory.wf s.mem = true) : Keeps (execFcmpF32 c a b s) := by
  unfold execFcmpF32
  grind -ring -lia -linarith -ac -order [State.lanes_wf, State.setCc_wf, keeps_next]

theorem execFaddF16x2_wf (r : BitVec 2) (d : VReg) (a : VReg) (b : VReg) (s : State) (h0 : Memory.wf s.mem = true) : Keeps (execFaddF16x2 r d a b s) := by
  unfold execFaddF16x2
  grind -ring -lia -linarith -ac -order [bin_wf, keeps_next]

theorem execFaddBf16x2_wf (r : BitVec 2) (d : VReg) (a : VReg) (b : VReg) (s : State) (h0 : Memory.wf s.mem = true) : Keeps (execFaddBf16x2 r d a b s) := by
  unfold execFaddBf16x2
  grind -ring -lia -linarith -ac -order [bin_wf, keeps_next]

theorem execFmulF16x2_wf (r : BitVec 2) (d : VReg) (a : VReg) (b : VReg) (s : State) (h0 : Memory.wf s.mem = true) : Keeps (execFmulF16x2 r d a b s) := by
  unfold execFmulF16x2
  grind -ring -lia -linarith -ac -order [bin_wf, keeps_next]

theorem execTanhF32_wf (d : VReg) (a : VReg) (s : State) (h0 : Memory.wf s.mem = true) : Keeps (execTanhF32 d a s) := by
  unfold execTanhF32
  grind -ring -lia -linarith -ac -order [special_wf, keeps_next]

theorem execLog2F32_wf (d : VReg) (a : VReg) (s : State) (h0 : Memory.wf s.mem = true) : Keeps (execLog2F32 d a s) := by
  unfold execLog2F32
  grind -ring -lia -linarith -ac -order [special_wf, keeps_next]

theorem execFmulF32_wf (r : BitVec 2) (d : VReg) (a : VReg) (b : VReg) (s : State) (h0 : Memory.wf s.mem = true) : Keeps (execFmulF32 r d a b s) := by
  unfold execFmulF32
  grind -ring -lia -linarith -ac -order [bin_wf, keeps_next]

theorem execRcpF32_wf (d : VReg) (a : VReg) (s : State) (h0 : Memory.wf s.mem = true) : Keeps (execRcpF32 d a s) := by
  unfold execRcpF32
  grind -ring -lia -linarith -ac -order [special_wf, keeps_next]

theorem execSinF32_wf (d : VReg) (a : VReg) (s : State) (h0 : Memory.wf s.mem = true) : Keeps (execSinF32 d a s) := by
  unfold execSinF32
  grind -ring -lia -linarith -ac -order [special_wf, keeps_next]

theorem execExp2F32_wf (d : VReg) (a : VReg) (s : State) (h0 : Memory.wf s.mem = true) : Keeps (execExp2F32 d a s) := by
  unfold execExp2F32
  grind -ring -lia -linarith -ac -order [special_wf, keeps_next]

theorem execFnegF32_wf (d : VReg) (a : VReg) (s : State) (h0 : Memory.wf s.mem = true) : Keeps (execFnegF32 d a s) := by
  unfold execFnegF32
  grind -ring -lia -linarith -ac -order [un_wf, keeps_next]

theorem tri_wf (f : Word → Word → Word → Word) (d : VReg) (a : VReg) (b : VReg) (s : State) (h0 : Memory.wf s.mem = true) : Keeps (tri f d a b s) := by
  unfold tri
  grind -ring -lia -linarith -ac -order [State.lanes_wf, State.setV_wf, keeps_next]

theorem execFfmaF32_wf (r : BitVec 2) (d : VReg) (a : VReg) (b : VReg) (s : State) (h0 : Memory.wf s.mem = true) : Keeps (execFfmaF32 r d a b s) := by
  unfold execFfmaF32
  grind -ring -lia -linarith -ac -order [tri_wf, keeps_next]

theorem execFsubF32_wf (r : BitVec 2) (d : VReg) (a : VReg) (b : VReg) (s : State) (h0 : Memory.wf s.mem = true) : Keeps (execFsubF32 r d a b s) := by
  unfold execFsubF32
  grind -ring -lia -linarith -ac -order [bin_wf, keeps_next]

theorem execFaddF32_wf (r : BitVec 2) (d : VReg) (a : VReg) (b : VReg) (s : State) (h0 : Memory.wf s.mem = true) : Keeps (execFaddF32 r d a b s) := by
  unfold execFaddF32
  grind -ring -lia -linarith -ac -order [bin_wf, keeps_next]

theorem execFfmaBf16x2_wf (r : BitVec 2) (d : VReg) (a : VReg) (b : VReg) (s : State) (h0 : Memory.wf s.mem = true) : Keeps (execFfmaBf16x2 r d a b s) := by
  unfold execFfmaBf16x2
  grind -ring -lia -linarith -ac -order [tri_wf, keeps_next]

theorem execFmaxF32_wf (d : VReg) (a : VReg) (b : VReg) (s : State) (h0 : Memory.wf s.mem = true) : Keeps (execFmaxF32 d a b s) := by
  unfold execFmaxF32
  grind -ring -lia -linarith -ac -order [bin_wf, keeps_next]

theorem execFminF16x2_wf (d : VReg) (a : VReg) (b : VReg) (s : State) (h0 : Memory.wf s.mem = true) : Keeps (execFminF16x2 d a b s) := by
  unfold execFminF16x2
  grind -ring -lia -linarith -ac -order [bin_wf, keeps_next]

theorem execFclassF32_wf (d : VReg) (a : VReg) (s : State) (h0 : Memory.wf s.mem = true) : Keeps (execFclassF32 d a s) := by
  unfold execFclassF32
  grind -ring -lia -linarith -ac -order [un_wf, keeps_next]

theorem execRsqrtF32_wf (d : VReg) (a : VReg) (s : State) (h0 : Memory.wf s.mem = true) : Keeps (execRsqrtF32 d a s) := by
  unfold execRsqrtF32
  grind -ring -lia -linarith -ac -order [special_wf, keeps_next]

theorem execFabsF32_wf (d : VReg) (a : VReg) (s : State) (h0 : Memory.wf s.mem = true) : Keeps (execFabsF32 d a s) := by
  unfold execFabsF32
  grind -ring -lia -linarith -ac -order [un_wf, keeps_next]

theorem execFmaxF16x2_wf (d : VReg) (a : VReg) (b : VReg) (s : State) (h0 : Memory.wf s.mem = true) : Keeps (execFmaxF16x2 d a b s) := by
  unfold execFmaxF16x2
  grind -ring -lia -linarith -ac -order [bin_wf, keeps_next]

theorem execFfmaF16x2_wf (r : BitVec 2) (d : VReg) (a : VReg) (b : VReg) (s : State) (h0 : Memory.wf s.mem = true) : Keeps (execFfmaF16x2 r d a b s) := by
  unfold execFfmaF16x2
  grind -ring -lia -linarith -ac -order [tri_wf, keeps_next]

theorem execUnpack_wf (d : VReg) (a : VReg) (fmt : BitVec 4) (s : State) (h0 : Memory.wf s.mem = true) : Keeps (execUnpack d a fmt s) := by
  unfold execUnpack
  grind -ring -lia -linarith -ac -order [foldl_wf, State.lanes_wf, State.setV_wf, keeps_next]

theorem execCvt_wf (d : VReg) (a : VReg) (ftz : Bool) (ovf : BitVec 2) (rnd : BitVec 2) (dst : BitVec 4) (src : BitVec 4) (s : State) (h0 : Memory.wf s.mem = true) : Keeps (execCvt d a ftz ovf rnd dst src s) := by
  unfold execCvt
  grind -ring -lia -linarith -ac -order [State.lanes_wf, State.setP_wf, State.setV_wf, raise_wf, keeps_next]

theorem execPack_wf (d : VReg) (a : VReg) (ovf : BitVec 2) (rnd : BitVec 2) (qtype : BitVec 2) (fmt : BitVec 4) (s : State) (h0 : Memory.wf s.mem = true) : Keeps (execPack d a ovf rnd qtype fmt s) := by
  unfold execPack
  grind -ring -lia -linarith -ac -order [foldl_wf, State.lanes_wf, State.setV_wf, raise_wf, keeps_next]

theorem jumpTo_wf (a : VReg) (s : State) (h0 : Memory.wf s.mem = true) : Keeps (jumpTo a s) := by
  unfold jumpTo
  grind -ring -lia -linarith -ac -order [State.goto_wf, State.lanes_wf, raise_wf, keeps_next]

theorem execBarArrive_wf (n : BitVec 4) (s : State) (h0 : Memory.wf s.mem = true) : Keeps (execBarArrive n s) := by
  unfold execBarArrive
  grind -ring -lia -linarith -ac -order [State.arriveLanes_wf, State.drain_wf, State.retestBar_wf, raise_wf, keeps_next]

theorem execYield_wf (s : State) (h0 : Memory.wf s.mem = true) : Keeps (execYield s) := by
  unfold execYield
  grind -ring -lia -linarith -ac -order [State.lanes_wf, State.setThL_wf, keeps_next]

theorem execExit_wf (s : State) (h0 : Memory.wf s.mem = true) : Keeps (execExit s) := by
  unfold execExit
  grind -ring -lia -linarith -ac -order [State.exitThreads_wf, State.testEnd_wf, keeps_next]

theorem execUnassignedOpcode_wf (w : BitVec 32) (opw : BitVec 32) (s : State) (h0 : Memory.wf s.mem = true) : Keeps (execUnassignedOpcode w opw s) := by
  unfold execUnassignedOpcode
  grind -ring -lia -linarith -ac -order [raise_wf, keeps_next]

theorem execMeet_wf (clr : Bool) (off : BitVec 24) (s : State) (h0 : Memory.wf s.mem = true) : Keeps (execMeet clr off s) := by
  unfold execMeet
  grind -ring -lia -linarith -ac -order [State.lanes_wf, State.retestGang_wf, State.setMeet_wf, raise_wf, keeps_next]

theorem execYieldExpiry_wf (u : Nat) (g : Nat) (f : Nat) (s : State) (h0 : Memory.wf s.mem = true) : Keeps (execYieldExpiry u g f s) := by
  unfold execYieldExpiry
  grind -ring -lia -linarith -ac -order [foldl_wf, State.setThr_wf, keeps_next]

theorem execCall_wf (off : BitVec 24) (s : State) (h0 : Memory.wf s.mem = true) : Keeps (execCall off s) := by
  unfold execCall
  grind -ring -lia -linarith -ac -order [State.goto_wf, State.lanes_wf, State.setP_wf, raise_wf, keeps_next]

theorem execBarWait_wf (d : VReg) (n : BitVec 4) (s : State) (h0 : Memory.wf s.mem = true) : Keeps (execBarWait d n s) := by
  unfold execBarWait
  grind -ring -lia -linarith -ac -order [foldl_wf, State.barrierWait_wf, State.setV_wf, keeps_next]

theorem execCallr_wf (d : VReg) (a : VReg) (s : State) (h0 : Memory.wf s.mem = true) : Keeps (execCallr d a s) := by
  unfold execCallr
  grind -ring -lia -linarith -ac -order [State.goto_wf, State.lanes_wf, State.setP_wf, raise_wf, keeps_next]

theorem transfer_wf (off : BitVec 24) (taken : List Nat) (s : State) (h0 : Memory.wf s.mem = true) : Keeps (transfer off taken s) := by
  unfold transfer
  grind -ring -lia -linarith -ac -order [foldl_wf, State.goto_wf, raise_wf, keeps_next]

theorem execBra_wf (off : BitVec 24) (s : State) (h0 : Memory.wf s.mem = true) : Keeps (execBra off s) := by
  unfold execBra
  grind -ring -lia -linarith -ac -order [transfer_wf, keeps_next]

theorem execElect_wf (d : VReg) (s : State) (h0 : Memory.wf s.mem = true) : Keeps (execElect d s) := by
  unfold execElect
  grind -ring -lia -linarith -ac -order [State.lanes_wf, State.setV_wf, keeps_next]

theorem execSprd_wf (d : VReg) (sel : BitVec 6) (s : State) (h0 : Memory.wf s.mem = true) : Keeps (execSprd d sel s) := by
  unfold execSprd
  grind -ring -lia -linarith -ac -order [State.lanes_wf, State.setV_wf, keeps_next]

theorem execSpwr_wf (b : VReg) (s : State) (h0 : Memory.wf s.mem = true) : Keeps (execSpwr b s) := by
  unfold execSpwr
  grind -ring -lia -linarith -ac -order [State.lanes_wf, State.retestGang_wf, State.setMeet_wf, raise_wf, keeps_next]

theorem execTrap_wf (code : BitVec 16) (s : State) (h0 : Memory.wf s.mem = true) : Keeps (execTrap code s) := by
  unfold execTrap
  grind -ring -lia -linarith -ac -order [raise_wf, keeps_next]

theorem execSvc_wf (code : BitVec 16) (s : State) (h0 : Memory.wf s.mem = true) : Keeps (execSvc code s) := by
  unfold execSvc
  grind -ring -lia -linarith -ac -order [raise_wf, keeps_next]

theorem execPhase_wf (s : State) (h0 : Memory.wf s.mem = true) : Keeps (execPhase s) := by
  unfold execPhase
  grind -ring -lia -linarith -ac -order [State.drain_wf, State.lanes_wf, State.setTeam_wf, State.waitFor_wf, raise_wf, keeps_next]

theorem execJmp_wf (a : VReg) (s : State) (h0 : Memory.wf s.mem = true) : Keeps (execJmp a s) := by
  unfold execJmp
  grind -ring -lia -linarith -ac -order [jumpTo_wf, keeps_next]

theorem execNop_wf (s : State) (h0 : Memory.wf s.mem = true) : Keeps (execNop s) := by
  exact ⟨_, rfl, h0⟩

theorem execBrc_wf (a : VReg) (c : BitVec 4) (set : BitVec 2) (rz : Bool) (off : BitVec 24) (s : State) (h0 : Memory.wf s.mem = true) : Keeps (execBrc a c set rz off s) := by
  unfold execBrc
  grind -ring -lia -linarith -ac -order [transfer_wf, keeps_next]

theorem execBar_wf (d : VReg) (n : BitVec 4) (s : State) (h0 : Memory.wf s.mem = true) : Keeps (execBar d n s) := by
  unfold execBar
  grind -ring -lia -linarith -ac -order [State.arriveLanes_wf, State.barrierWait_wf, State.drain_wf, State.retestBar_wf, raise_wf, keeps_next]

theorem execCarve_wf (d : VReg) (l1g : BitVec 4) (scrg : BitVec 5) (n : BitVec 4) (s : State) (h0 : Memory.wf s.mem = true) : Keeps (execCarve d l1g scrg n s) := by
  unfold execCarve
  grind -ring -lia -linarith -ac -order [State.arriveLanes_wf, State.barrierWait_wf, State.drain_wf, State.retestBar_wf, State.setBar_wf, raise_wf, keeps_next]

theorem execRet_wf (a : VReg) (s : State) (h0 : Memory.wf s.mem = true) : Keeps (execRet a s) := by
  unfold execRet
  grind -ring -lia -linarith -ac -order [jumpTo_wf, keeps_next]

theorem execEret_wf (s : State) (h0 : Memory.wf s.mem = true) : Keeps (execEret s) := by
  unfold execEret
  grind -ring -lia -linarith -ac -order [State.lanes_wf, State.leaveHandler_wf, State.replayLds_wf, raise_wf, keeps_next]

theorem execRecordArrival_wf (k : Nat) (s : State) (h0 : Memory.wf s.mem = true) : Keeps (execRecordArrival k s) := by
  unfold execRecordArrival
  grind -ring -lia -linarith -ac -order [foldl_wf, State.arriveRec_wf, keeps_next]

theorem execFinish_wf (a : VReg) (s : State) (h0 : Memory.wf s.mem = true) : Keeps (execFinish a s) := by
  unfold execFinish
  grind -ring -lia -linarith -ac -order [State.exitThreads_wf, State.joinLanes_wf, State.testEnd_wf, raise_wf, keeps_next]

theorem emitOp_wf (kind : Nat) (d : VReg) (a : VReg) (join : Nat) (edge : Nat) (frame : Nat → Nat) (code : Nat → Nat) (check : Nat → Option Trap) (s : State) (h0 : Memory.wf s.mem = true) : Keeps (emitOp kind d a join edge frame code check s) := by
  unfold emitOp
  grind -ring -lia -linarith -ac -order [State.drain_wf, State.lanes_wf, State.markEmpty_wf, State.publish_wf, State.setTeam_wf, raise_wf, keeps_next]

theorem execSpawn_wf (d : VReg) (a : VReg) (b : VReg) (fr : Bool) (join : BitVec 12) (edge : BitVec 10) (s : State) (h0 : Memory.wf s.mem = true) : Keeps (execSpawn d a b fr join edge s) := by
  unfold execSpawn
  grind -ring -lia -linarith -ac -order [emitOp_wf, keeps_next]

theorem execJoin_wf (d : VReg) (a : VReg) (s : State) (h0 : Memory.wf s.mem = true) : Keeps (execJoin d a s) := by
  unfold execJoin
  grind -ring -lia -linarith -ac -order [State.joinLanes_wf, State.markEmpty_wf, raise_wf, keeps_next]

theorem execJoinDecrement_wf (k : Nat) (s : State) (h0 : Memory.wf s.mem = true) : Keeps (execJoinDecrement k s) := by
  unfold execJoinDecrement
  grind -ring -lia -linarith -ac -order [foldl_wf, State.decJoin_wf, keeps_next]

theorem execEmit_wf (d : VReg) (a : VReg) (b : VReg) (fr : Bool) (join : BitVec 12) (edge : BitVec 10) (s : State) (h0 : Memory.wf s.mem = true) : Keeps (execEmit d a b fr join edge s) := by
  unfold execEmit
  grind -ring -lia -linarith -ac -order [emitOp_wf, keeps_next]

theorem mmaOp_wf (zero : Bool) (d : VReg) (a : VReg) (b : UReg) (tile : BitVec 4) (s : State) (h0 : Memory.wf s.mem = true) : Keeps (mmaOp zero d a b tile s) := by
  unfold mmaOp
  grind -ring -lia -linarith -ac -order [State.queueMop_wf, raise_wf, keeps_next]

theorem execAccvt_wf (d : VReg) (a : UReg) (b : VReg) (tile : BitVec 4) (s : State) (h0 : Memory.wf s.mem = true) : Keeps (execAccvt d a b tile s) := by
  unfold execAccvt
  grind -ring -lia -linarith -ac -order [State.queueMop_wf, raise_wf, stall_wf, keeps_next]

theorem execAcld_wf (d : VReg) (a : UReg) (tr : Bool) (tile : BitVec 4) (s : State) (h0 : Memory.wf s.mem = true) : Keeps (execAcld d a tr tile s) := by
  unfold execAcld
  grind -ring -lia -linarith -ac -order [State.queueMop_wf, raise_wf, keeps_next]

theorem execAcst_wf (d : VReg) (a : UReg) (tr : Bool) (tile : BitVec 4) (s : State) (h0 : Memory.wf s.mem = true) : Keeps (execAcst d a tr tile s) := by
  unfold execAcst
  grind -ring -lia -linarith -ac -order [State.queueMop_wf, raise_wf, keeps_next]

theorem execAccumulatorOpComplete_wf (core : Nat) (s : State) (h0 : Memory.wf s.mem = true) : Keeps (execAccumulatorOpComplete core s) := by
  unfold execAccumulatorOpComplete
  grind -ring -lia -linarith -ac -order [State.finishMop_wf, keeps_next]

theorem execMmaZ_wf (d : VReg) (a : VReg) (b : UReg) (tile : BitVec 4) (s : State) (h0 : Memory.wf s.mem = true) : Keeps (execMmaZ d a b tile s) := by
  unfold execMmaZ
  grind -ring -lia -linarith -ac -order [mmaOp_wf, keeps_next]

theorem execMmaStart_wf (core : Nat) (s : State) (h0 : Memory.wf s.mem = true) : Keeps (execMmaStart core s) := by
  unfold execMmaStart
  grind -ring -lia -linarith -ac -order [keeps_next]

theorem execMmaComplete_wf (core : Nat) (s : State) (h0 : Memory.wf s.mem = true) : Keeps (execMmaComplete core s) := by
  unfold execMmaComplete
  grind -ring -lia -linarith -ac -order [State.finishMop_wf, keeps_next]

theorem execAcz_wf (d : VReg) (tile : BitVec 4) (s : State) (h0 : Memory.wf s.mem = true) : Keeps (execAcz d tile s) := by
  unfold execAcz
  grind -ring -lia -linarith -ac -order [State.queueMop_wf, raise_wf, keeps_next]

theorem execMma_wf (d : VReg) (a : VReg) (b : UReg) (tile : BitVec 4) (s : State) (h0 : Memory.wf s.mem = true) : Keeps (execMma d a b tile s) := by
  unfold execMma
  grind -ring -lia -linarith -ac -order [mmaOp_wf, keeps_next]

theorem execActldComplete_wf (core : Nat) (s : State) (h0 : Memory.wf s.mem = true) : Keeps (execActldComplete core s) := by
  unfold execActldComplete
  grind -ring -lia -linarith -ac -order [State.runImg_wf, keeps_next]

theorem execAct_wf (d : VReg) (a : VReg) (tbl : BitVec 2) (s : State) (h0 : Memory.wf s.mem = true) : Keeps (execAct d a tbl s) := by
  unfold execAct
  grind -ring -lia -linarith -ac -order [late_wf, keeps_next]

theorem execMloadComplete_wf (core : Nat) (s : State) (h0 : Memory.wf s.mem = true) : Keeps (execMloadComplete core s) := by
  unfold execMloadComplete
  grind -ring -lia -linarith -ac -order [State.runImg_wf, keeps_next]

theorem execSmpldComplete_wf (core : Nat) (s : State) (h0 : Memory.wf s.mem = true) : Keeps (execSmpldComplete core s) := by
  unfold execSmpldComplete
  grind -ring -lia -linarith -ac -order [State.runImg_wf, keeps_next]

theorem imgOp_wf (kind : Nat) (slot : Nat) (d : VReg) (a : UReg) (s : State) (h0 : Memory.wf s.mem = true) : Keeps (imgOp kind slot d a s) := by
  unfold imgOp
  grind -ring -lia -linarith -ac -order [State.drain_wf, State.markEmpty_wf, State.setTeam_wf, raise_wf, keeps_next]

theorem execSmpld_wf (d : VReg) (a : UReg) (slot : BitVec 4) (s : State) (h0 : Memory.wf s.mem = true) : Keeps (execSmpld d a slot s) := by
  unfold execSmpld
  grind -ring -lia -linarith -ac -order [imgOp_wf, keeps_next]

theorem execMcall_wf (p3 : BitVec 6) (p2 : BitVec 6) (p1 : BitVec 6) (p0 : BitVec 6) (slot : BitVec 6) (s : State) (h0 : Memory.wf s.mem = true) : Keeps (execMcall p3 p2 p1 p0 slot s) := by
  unfold execMcall
  grind -ring -lia -linarith -ac -order [State.lanes_wf, State.setThL_wf, raise_wf, keeps_next]

theorem execActld_wf (d : VReg) (a : UReg) (s : State) (h0 : Memory.wf s.mem = true) : Keeps (execActld d a s) := by
  unfold execActld
  grind -ring -lia -linarith -ac -order [imgOp_wf, keeps_next]

theorem execMload_wf (d : VReg) (a : UReg) (slot : BitVec 6) (s : State) (h0 : Memory.wf s.mem = true) : Keeps (execMload d a slot s) := by
  unfold execMload
  grind -ring -lia -linarith -ac -order [imgOp_wf, keeps_next]

theorem caddyRead_wf (minor : Nat) (t : VReg) (a : VReg) (h : BitVec 4) (n : Nat → Nat) (s : State) (h0 : Memory.wf s.mem = true) : Keeps (caddyRead minor t a h n s) := by
  unfold caddyRead
  grind -ring -lia -linarith -ac -order [State.claim_wf, State.drain_wf, State.fenceFor_wf, State.lanes_wf, State.markEmpty_wf, State.sendCaddy_wf, raise_wf, keeps_next]

theorem execCld_wf (t : VReg) (a : VReg) (h : BitVec 4) (s : State) (h0 : Memory.wf s.mem = true) : Keeps (execCld t a h s) := by
  unfold execCld
  grind -ring -lia -linarith -ac -order [caddyRead_wf, keeps_next]

theorem caddyWrite_wf (minor : Nat) (t : VReg) (a : VReg) (h : BitVec 4) (s : State) (h0 : Memory.wf s.mem = true) : Keeps (caddyWrite minor t a h s) := by
  unfold caddyWrite
  grind -ring -lia -linarith -ac -order [State.bufferLanes_wf, State.claim_wf, State.drain_wf, State.fenceFor_wf, State.lanes_wf, State.putReg_wf, State.require_wf, State.sendCaddy_wf, State.settleFor_wf, raise_wf, keeps_next]

theorem execCprobe_wf (t : VReg) (a : VReg) (h : BitVec 4) (s : State) (h0 : Memory.wf s.mem = true) : Keeps (execCprobe t a h s) := by
  unfold execCprobe
  grind -ring -lia -linarith -ac -order [caddyRead_wf, keeps_next]

theorem execCaddyOperation_wf (k : Nat) (s : State) (h0 : Memory.wf s.mem = true) : Keeps (execCaddyOperation k s) := by
  unfold execCaddyOperation
  grind -ring -lia -linarith -ac -order [foldl_wf, State.performCaddy_wf, keeps_next]

theorem execCnext_wf (t : VReg) (a : VReg) (h : BitVec 4) (s : State) (h0 : Memory.wf s.mem = true) : Keeps (execCnext t a h s) := by
  unfold execCnext
  grind -ring -lia -linarith -ac -order [caddyRead_wf, keeps_next]

theorem execCst_wf (t : VReg) (a : VReg) (h : BitVec 4) (s : State) (h0 : Memory.wf s.mem = true) : Keeps (execCst t a h s) := by
  unfold execCst
  grind -ring -lia -linarith -ac -order [caddyWrite_wf, keeps_next]

theorem execCred_wf (t : VReg) (a : VReg) (h : BitVec 4) (s : State) (h0 : Memory.wf s.mem = true) : Keeps (execCred t a h s) := by
  unfold execCred
  grind -ring -lia -linarith -ac -order [caddyWrite_wf, keeps_next]

theorem execCopyQuery_wf (d : VReg) (clr : Bool) (ch : BitVec 4) (s : State) (h0 : Memory.wf s.mem = true) : Keeps (execCopyQuery d clr ch s) := by
  unfold execCopyQuery
  grind -ring -lia -linarith -ac -order [State.lanes_wf, State.setChan_wf, State.setP_wf, State.setV_wf, keeps_next]

theorem rowCopy_wf (scatter : Bool) (d : UReg) (a : UReg) (b : UReg) (w : RowCopyW) (s : State) (h0 : Memory.wf s.mem = true) : Keeps (rowCopy scatter d a b w s) := by
  unfold rowCopy
  grind -ring -lia -linarith -ac -order [State.copyRecs_wf, State.drain_wf, State.engRead_wf, State.queueCopy_wf, raise_wf, stall_wf, keeps_next]

theorem execCopyScatter_wf (d : UReg) (a : UReg) (b : UReg) (w : RowCopyW) (s : State) (h0 : Memory.wf s.mem = true) : Keeps (execCopyScatter d a b w s) := by
  unfold execCopyScatter
  grind -ring -lia -linarith -ac -order [rowCopy_wf, keeps_next]

theorem execTstclr_wf (d : VReg) (mask : BitVec 4) (s : State) (h0 : Memory.wf s.mem = true) : Keeps (execTstclr d mask s) := by
  unfold execTstclr
  grind -ring -lia -linarith -ac -order [State.lanes_wf, State.setTeam_wf, State.setV_wf, keeps_next]

theorem execCopyGather_wf (d : UReg) (a : UReg) (b : UReg) (w : RowCopyW) (s : State) (h0 : Memory.wf s.mem = true) : Keeps (execCopyGather d a b w s) := by
  unfold execCopyGather
  grind -ring -lia -linarith -ac -order [rowCopy_wf, keeps_next]

theorem execCopyDelivery_wf (u : Nat) (ch : Nat) (s : State) (h0 : Memory.wf s.mem = true) : Keeps (execCopyDelivery u ch s) := by
  unfold execCopyDelivery
  grind -ring -lia -linarith -ac -order [State.deliverCopy_wf, State.walkAhead_wf, keeps_next]

theorem execCopy_wf (d : UReg) (a : UReg) (b : UReg) (w : CopyW) (s : State) (h0 : Memory.wf s.mem = true) : Keeps (execCopy d a b w s) := by
  unfold execCopy
  grind -ring -lia -linarith -ac -order [State.copyRecs_wf, State.drain_wf, State.fenceFor_wf, State.queueCopy_wf, raise_wf, stall_wf, keeps_next]

theorem execCopyWait_wf (d : VReg) (a : UReg) (ch : BitVec 4) (s : State) (h0 : Memory.wf s.mem = true) : Keeps (execCopyWait d a ch s) := by
  unfold execCopyWait
  grind -ring -lia -linarith -ac -order [State.lanes_wf, State.setP_wf, stall_wf, keeps_next]

theorem execCopyStart_wf (u : Nat) (ch : Nat) (s : State) (h0 : Memory.wf s.mem = true) : Keeps (execCopyStart u ch s) := by
  unfold execCopyStart
  grind -ring -lia -linarith -ac -order [State.setCopyHead_wf, keeps_next]

theorem execPrefetch_wf (a : UReg) (s : State) (h0 : Memory.wf s.mem = true) : Keeps (execPrefetch a s) := by
  unfold execPrefetch
  grind -ring -lia -linarith -ac -order [State.aheadTrec_wf, State.drain_wf, State.readTrec_wf, raise_wf, keeps_next]

theorem execCisternAddition_wf (k : Nat) (s : State) (h0 : Memory.wf s.mem = true) : Keeps (execCisternAddition k s) := by
  unfold execCisternAddition
  grind -ring -lia -linarith -ac -order [foldl_wf, State.cisArrive_wf, keeps_next]

theorem execCflush_wf (s : State) (h0 : Memory.wf s.mem = true) : Keeps (execCflush s) := by
  unfold execCflush
  grind -ring -lia -linarith -ac -order [State.drain_wf, State.lanes_wf, State.mwaitFor_wf, keeps_next]

theorem execRedF32_wf (t : VReg) (a : VReg) (scope : BitVec 4) (w : BitVec 2) (s : State) (h0 : Memory.wf s.mem = true) : Keeps (execRedF32 t a scope w s) := by
  unfold execRedF32
  grind -ring -lia -linarith -ac -order [foldl_wf, State.bufferRed_wf, State.drain_wf, State.noteAll_wf, State.sendRed_wf, raise_wf, keeps_next]

theorem execCflushDone_wf (u : Nat) (t : Nat) (s : State) (h0 : Memory.wf s.mem = true) : Keeps (execCflushDone u t s) := by
  unfold execCflushDone
  grind -ring -lia -linarith -ac -order [foldl_wf, State.cisEvict_wf, State.finishWait_wf, State.flushBufs_wf, keeps_next]

theorem execStrainerJobStart_wf (die : Nat) (s : State) (h0 : Memory.wf s.mem = true) : Keeps (execStrainerJobStart die s) := by
  unfold execStrainerJobStart
  grind -ring -lia -linarith -ac -order [keeps_next]

theorem execRouteComplete_wf (k : Nat) (s : State) (h0 : Memory.wf s.mem = true) : Keeps (execRouteComplete k s) := by
  unfold execRouteComplete
  grind -ring -lia -linarith -ac -order [State.finish_wf, State.routeEnd_wf, State.routeGo_wf, keeps_next]

theorem execRoute_wf (d : VReg) (a : UReg) (s : State) (h0 : Memory.wf s.mem = true) : Keeps (execRoute d a s) := by
  unfold execRoute
  grind -ring -lia -linarith -ac -order [State.descCheck_wf, State.drain_wf, State.markEmpty_wf, raise_wf, stall_wf, keeps_next]

theorem execStrainerJobDone_wf (die : Nat) (s : State) (h0 : Memory.wf s.mem = true) : Keeps (execStrainerJobDone die s) := by
  unfold execStrainerJobDone
  grind -ring -lia -linarith -ac -order [State.finish_wf, State.runSort_wf, keeps_next]

theorem execSort_wf (a : UReg) (b : UReg) (scope : BitVec 4) (s : State) (h0 : Memory.wf s.mem = true) : Keeps (execSort a b scope s) := by
  unfold execSort
  grind -ring -lia -linarith -ac -order [State.descCheck_wf, State.drain_wf, raise_wf, stall_wf, keeps_next]

theorem collOp_wf (minor : Nat) (a : UReg) (b : UReg) (scope : BitVec 4) (s : State) (h0 : Memory.wf s.mem = true) : Keeps (collOp minor a b scope s) := by
  unfold collOp
  grind -ring -lia -linarith -ac -order [State.descCheck_wf, State.drain_wf, State.startColl_wf, raise_wf, stall_wf, keeps_next]

theorem execCollAllred_wf (a : UReg) (b : UReg) (scope : BitVec 4) (s : State) (h0 : Memory.wf s.mem = true) : Keeps (execCollAllred a b scope s) := by
  unfold execCollAllred
  grind -ring -lia -linarith -ac -order [collOp_wf, keeps_next]

theorem execCollectiveChunk_wf (k : Nat) (s : State) (h0 : Memory.wf s.mem = true) : Keeps (execCollectiveChunk k s) := by
  unfold execCollectiveChunk
  grind -ring -lia -linarith -ac -order [State.landChunk_wf, State.refuseChunk_wf, State.setColl_wf, keeps_next]

theorem execChunkRefusal_wf (k : Nat) (s : State) (h0 : Memory.wf s.mem = true) : Keeps (execChunkRefusal k s) := by
  unfold execChunkRefusal
  grind -ring -lia -linarith -ac -order [State.chunkAgain_wf, keeps_next]

theorem execCollComp_wf (a : UReg) (b : UReg) (scope : BitVec 4) (s : State) (h0 : Memory.wf s.mem = true) : Keeps (execCollComp a b scope s) := by
  unfold execCollComp
  grind -ring -lia -linarith -ac -order [collOp_wf, keeps_next]

theorem execCollReduce_wf (a : UReg) (b : UReg) (scope : BitVec 4) (s : State) (h0 : Memory.wf s.mem = true) : Keeps (execCollReduce a b scope s) := by
  unfold execCollReduce
  grind -ring -lia -linarith -ac -order [collOp_wf, keeps_next]

theorem execCollectiveTimeout_wf (k : Nat) (s : State) (h0 : Memory.wf s.mem = true) : Keeps (execCollectiveTimeout k s) := by
  unfold execCollectiveTimeout
  grind -ring -lia -linarith -ac -order [State.endColl_wf, keeps_next]

theorem execCollA2a_wf (a : UReg) (b : UReg) (scope : BitVec 4) (s : State) (h0 : Memory.wf s.mem = true) : Keeps (execCollA2a a b scope s) := by
  unfold execCollA2a
  grind -ring -lia -linarith -ac -order [collOp_wf, keeps_next]

theorem execDispCtlWrite_wf (head : Nat) (v : BitVec 32) (s : State) (h0 : Memory.wf s.mem = true) : Keeps (execDispCtlWrite head v s) := by
  unfold execDispCtlWrite
  grind -ring -lia -linarith -ac -order [State.writeDispCtl_wf, keeps_next]

theorem execPresentComplete_wf (head : Nat) (s : State) (h0 : Memory.wf s.mem = true) : Keeps (execPresentComplete head s) := by
  unfold execPresentComplete
  grind -ring -lia -linarith -ac -order [State.encode_wf, State.endPres_wf, State.latch_wf, keeps_next]

theorem execPres_wf (a : UReg) (b : UReg) (wscope : BitVec 4) (enc : Bool) (scan : Bool) (head : BitVec 3) (s : State) (h0 : Memory.wf s.mem = true) : Keeps (execPres a b wscope enc scan head s) := by
  unfold execPres
  grind -ring -lia -linarith -ac -order [State.descCheck_wf, State.drain_wf, State.setHead_wf, raise_wf, stall_wf, keeps_next]

theorem execDisplayportLinkTraining_wf (head : Nat) (width : Nat) (height : Nat) (s : State) (h0 : Memory.wf s.mem = true) : Keeps (execDisplayportLinkTraining head width height s) := by
  unfold execDisplayportLinkTraining
  grind -ring -lia -linarith -ac -order [State.setHead_wf, keeps_next]

theorem execVerticalBlank_wf (head : Nat) (s : State) (h0 : Memory.wf s.mem = true) : Keeps (execVerticalBlank head s) := by
  unfold execVerticalBlank
  grind -ring -lia -linarith -ac -order [State.latch_wf, keeps_next]

theorem execRemoteResponse_wf (k : Nat) (s : State) (h0 : Memory.wf s.mem = true) : Keeps (execRemoteResponse k s) := by
  unfold execRemoteResponse
  grind -ring -lia -linarith -ac -order [State.settle_wf, keeps_next]

theorem execRemoteRequest_wf (k : Nat) (s : State) (h0 : Memory.wf s.mem = true) : Keeps (execRemoteRequest k s) := by
  unfold execRemoteRequest
  grind -ring -lia -linarith -ac -order [State.serve_wf, keeps_next]

theorem execRemoteTimeout_wf (tag : Nat) (s : State) (h0 : Memory.wf s.mem = true) : Keeps (execRemoteTimeout tag s) := by
  unfold execRemoteTimeout
  grind -ring -lia -linarith -ac -order [State.settle_wf, keeps_next]

theorem execSlotMarker_wf (plane : Nat) (onTime : Bool) (s : State) (h0 : Memory.wf s.mem = true) : Keeps (execSlotMarker plane onTime s) := by
  exact ⟨_, rfl, h0⟩

theorem execSlotFrameReceive_wf (plane : Nat) (f : Frame) (s : State) (h0 : Memory.wf s.mem = true) : Keeps (execSlotFrameReceive plane f s) := by
  unfold execSlotFrameReceive
  grind -ring -lia -linarith -ac -order [foldl_wf, State.countFab_wf, State.receive_wf, State.relayAll_wf, State.unsend_wf, keeps_next]

theorem execFabricCtlWrite_wf (v : BitVec 32) (s : State) (h0 : Memory.wf s.mem = true) : Keeps (execFabricCtlWrite v s) := by
  unfold execFabricCtlWrite
  grind -ring -lia -linarith -ac -order [State.writeFabricCtl_wf, keeps_next]

theorem execAcknowledgment_wf (k : Nat) (s : State) (h0 : Memory.wf s.mem = true) : Keeps (execAcknowledgment k s) := by
  unfold execAcknowledgment
  split
  · exact ⟨_, rfl, h0⟩
  · exact ⟨_, rfl, ite_wf _ _ _ rfl h0 h0⟩

theorem execRemoteRefusal_wf (k : Nat) (s : State) (h0 : Memory.wf s.mem = true) : Keeps (execRemoteRefusal k s) := by
  unfold execRemoteRefusal
  grind -ring -lia -linarith -ac -order [State.settle_wf, keeps_next]

theorem execSlotStart_wf (plane : Nat) (s : State) (h0 : Memory.wf s.mem = true) : Keeps (execSlotStart plane s) := by
  unfold execSlotStart
  grind -ring -lia -linarith -ac -order [State.sendFrame_wf, State.setPlane_wf, keeps_next]

theorem execLaunchEntry_wf (slice : Nat) (queue : Nat) (s : State) (h0 : Memory.wf s.mem = true) : Keeps (execLaunchEntry slice queue s) := by
  unfold execLaunchEntry
  grind -ring -lia -linarith -ac -order [State.checkEntry_wf, State.finishLaunch_wf, State.ringEntry_wf, State.setLaunch_wf, State.setSys_wf, keeps_next]

theorem execLaunchEnd_wf (l : Nat) (s : State) (h0 : Memory.wf s.mem = true) : Keeps (execLaunchEnd l s) := by
  unfold execLaunchEnd
  grind -ring -lia -linarith -ac -order [State.finishLaunch_wf, State.publishSlice_wf, keeps_next]

theorem execLqCtlWrite_wf (inst : Nat) (v : BitVec 32) (s : State) (h0 : Memory.wf s.mem = true) : Keeps (execLqCtlWrite inst v s) := by
  unfold execLqCtlWrite
  grind -ring -lia -linarith -ac -order [State.writeLqCtl_wf, keeps_next]

theorem execLqDoorbell_wf (inst : Nat) (v : BitVec 32) (s : State) (h0 : Memory.wf s.mem = true) : Keeps (execLqDoorbell inst v s) := by
  unfold execLqDoorbell
  grind -ring -lia -linarith -ac -order [State.doorbell_wf, keeps_next]

theorem execSplat_wf (d : VReg) (a : VReg) (b : VReg) (s : State) (h0 : Memory.wf s.mem = true) : Keeps (execSplat d a b s) := by
  unfold execSplat
  grind -ring -lia -linarith -ac -order [State.lanes_wf, State.setV_wf, keeps_next]

theorem execBlend_wf (d : VReg) (a : VReg) (b : VReg) (s : State) (h0 : Memory.wf s.mem = true) : Keeps (execBlend d a b s) := by
  unfold execBlend
  grind -ring -lia -linarith -ac -order [foldl_wf, State.lanes_wf, State.setV_wf, keeps_next]

theorem execBlendBwd_wf (d : VReg) (a : VReg) (b : VReg) (s : State) (h0 : Memory.wf s.mem = true) : Keeps (execBlendBwd d a b s) := by
  unfold execBlendBwd
  grind -ring -lia -linarith -ac -order [foldl_wf, State.lanes_wf, State.setV_wf, keeps_next]

theorem execSproj_wf (d : VReg) (a : VReg) (b : VReg) (s : State) (h0 : Memory.wf s.mem = true) : Keeps (execSproj d a b s) := by
  unfold execSproj
  grind -ring -lia -linarith -ac -order [State.lanes_wf, State.setP_wf, keeps_next]

theorem execTrace_wf (a : VReg) (b : UReg) (w : TraceW) (s : State) (h0 : Memory.wf s.mem = true) : Keeps (execTrace a b w s) := by
  unfold execTrace
  grind -ring -lia -linarith -ac -order [State.descCheck_wf, State.lanes_wf, State.startTrav_wf, raise_wf, stall_wf, keeps_next]

theorem execTrres_wf (d : VReg) (sel : Bool) (s : State) (h0 : Memory.wf s.mem = true) : Keeps (execTrres d sel s) := by
  unfold execTrres
  grind -ring -lia -linarith -ac -order [State.awaitTrav_wf, State.lanes_wf, State.markEmpty_wf, State.setThL_wf, State.travAhead_wf, raise_wf, stall_wf, keeps_next]

theorem execTravNodeueClear_wf (core : Nat) (v : BitVec 64) (s : State) (h0 : Memory.wf s.mem = true) : Keeps (execTravNodeueClear core v s) := by
  unfold execTravNodeueClear
  grind -ring -lia -linarith -ac -order [State.writeNodeue_wf, keeps_next]

theorem execTraversalNodeVisit_wf (u : Nat) (t : Nat) (s : State) (h0 : Memory.wf s.mem = true) : Keeps (execTraversalNodeVisit u t s) := by
  unfold execTraversalNodeVisit
  grind -ring -lia -linarith -ac -order [State.visitNode_wf, keeps_next]

theorem execPhaseFlushPoint_wf (l : Nat) (s : State) (h0 : Memory.wf s.mem = true) : Keeps (execPhaseFlushPoint l s) := by
  unfold execPhaseFlushPoint
  grind -ring -lia -linarith -ac -order [State.flushBufs_wf, State.nextPhase_wf, State.publishSlice_wf, keeps_next]

theorem execAgingQuantum_wf (l : Nat) (s : State) (h0 : Memory.wf s.mem = true) : Keeps (execAgingQuantum l s) := by
  unfold execAgingQuantum
  grind -ring -lia -linarith -ac -order [State.setLaunch_wf, keeps_next]

theorem execKettleCtxswSave_wf (slice : Nat) (s : State) (h0 : Memory.wf s.mem = true) : Keeps (execKettleCtxswSave slice s) := by
  unfold execKettleCtxswSave
  grind -ring -lia -linarith -ac -order [State.writeCtxsw_wf, keeps_next]

theorem execKettleCtxswRestore_wf (slice : Nat) (s : State) (h0 : Memory.wf s.mem = true) : Keeps (execKettleCtxswRestore slice s) := by
  unfold execKettleCtxswRestore
  grind -ring -lia -linarith -ac -order [State.writeCtxsw_wf, keeps_next]

theorem execCtxswSaveDone_wf (slice : Nat) (s : State) (h0 : Memory.wf s.mem = true) : Keeps (execCtxswSaveDone slice s) := by
  unfold execCtxswSaveDone
  grind -ring -lia -linarith -ac -order [State.clrSysBit_wf, State.physPut_wf, State.setSysBit_wf, keeps_next]

theorem execTeamPlacement_wf (slice : Nat) (s : State) (h0 : Memory.wf s.mem = true) : Keeps (execTeamPlacement slice s) := by
  unfold execTeamPlacement
  grind -ring -lia -linarith -ac -order [State.placeCand_wf, State.preemptFor_wf, keeps_next]

theorem execPreemptionWaitEnd_wf (u : Nat) (s : State) (h0 : Memory.wf s.mem = true) : Keeps (execPreemptionWaitEnd u s) := by
  unfold execPreemptionWaitEnd
  grind -ring -lia -linarith -ac -order [State.decide_wf, State.publish_wf, State.takeOff_wf, keeps_next]

theorem execSampleJob_wf (k : Nat) (s : State) (h0 : Memory.wf s.mem = true) : Keeps (execSampleJob k s) := by
  unfold execSampleJob
  grind -ring -lia -linarith -ac -order [State.engineDone_wf, State.fillRegs_wf, State.sampleLane_wf, State.suspend_wf, keeps_next]

theorem execSample_wf (d : VReg) (a : VReg) (b : UReg) (slot : BitVec 4) (s : State) (h0 : Memory.wf s.mem = true) : Keeps (execSample d a b slot s) := by
  unfold execSample
  grind -ring -lia -linarith -ac -order [State.descCheck_wf, State.markEmpty_wf, raise_wf, keeps_next]

theorem execRastFlush_wf (d : VReg) (s : State) (h0 : Memory.wf s.mem = true) : Keeps (execRastFlush d s) := by
  unfold execRastFlush
  grind -ring -lia -linarith -ac -order [State.markEmpty_wf, keeps_next]

theorem execRasteriseTriangle_wf (die : Nat) (s : State) (h0 : Memory.wf s.mem = true) : Keeps (execRasteriseTriangle die s) := by
  unfold execRasteriseTriangle
  dsimp only
  split
  · exact ⟨_, rfl, h0⟩
  · split
    · exact ⟨_, rfl, h0⟩
    · rename_i j hj
      split
      · exact ⟨_, rfl, State.drawnOne_wf _ _ h0⟩
      · rename_i t ht
        have hd := State.drawGo_wf s j t.orient ((t.orient.pixels j.target).drop j.pix) j.pix h0
        split
        · rename_i e; rw [e] at hd; exact ⟨_, rfl, State.drawnOne_wf _ _ hd⟩
        · rename_i e; rw [e] at hd; exact ⟨_, rfl, State.suspend_wf _ _ _ _ _ _ _ _ hd⟩

theorem execRast_wf (d : VReg) (a : VReg) (b : UReg) (s : State) (h0 : Memory.wf s.mem = true) : Keeps (execRast d a b s) := by
  unfold execRast
  grind -ring -lia -linarith -ac -order [foldl_wf, State.descCheck_wf, State.readTris_wf, State.setV_wf, raise_wf, keeps_next]

theorem execXlatInvalAll_wf (slice : Nat) (s : State) (h0 : Memory.wf s.mem = true) : Keeps (execXlatInvalAll slice s) := by
  unfold execXlatInvalAll
  grind -ring -lia -linarith -ac -order [State.writeInval_wf, keeps_next]

theorem hostFault_wf (k : Nat) (cmd : Nat) (queue : Nat) (seq : BitVec 32) (s : State) (h0 : Memory.wf s.mem = true) : Keeps (hostFault k cmd queue seq s) := by
  unfold hostFault
  grind -ring -lia -linarith -ac -order [State.writeFault_wf, keeps_next]

theorem execResume_wf (slice : Nat) (seq : BitVec 32) (s : State) (h0 : Memory.wf s.mem = true) : Keeps (execResume slice seq s) := by
  unfold execResume
  grind -ring -lia -linarith -ac -order [hostFault_wf, keeps_next]

theorem execXlatInvalPage_wf (slice : Nat) (va : Nat) (s : State) (h0 : Memory.wf s.mem = true) : Keeps (execXlatInvalPage slice va s) := by
  unfold execXlatInvalPage
  grind -ring -lia -linarith -ac -order [State.writeInval_wf, keeps_next]

theorem execFstepAdjust_wf (watts : BitVec 16) (s : State) (h0 : Memory.wf s.mem = true) : Keeps (execFstepAdjust watts s) := by
  exact ⟨_, rfl, h0⟩

theorem execCtxswRestoreDone_wf (slice : Nat) (s : State) (h0 : Memory.wf s.mem = true) : Keeps (execCtxswRestoreDone slice s) := by
  unfold execCtxswRestoreDone
  grind -ring -lia -linarith -ac -order [foldl_wf, State.clrSysBit_wf, State.faultCmd_wf, State.fenceSlice_wf, keeps_next]

theorem execCxlLinkUp_wf (gib : Nat) (s : State) (h0 : Memory.wf s.mem = true) : Keeps (execCxlLinkUp gib s) := by
  exact ⟨_, rfl, h0⟩

theorem execFwMboxResult_wf (s : State) (h0 : Memory.wf s.mem = true) : Keeps (execFwMboxResult s) := by
  unfold execFwMboxResult
  grind -ring -lia -linarith -ac -order [State.fwPut_wf, keeps_next]

theorem execReset_wf (ok : Bool) (s : State) (h0 : Memory.wf s.mem = true) : Keeps (execReset ok s) := by
  exact ⟨_, rfl, h0⟩

theorem execHostLinkTraining_wf (width : Nat) (rate : Nat) (s : State) (h0 : Memory.wf s.mem = true) : Keeps (execHostLinkTraining width rate s) := by
  unfold execHostLinkTraining
  grind -ring -lia -linarith -ac -order [keeps_next]

theorem execSnapTrigger_wf (s : State) (h0 : Memory.wf s.mem = true) : Keeps (execSnapTrigger s) := by
  unfold execSnapTrigger
  grind -ring -lia -linarith -ac -order [State.trigger_wf, keeps_next]

theorem execSliceGroupWrite_wf (v : BitVec 32) (s : State) (h0 : Memory.wf s.mem = true) : Keeps (execSliceGroupWrite v s) := by
  unfold execSliceGroupWrite
  grind -ring -lia -linarith -ac -order [State.writeGroup_wf, keeps_next]

theorem execXlatInvalDone_wf (slice : Nat) (s : State) (h0 : Memory.wf s.mem = true) : Keeps (execXlatInvalDone slice s) := by
  unfold execXlatInvalDone
  grind -ring -lia -linarith -ac -order [State.clrSysBit_wf, keeps_next]

theorem execFwStage_wf (buf : Nat) (s : State) (h0 : Memory.wf s.mem = true) : Keeps (execFwStage buf s) := by
  unfold execFwStage
  grind -ring -lia -linarith -ac -order [State.writeMbox_wf, keeps_next]

theorem execCorrectedError_wf (die : Nat) (s : State) (h0 : Memory.wf s.mem = true) : Keeps (execCorrectedError die s) := by
  unfold execCorrectedError
  grind -ring -lia -linarith -ac -order [State.countErr_wf, keeps_next]

theorem execFaultqCtlWrite_wf (slice : Nat) (v : BitVec 32) (s : State) (h0 : Memory.wf s.mem = true) : Keeps (execFaultqCtlWrite slice v s) := by
  unfold execFaultqCtlWrite
  grind -ring -lia -linarith -ac -order [State.writeFaultqCtl_wf, keeps_next]

theorem execFwStatus_wf (buf : Nat) (s : State) (h0 : Memory.wf s.mem = true) : Keeps (execFwStatus buf s) := by
  unfold execFwStatus
  grind -ring -lia -linarith -ac -order [State.writeMbox_wf, keeps_next]

theorem execDieCarveWrite_wf (die : Nat) (v : BitVec 32) (s : State) (h0 : Memory.wf s.mem = true) : Keeps (execDieCarveWrite die v s) := by
  unfold execDieCarveWrite
  grind -ring -lia -linarith -ac -order [State.writeCarve_wf, keeps_next]

theorem execCxlLinkDown_wf (s : State) (h0 : Memory.wf s.mem = true) : Keeps (execCxlLinkDown s) := by
  unfold execCxlLinkDown
  grind -ring -lia -linarith -ac -order [foldl_wf, State.perform_wf, State.setSys_wf, keeps_next]

theorem execLinePoisoned_wf (line : Nat) (s : State) (h0 : Memory.wf s.mem = true) : Keeps (execLinePoisoned line s) := by
  unfold execLinePoisoned
  grind -ring -lia -linarith -ac -order [State.countErr_wf, keeps_next]

theorem execPowerCapWrite_wf (v : BitVec 32) (s : State) (h0 : Memory.wf s.mem = true) : Keeps (execPowerCapWrite v s) := by
  unfold execPowerCapWrite
  grind -ring -lia -linarith -ac -order [State.writePowerCap_wf, keeps_next]

theorem execAbortLaunchBySeq_wf (slice : Nat) (queue : BitVec 2) (seq : BitVec 32) (s : State) (h0 : Memory.wf s.mem = true) : Keeps (execAbortLaunchBySeq slice queue seq s) := by
  unfold execAbortLaunchBySeq
  grind -ring -lia -linarith -ac -order [hostFault_wf, keeps_next]

theorem execFwAttest_wf (buf : Nat) (s : State) (h0 : Memory.wf s.mem = true) : Keeps (execFwAttest buf s) := by
  unfold execFwAttest
  grind -ring -lia -linarith -ac -order [State.writeMbox_wf, keeps_next]

theorem execAbortLaunch_wf (slice : Nat) (seq : BitVec 32) (s : State) (h0 : Memory.wf s.mem = true) : Keeps (execAbortLaunch slice seq s) := by
  unfold execAbortLaunch
  grind -ring -lia -linarith -ac -order [hostFault_wf, keeps_next]

theorem execAbortOperation_wf (slice : Nat) (seq : BitVec 32) (s : State) (h0 : Memory.wf s.mem = true) : Keeps (execAbortOperation slice seq s) := by
  unfold execAbortOperation
  grind -ring -lia -linarith -ac -order [hostFault_wf, keeps_next]

theorem execResumeOperation_wf (slice : Nat) (seq : BitVec 32) (s : State) (h0 : Memory.wf s.mem = true) : Keeps (execResumeOperation slice seq s) := by
  unfold execResumeOperation
  grind -ring -lia -linarith -ac -order [hostFault_wf, keeps_next]

theorem execPrune_wf (d : VReg) (a : VReg) (b : VReg) (m : BitVec 6) (logn : BitVec 3) (s : State) (h0 : Memory.wf s.mem = true) : Keeps (execPrune d a b m logn s) := by
  unfold execPrune
  grind -ring -lia -linarith -ac -order [State.lanes_wf, State.setV_wf, keeps_next]

theorem uni_wf (f : Word → Word → Word) (d : UReg) (a : UReg) (o : Word) (s : State) (h0 : Memory.wf s.mem = true) : Keeps (uni f d a o s) := by
  exact ⟨_, rfl, h0⟩

theorem execUshrImm_wf (d : UReg) (a : UReg) (i : BitVec 9) (s : State) (h0 : Memory.wf s.mem = true) : Keeps (execUshrImm d a i s) := by
  exact ⟨_, rfl, h0⟩

theorem execUorImm_wf (d : UReg) (a : UReg) (i : BitVec 9) (s : State) (h0 : Memory.wf s.mem = true) : Keeps (execUorImm d a i s) := by
  exact ⟨_, rfl, h0⟩

theorem execUshl_wf (d : UReg) (a : UReg) (b : UReg) (s : State) (h0 : Memory.wf s.mem = true) : Keeps (execUshl d a b s) := by
  exact ⟨_, rfl, h0⟩

theorem laneOp_wf (f : Nat → Nat → Option Nat) (d : VReg) (a : VReg) (b : VReg) (s : State) (h0 : Memory.wf s.mem = true) : Keeps (laneOp f d a b s) := by
  unfold laneOp
  grind -ring -lia -linarith -ac -order [State.lanes_wf, State.setV_wf, keeps_next]

theorem execLaneFall_wf (d : VReg) (a : VReg) (b : VReg) (s : State) (h0 : Memory.wf s.mem = true) : Keeps (execLaneFall d a b s) := by
  unfold execLaneFall
  grind -ring -lia -linarith -ac -order [laneOp_wf, keeps_next]

theorem toAll_wf (x : Word) (d : VReg) (s : State) (h0 : Memory.wf s.mem = true) : Keeps (toAll x d s) := by
  unfold toAll
  grind -ring -lia -linarith -ac -order [State.lanes_wf, State.setV_wf, keeps_next]

theorem execFoldFaddF32_wf (d : VReg) (a : VReg) (s : State) (h0 : Memory.wf s.mem = true) : Keeps (execFoldFaddF32 d a s) := by
  unfold execFoldFaddF32
  grind -ring -lia -linarith -ac -order [toAll_wf, keeps_next]

theorem execLaneRise_wf (d : VReg) (a : VReg) (b : VReg) (s : State) (h0 : Memory.wf s.mem = true) : Keeps (execLaneRise d a b s) := by
  unfold execLaneRise
  grind -ring -lia -linarith -ac -order [laneOp_wf, keeps_next]

theorem execFoldAddI32_wf (d : VReg) (a : VReg) (s : State) (h0 : Memory.wf s.mem = true) : Keeps (execFoldAddI32 d a s) := by
  unfold execFoldAddI32
  grind -ring -lia -linarith -ac -order [toAll_wf, keeps_next]

theorem execLaneSwap_wf (d : VReg) (a : VReg) (b : VReg) (s : State) (h0 : Memory.wf s.mem = true) : Keeps (execLaneSwap d a b s) := by
  unfold execLaneSwap
  grind -ring -lia -linarith -ac -order [laneOp_wf, keeps_next]

theorem execPollEvery_wf (d : VReg) (a : VReg) (s : State) (h0 : Memory.wf s.mem = true) : Keeps (execPollEvery d a s) := by
  unfold execPollEvery
  grind -ring -lia -linarith -ac -order [toAll_wf, keeps_next]

theorem execUaddImm_wf (d : UReg) (a : UReg) (i : BitVec 9) (s : State) (h0 : Memory.wf s.mem = true) : Keeps (execUaddImm d a i s) := by
  exact ⟨_, rfl, h0⟩

theorem execStov_wf (d : VReg) (a : UReg) (s : State) (h0 : Memory.wf s.mem = true) : Keeps (execStov d a s) := by
  unfold execStov
  grind -ring -lia -linarith -ac -order [toAll_wf, keeps_next]

theorem execUmovImm_wf (d : UReg) (i : BitVec 9) (s : State) (h0 : Memory.wf s.mem = true) : Keeps (execUmovImm d i s) := by
  exact ⟨_, rfl, h0⟩

theorem execUandImm_wf (d : UReg) (a : UReg) (i : BitVec 9) (s : State) (h0 : Memory.wf s.mem = true) : Keeps (execUandImm d a i s) := by
  exact ⟨_, rfl, h0⟩

theorem execUor_wf (d : UReg) (a : UReg) (b : UReg) (s : State) (h0 : Memory.wf s.mem = true) : Keeps (execUor d a b s) := by
  exact ⟨_, rfl, h0⟩

theorem execPollMask_wf (d : VReg) (a : VReg) (s : State) (h0 : Memory.wf s.mem = true) : Keeps (execPollMask d a s) := by
  unfold execPollMask
  grind -ring -lia -linarith -ac -order [foldl_wf, toAll_wf, keeps_next]

theorem execIntersect_wf (d : VReg) (a : VReg) (b : VReg) (s : State) (h0 : Memory.wf s.mem = true) : Keeps (execIntersect d a b s) := by
  unfold execIntersect
  grind -ring -lia -linarith -ac -order [State.lanes_wf, State.setV_wf, keeps_next]

theorem execUand_wf (d : UReg) (a : UReg) (b : UReg) (s : State) (h0 : Memory.wf s.mem = true) : Keeps (execUand d a b s) := by
  exact ⟨_, rfl, h0⟩

theorem execFoldMaxI32_wf (d : VReg) (a : VReg) (s : State) (h0 : Memory.wf s.mem = true) : Keeps (execFoldMaxI32 d a s) := by
  unfold execFoldMaxI32
  grind -ring -lia -linarith -ac -order [toAll_wf, keeps_next]

theorem execBsort_wf (d : VReg) (a : UReg) (s : State) (h0 : Memory.wf s.mem = true) : Keeps (execBsort d a s) := by
  unfold execBsort
  grind -ring -lia -linarith -ac -order [foldl_wf, State.setV_wf, raise_wf, keeps_next]

theorem execUsubImm_wf (d : UReg) (a : UReg) (i : BitVec 9) (s : State) (h0 : Memory.wf s.mem = true) : Keeps (execUsubImm d a i s) := by
  exact ⟨_, rfl, h0⟩

theorem execUxorImm_wf (d : UReg) (a : UReg) (i : BitVec 9) (s : State) (h0 : Memory.wf s.mem = true) : Keeps (execUxorImm d a i s) := by
  exact ⟨_, rfl, h0⟩

theorem execUxor_wf (d : UReg) (a : UReg) (b : UReg) (s : State) (h0 : Memory.wf s.mem = true) : Keeps (execUxor d a b s) := by
  exact ⟨_, rfl, h0⟩

theorem execUmov_wf (d : UReg) (b : UReg) (s : State) (h0 : Memory.wf s.mem = true) : Keeps (execUmov d b s) := by
  exact ⟨_, rfl, h0⟩

theorem execUsub_wf (d : UReg) (a : UReg) (b : UReg) (s : State) (h0 : Memory.wf s.mem = true) : Keeps (execUsub d a b s) := by
  exact ⟨_, rfl, h0⟩

theorem execPollSome_wf (d : VReg) (a : VReg) (s : State) (h0 : Memory.wf s.mem = true) : Keeps (execPollSome d a s) := by
  unfold execPollSome
  grind -ring -lia -linarith -ac -order [toAll_wf, keeps_next]

theorem execFoldMinI32_wf (d : VReg) (a : VReg) (s : State) (h0 : Memory.wf s.mem = true) : Keeps (execFoldMinI32 d a s) := by
  unfold execFoldMinI32
  grind -ring -lia -linarith -ac -order [toAll_wf, keeps_next]

theorem execScanAddI32_wf (d : VReg) (a : VReg) (s : State) (h0 : Memory.wf s.mem = true) : Keeps (execScanAddI32 d a s) := by
  unfold execScanAddI32
  grind -ring -lia -linarith -ac -order [foldl_wf, State.lanes_wf, State.setV_wf, keeps_next]

theorem execLanePick_wf (d : VReg) (a : VReg) (b : VReg) (s : State) (h0 : Memory.wf s.mem = true) : Keeps (execLanePick d a b s) := by
  unfold execLanePick
  grind -ring -lia -linarith -ac -order [laneOp_wf, keeps_next]

theorem execUshlImm_wf (d : UReg) (a : UReg) (i : BitVec 9) (s : State) (h0 : Memory.wf s.mem = true) : Keeps (execUshlImm d a i s) := by
  exact ⟨_, rfl, h0⟩

theorem execUadd_wf (d : UReg) (a : UReg) (b : UReg) (s : State) (h0 : Memory.wf s.mem = true) : Keeps (execUadd d a b s) := by
  exact ⟨_, rfl, h0⟩

theorem execVtos_wf (d : UReg) (a : VReg) (s : State) (h0 : Memory.wf s.mem = true) : Keeps (execVtos d a s) := by
  exact ⟨_, rfl, h0⟩

theorem execUshr_wf (d : UReg) (a : UReg) (b : UReg) (s : State) (h0 : Memory.wf s.mem = true) : Keeps (execUshr d a b s) := by
  exact ⟨_, rfl, h0⟩

theorem execRdsys_wf (d : VReg) (w64 : Bool) (sreg : BitVec 16) (s : State) (h0 : Memory.wf s.mem = true) : Keeps (execRdsys d w64 sreg s) := by
  unfold execRdsys
  grind -ring -lia -linarith -ac -order [State.lanes_wf, State.setP_wf, State.setV_wf, raise_wf, keeps_next]

theorem execSysregWrite_wf (sreg : BitVec 16) (v : BitVec 64) (s : State) (h0 : Memory.wf s.mem = true) : Keeps (execSysregWrite sreg v s) := by
  unfold execSysregWrite
  grind -ring -lia -linarith -ac -order [State.writeSys_wf, keeps_next]

theorem execWrsys_wf (a : VReg) (w64 : Bool) (sreg : BitVec 16) (s : State) (h0 : Memory.wf s.mem = true) : Keeps (execWrsys a w64 sreg s) := by
  unfold execWrsys
  grind -ring -lia -linarith -ac -order [State.lanes_wf, State.wrsysVal_wf, raise_wf, stall_wf, keeps_next]

end Sys2Proof.Machine
end

