-- ==== Sys2Proof/Laws/NMap.lean ====
section
/-!
SUPPORT. The laws of the finite maps: what a put changes and what it leaves alone. They hold of every list.
-/

namespace Sys2Proof.Machine

variable {α : Type}

@[simp] theorem NMap.get_put_same (d : α) (m : NMap α) (k : Nat) (x : α) : NMap.get d (NMap.put m k x) k = x := by
  induction m with
  | nil => simp [NMap.put, NMap.get]
  | cons e m ih =>
    obtain ⟨k', y⟩ := e
    simp only [NMap.put]
    split
    · simp [NMap.get]
    · split
      · simp [NMap.get]
      · simp [NMap.get, *]

@[simp] theorem NMap.get_put_other (d : α) (m : NMap α) {k j : Nat} (x : α) (h : j ≠ k) :
    NMap.get d (NMap.put m k x) j = NMap.get d m j := by
  induction m with
  | nil => simp [NMap.put, NMap.get, h]
  | cons e m ih =>
    obtain ⟨k', y⟩ := e
    simp only [NMap.put]
    split
    · subst k'; simp [NMap.get, h]
    · split
      · have q : ¬ k' < k := by omega
        by_cases hj : j < k
        · have : j ≠ k' := by omega
          have : j < k' := by omega
          simp [NMap.get, *]
        · simp [NMap.get, h, hj]
      · simp only [NMap.get]; rw [ih]

theorem NMap.get_put (d : α) (m : NMap α) (k j : Nat) (x : α) :
    NMap.get d (NMap.put m k x) j = if j = k then x else NMap.get d m j := by
  by_cases h : j = k
  · subst h; simp
  · simp [h]

/-- A map read after the same put at each key of a list. -/
theorem NMap.get_puts {β : Type} (d : α) (key : β → Nat) (f : β → α) (l : List β) (m : NMap α) (j : Nat)
    (h : ∀ b ∈ l, j ≠ key b) : NMap.get d (l.foldl (fun m b => NMap.put m (key b) (f b)) m) j = NMap.get d m j := by
  induction l generalizing m with
  | nil => rfl
  | cons b l ih =>
    simp only [List.foldl_cons]
    rw [ih _ (fun b' hb => h b' (List.mem_cons_of_mem _ hb)), NMap.get_put_other _ _ _ (h b (by simp))]

/-- A map read, after a put at each key of a list, at the key of one of them. -/
theorem NMap.get_puts_mem {β : Type} (d : α) (key : β → Nat) (f : β → α) (l : List β) (m : NMap α) (b : β) (hb : b ∈ l)
    (h : ∀ b' ∈ l, key b' = key b → f b' = f b) :
    NMap.get d (l.foldl (fun m b => NMap.put m (key b) (f b)) m) (key b) = f b := by
  induction l generalizing m with
  | nil => cases hb
  | cons c l ih =>
    simp only [List.foldl_cons]
    by_cases hc : ∃ b' ∈ l, key b' = key b
    · obtain ⟨b', hb', e⟩ := hc
      have hf : f b' = f b := h b' (List.mem_cons_of_mem _ hb') e
      have := ih (NMap.put m (key c) (f c))
      by_cases hm : b ∈ l
      · exact this hm (fun x hx => h x (List.mem_cons_of_mem _ hx))
      · clear this
        have key' : ∀ (l : List β) (m : NMap α), (∀ x ∈ l, key x = key b → f x = f b) → (∃ x ∈ l, key x = key b) →
            NMap.get d (l.foldl (fun m b => NMap.put m (key b) (f b)) m) (key b) = f b := by
          intro l
          induction l with
          | nil => rintro m _ ⟨x, hx, _⟩; cases hx
          | cons y l ihl =>
            rintro m hall ⟨x, hx, ex⟩
            simp only [List.foldl_cons]
            by_cases hy : ∃ x ∈ l, key x = key b
            · exact ihl _ (fun z hz => hall z (List.mem_cons_of_mem _ hz)) hy
            · rw [NMap.get_puts _ _ _ _ _ _ (fun z hz e => hy ⟨z, hz, e.symm⟩)]
              have : x = y := by
                rcases List.mem_cons.1 hx with q | q
                · exact q
                · exact absurd ⟨x, q, ex⟩ hy
              subst this
              rw [← ex, NMap.get_put_same, hall x (by simp) ex]
        exact key' l _ (fun x hx => h x (List.mem_cons_of_mem _ hx)) ⟨b', hb', e⟩
    · have hm : b ∉ l := fun q => hc ⟨b, q, rfl⟩
      have : b = c := by
        rcases List.mem_cons.1 hb with q | q
        · exact q
        · exact absurd q hm
      subst this
      rw [NMap.get_puts _ _ _ _ _ _ (fun z hz e => hc ⟨z, hz, e.symm⟩), NMap.get_put_same]

end Sys2Proof.Machine
end

