-- ==== Sys2Proof/Laws/Lanes.lean ====
section
/-!
SUPPORT. What an instruction that runs once for each active lane does: the registers it writes, and that it writes no others.
-/

namespace Sys2Proof.Machine

open Sys2Proof

/-- A run of puts. -/
def NMap.puts {α : Type} (m : NMap α) (ps : List (Nat × α)) : NMap α := ps.foldl (fun m p => NMap.put m p.1 p.2) m

theorem NMap.puts_append {α : Type} (m : NMap α) (ps qs : List (Nat × α)) :
    NMap.puts m (ps ++ qs) = NMap.puts (NMap.puts m ps) qs := List.foldl_append ..

theorem NMap.get_of_puts {α : Type} (d : α) (m : NMap α) (ps : List (Nat × α)) (p : Nat × α) (hp : p ∈ ps)
    (h : ∀ q ∈ ps, q.1 = p.1 → q.2 = p.2) : NMap.get d (NMap.puts m ps) p.1 = p.2 :=
  NMap.get_puts_mem d Prod.fst Prod.snd ps m p hp h

theorem NMap.get_off_puts {α : Type} (d : α) (m : NMap α) (ps : List (Nat × α)) (k : Nat) (h : ∀ q ∈ ps, k ≠ q.1) :
    NMap.get d (NMap.puts m ps) k = NMap.get d m k :=
  NMap.get_puts d Prod.fst Prod.snd ps m k h

/-- Two registers of threads of one team have one key only if they are the same. -/
theorem vkey_inj {u t t' r r' : Nat} (hr : r < 64) (hr' : r' < 64) (h : vkey u t r = vkey u t' r') : t = t' ∧ r = r' := by
  unfold vkey tkey at h; omega

theorem cckey_inj {u t t' c c' : Nat} (hr : c < 4) (hr' : c' < 4) (h : cckey u t c = cckey u t' c') : t = t' ∧ c = c' := by
  unfold cckey tkey at h; omega

theorem tOf_inj {s : State} {l l' : Nat} (h : s.tOf l = s.tOf l') : l = l' := by unfold State.tOf at h; omega

/-- A fold that only puts vector registers. -/
theorem foldl_puts (s : State) (L : List Nat) (body : State → Nat → State) (ps : Nat → List (Nat × Word))
    (h : ∀ m l, body { s with v := m } l = { s with v := NMap.puts m (ps l) }) (m : NMap Word) :
    L.foldl body { s with v := m } = { s with v := NMap.puts m (L.flatMap ps) } := by
  induction L generalizing m with
  | nil => rfl
  | cons l L ih => rw [List.foldl_cons, h, ih, List.flatMap_cons, NMap.puts_append]

/-- A fold that only puts vector registers and condition-code sets. -/
theorem foldl_puts_cc (s : State) (L : List Nat) (body : State → Nat → State) (ps : Nat → List (Nat × Word))
    (cs : Nat → List (Nat × BitVec 4))
    (h : ∀ m n l, body { s with v := m, cc := n } l = { s with v := NMap.puts m (ps l), cc := NMap.puts n (cs l) })
    (m : NMap Word) (n : NMap (BitVec 4)) :
    L.foldl body { s with v := m, cc := n }
      = { s with v := NMap.puts m (L.flatMap ps), cc := NMap.puts n (L.flatMap cs) } := by
  induction L generalizing m n with
  | nil => rfl
  | cons l L ih => rw [List.foldl_cons, h, ih, List.flatMap_cons, List.flatMap_cons, NMap.puts_append, NMap.puts_append]

/-- A fold that only puts condition-code sets. -/
theorem foldl_ccs (s : State) (L : List Nat) (body : State → Nat → State) (cs : Nat → List (Nat × BitVec 4))
    (h : ∀ n l, body { s with cc := n } l = { s with cc := NMap.puts n (cs l) }) (n : NMap (BitVec 4)) :
    L.foldl body { s with cc := n } = { s with cc := NMap.puts n (L.flatMap cs) } := by
  induction L generalizing n with
  | nil => rfl
  | cons l L ih => rw [List.foldl_cons, h, ih, List.flatMap_cons, NMap.puts_append]

/-- The puts of registers d to d + n − 1 of one lane. -/
def State.lanePuts (s : State) (d n : Nat) (f : Nat → Nat → Word) (l : Nat) : List (Nat × Word) :=
  (List.range n).map fun j => (vkey s.iss.uid (s.tOf l) (d + j), f l j)

theorem putsIn_of (s : State) (d n : Nat) (f : Nat → Nat → Word) (hd : d + n ≤ 64) (t : State)
    (h : t.v = NMap.puts s.v (s.iss.lanes.flatMap (s.lanePuts d n f))) : PutsIn s d n f t := by
  constructor
  · intro l hl j hj
    unfold State.vAt
    rw [h]
    refine NMap.get_of_puts 0 s.v _ (vkey s.iss.uid (s.tOf l) (d + j), f l j) ?_ ?_
    · simp only [List.mem_flatMap, State.lanePuts, List.mem_map, List.mem_range]
      exact ⟨l, hl, j, hj, rfl⟩
    · intro q hq e
      simp only [List.mem_flatMap, State.lanePuts, List.mem_map, List.mem_range] at hq
      obtain ⟨l', _, j', hj', rfl⟩ := hq
      obtain ⟨e1, e2⟩ := vkey_inj (by omega) (by omega) e
      have := tOf_inj e1
      subst this
      have : j' = j := by omega
      subst this; rfl
  · intro k hk
    rw [h]
    refine NMap.get_off_puts 0 s.v _ k ?_
    intro q hq e
    simp only [List.mem_flatMap, State.lanePuts, List.mem_map, List.mem_range] at hq
    obtain ⟨l, hl, j, hj, rfl⟩ := hq
    exact hk ⟨l, hl, j, hj, e⟩

theorem ccIn_of (s : State) (c : BitVec 2) (g : Nat → BitVec 4) (t : State)
    (h : t.cc = NMap.puts s.cc (s.iss.lanes.flatMap fun l => [(cckey s.iss.uid (s.tOf l) c.toNat, g l)])) : CcIn s c g t := by
  constructor
  · intro l hl
    rw [h]
    refine NMap.get_of_puts 0 s.cc _ (cckey s.iss.uid (s.tOf l) c.toNat, g l) ?_ ?_
    · simp only [List.mem_flatMap, List.mem_singleton]
      exact ⟨l, hl, rfl⟩
    · intro q hq e
      simp only [List.mem_flatMap, List.mem_singleton] at hq
      obtain ⟨l', _, rfl⟩ := hq
      have := tOf_inj (cckey_inj c.isLt c.isLt e).1
      subst this; rfl
  · intro k hk
    rw [h]
    refine NMap.get_off_puts 0 s.cc _ k ?_
    intro q hq e
    simp only [List.mem_flatMap, List.mem_singleton] at hq
    obtain ⟨l, hl, rfl⟩ := hq
    exact hk ⟨l, hl, e⟩

/-- What a body that puts registers of its lane does over all active lanes. -/
theorem lanes_puts (s : State) (d n : Nat) (f : Nat → Nat → Word) (hd : d + n ≤ 64) (body : State → Nat → State)
    (h : ∀ m l, body { s with v := m } l = { s with v := NMap.puts m (s.lanePuts d n f l) }) :
    Puts s d n f (.next (s.lanes body)) := by
  have e : s.lanes body = { s with v := NMap.puts s.v (s.iss.lanes.flatMap (s.lanePuts d n f)) } :=
    foldl_puts s s.iss.lanes body (s.lanePuts d n f) h s.v
  refine ⟨_, rfl, by rw [e], ?_⟩
  rw [e]
  exact putsIn_of s d n f hd _ rfl

theorem lanes_puts1 (s : State) (d : VReg) (f : Nat → Word) (body : State → Nat → State)
    (h : ∀ m l, body { s with v := m } l = { s with v := NMap.put m (vkey s.iss.uid (s.tOf l) d.toNat) (f l) }) :
    Puts1 s d f (.next (s.lanes body)) :=
  lanes_puts s d.toNat 1 _ (by omega) body (fun m l => h m l)

theorem lanes_putsCc (s : State) (d : VReg) (c : BitVec 2) (f : Nat → Word) (g : Nat → BitVec 4) (body : State → Nat → State)
    (h : ∀ m n l, body { s with v := m, cc := n } l = { s with
      v := NMap.put m (vkey s.iss.uid (s.tOf l) d.toNat) (f l), cc := NMap.put n (cckey s.iss.uid (s.tOf l) c.toNat) (g l) }) :
    PutsCc s d c f g (.next (s.lanes body)) := by
  have e : s.lanes body = { s with
      v := NMap.puts s.v (s.iss.lanes.flatMap (s.lanePuts d.toNat 1 fun l _ => f l)),
      cc := NMap.puts s.cc (s.iss.lanes.flatMap fun l => [(cckey s.iss.uid (s.tOf l) c.toNat, g l)]) } :=
    foldl_puts_cc s s.iss.lanes body (s.lanePuts d.toNat 1 fun l _ => f l)
      (fun l => [(cckey s.iss.uid (s.tOf l) c.toNat, g l)]) (fun m n l => h m n l) s.v s.cc
  refine ⟨_, rfl, by rw [e], ?_, ?_⟩ <;> rw [e]
  · exact putsIn_of s d.toNat 1 _ (by omega) _ rfl
  · exact ccIn_of s c g _ rfl

theorem lanes_onlyCc (s : State) (c : BitVec 2) (g : Nat → BitVec 4) (body : State → Nat → State)
    (h : ∀ n l, body { s with cc := n } l = { s with cc := NMap.put n (cckey s.iss.uid (s.tOf l) c.toNat) (g l) }) :
    OnlyCc s c g (.next (s.lanes body)) := by
  have e : s.lanes body = { s with
      cc := NMap.puts s.cc (s.iss.lanes.flatMap fun l => [(cckey s.iss.uid (s.tOf l) c.toNat, g l)]) } :=
    foldl_ccs s s.iss.lanes body (fun l => [(cckey s.iss.uid (s.tOf l) c.toNat, g l)]) (fun n l => h n l) s.cc
  refine ⟨_, rfl, by rw [e], ?_⟩
  rw [e]
  exact ccIn_of s c g _ rfl

/-! The shared shapes. -/

theorem bin_puts (f : Word → Word → Word) (d a b : VReg) (s : State) :
    Puts1 s d (fun l => f (s.rv l a.toNat) (s.rv l b.toNat)) (bin f d a b s) := lanes_puts1 s d _ _ fun _ _ => rfl

theorem un_puts (f : Word → Word) (d a : VReg) (s : State) : Puts1 s d (fun l => f (s.rv l a.toNat)) (un f d a s) :=
  lanes_puts1 s d _ _ fun _ _ => rfl

theorem tri_puts (f : Word → Word → Word → Word) (d a b : VReg) (s : State) :
    Puts1 s d (fun l => f (s.rv l a.toNat) (s.rv l b.toNat) (s.rv l d.toNat)) (tri f d a b s) :=
  lanes_puts1 s d _ _ fun _ _ => rfl

theorem toAll_puts (x : Word) (d : VReg) (s : State) : Puts1 s d (fun _ => x) (toAll x d s) :=
  lanes_puts1 s d _ _ fun _ _ => rfl

theorem binX_puts (ci : Nat) (f : Word → Word → Nat → Word) (d a b : VReg) (s : State) :
    Puts1 s d (fun l => f (s.rv l a.toNat) (s.rv l b.toNat) (ccC (s.rcc l ci)).toNat) (binX ci f d a b s) :=
  lanes_puts1 s d _ _ fun _ _ => rfl

theorem binCc_puts (c : BitVec 2) (f : Word → Word → Word) (g : Word → Word → BitVec 4) (d a b : VReg) (s : State) :
    PutsCc s d c (fun l => f (s.rv l a.toNat) (s.rv l b.toNat)) (fun l => g (s.rv l a.toNat) (s.rv l b.toNat))
      (binCc c f g d a b s) := lanes_putsCc s d c _ _ _ fun _ _ _ => rfl

theorem binXCc_puts (c : BitVec 2) (f : Word → Word → Nat → Word) (g : Word → Word → Nat → BitVec 4) (d a b : VReg)
    (s : State) :
    PutsCc s d c (fun l => f (s.rv l a.toNat) (s.rv l b.toNat) (ccC (s.rcc l c.toNat)).toNat)
      (fun l => g (s.rv l a.toNat) (s.rv l b.toNat) (ccC (s.rcc l c.toNat)).toNat) (binXCc c f g d a b s) :=
  lanes_putsCc s d c _ _ _ fun _ _ _ => rfl

theorem uni_puts (f : Word → Word → Word) (d a : UReg) (o : Word) (s : State) :
    PutsU s d (f (s.ru a.toNat) o) (uni f d a o s) :=
  ⟨_, rfl, rfl, NMap.get_put_same .., fun _ h => NMap.get_put_other _ _ _ h⟩

/-- Pairs. -/
theorem lanes_puts2 (s : State) (d : VReg) (hd : d.toNat + 1 < 64) (f : Nat → Nat) (body : State → Nat → State)
    (h : ∀ m l, body { s with v := m } l = { s with
      v := (NMap.put m (vkey s.iss.uid (s.tOf l) d.toNat) (toW (f l))).put (vkey s.iss.uid (s.tOf l) (d.toNat + 1))
        (toW (f l / 2 ^ 32)) }) :
    Puts2 s d f (.next (s.lanes body)) := by
  refine lanes_puts s d.toNat 2 _ (by omega) body fun m l => ?_
  rw [h]
  simp [State.lanePuts, NMap.puts, List.range_succ]

end Sys2Proof.Machine
end

