-- ==== Sys2Proof/Laws/PerInstr.lean ====
section
/-!
SUPPORT. Decoding gives back what encoding wrote, instruction by instruction: the family RoundTrip. An event has no words.
-/

set_option linter.unusedSimpArgs false
set_option Elab.async false

namespace Sys2Proof.Laws.RoundTrip

open Sys2Proof

/-- The words of the instruction decode to it, whatever word follows. -/
def Statement (i : Instr) : Prop := i.RoundTrips

theorem iadd (d : VReg) (a : VReg) (b : VReg) (pa : Bool) (pb : Bool) : Statement (.iadd d a b pa pb) := by
  exact .of rfl (by simp [Instr.Decodes, decode_01, dec01, isX_01, chained, chk, fPA, fPB, fBit, fZero])

theorem isub (d : VReg) (a : VReg) (b : VReg) (pa : Bool) (pb : Bool) : Statement (.isub d a b pa pb) := by
  exact .of rfl (by simp [Instr.Decodes, decode_01, dec01, isX_01, chained, chk, fPA, fPB, fBit, fZero])

theorem iaddx (d : VReg) (a : VReg) (b : VReg) (pa : Bool) (pb : Bool) : Statement (.iaddx d a b pa pb) := by
  exact .of rfl (by simp [Instr.Decodes, decode_01, dec01, isX_01, chained, chk, fPA, fPB, fBit, fZero])

theorem isubx (d : VReg) (a : VReg) (b : VReg) (pa : Bool) (pb : Bool) : Statement (.isubx d a b pa pb) := by
  exact .of rfl (by simp [Instr.Decodes, decode_01, dec01, isX_01, chained, chk, fPA, fPB, fBit, fZero])

theorem imul (d : VReg) (a : VReg) (b : VReg) (pa : Bool) (pb : Bool) : Statement (.imul d a b pa pb) := by
  exact .of rfl (by simp [Instr.Decodes, decode_01, dec01, isX_01, chained, chk, fPA, fPB, fBit, fZero])

theorem imulhI32 (d : VReg) (a : VReg) (b : VReg) (pa : Bool) (pb : Bool) : Statement (.imulhI32 d a b pa pb) := by
  exact .of rfl (by simp [Instr.Decodes, decode_01, dec01, isX_01, chained, chk, fPA, fPB, fBit, fZero])

theorem imulhN32 (d : VReg) (a : VReg) (b : VReg) (pa : Bool) (pb : Bool) : Statement (.imulhN32 d a b pa pb) := by
  exact .of rfl (by simp [Instr.Decodes, decode_01, dec01, isX_01, chained, chk, fPA, fPB, fBit, fZero])

theorem iminI32 (d : VReg) (a : VReg) (b : VReg) (pa : Bool) (pb : Bool) : Statement (.iminI32 d a b pa pb) := by
  exact .of rfl (by simp [Instr.Decodes, decode_01, dec01, isX_01, chained, chk, fPA, fPB, fBit, fZero])

theorem iminN32 (d : VReg) (a : VReg) (b : VReg) (pa : Bool) (pb : Bool) : Statement (.iminN32 d a b pa pb) := by
  exact .of rfl (by simp [Instr.Decodes, decode_01, dec01, isX_01, chained, chk, fPA, fPB, fBit, fZero])

theorem imaxI32 (d : VReg) (a : VReg) (b : VReg) (pa : Bool) (pb : Bool) : Statement (.imaxI32 d a b pa pb) := by
  exact .of rfl (by simp [Instr.Decodes, decode_01, dec01, isX_01, chained, chk, fPA, fPB, fBit, fZero])

theorem imaxN32 (d : VReg) (a : VReg) (b : VReg) (pa : Bool) (pb : Bool) : Statement (.imaxN32 d a b pa pb) := by
  exact .of rfl (by simp [Instr.Decodes, decode_01, dec01, isX_01, chained, chk, fPA, fPB, fBit, fZero])

theorem iaddsI32 (d : VReg) (a : VReg) (b : VReg) (pa : Bool) (pb : Bool) : Statement (.iaddsI32 d a b pa pb) := by
  exact .of rfl (by simp [Instr.Decodes, decode_01, dec01, isX_01, chained, chk, fPA, fPB, fBit, fZero])

theorem iaddCc (c : BitVec 2) (d : VReg) (a : VReg) (b : VReg) (pa : Bool) (pb : Bool) : Statement (.iaddCc c d a b pa pb) := by
  obtain rfl | rfl | rfl | rfl := two_cases c <;>
  exact .of rfl (by simp [Instr.Decodes, decode_04, decode_05, decode_06, decode_07, decCc, isX_04, isX_05, isX_06, isX_07, chained, chk, fPA, fPB, fBit, fZero])

theorem isubCc (c : BitVec 2) (d : VReg) (a : VReg) (b : VReg) (pa : Bool) (pb : Bool) : Statement (.isubCc c d a b pa pb) := by
  obtain rfl | rfl | rfl | rfl := two_cases c <;>
  exact .of rfl (by simp [Instr.Decodes, decode_04, decode_05, decode_06, decode_07, decCc, isX_04, isX_05, isX_06, isX_07, chained, chk, fPA, fPB, fBit, fZero])

theorem iaddxCc (c : BitVec 2) (d : VReg) (a : VReg) (b : VReg) (pa : Bool) (pb : Bool) : Statement (.iaddxCc c d a b pa pb) := by
  obtain rfl | rfl | rfl | rfl := two_cases c <;>
  exact .of rfl (by simp [Instr.Decodes, decode_04, decode_05, decode_06, decode_07, decCc, isX_04, isX_05, isX_06, isX_07, chained, chk, fPA, fPB, fBit, fZero])

theorem isubxCc (c : BitVec 2) (d : VReg) (a : VReg) (b : VReg) (pa : Bool) (pb : Bool) : Statement (.isubxCc c d a b pa pb) := by
  obtain rfl | rfl | rfl | rfl := two_cases c <;>
  exact .of rfl (by simp [Instr.Decodes, decode_04, decode_05, decode_06, decode_07, decCc, isX_04, isX_05, isX_06, isX_07, chained, chk, fPA, fPB, fBit, fZero])

theorem imulCc (c : BitVec 2) (d : VReg) (a : VReg) (b : VReg) (pa : Bool) (pb : Bool) : Statement (.imulCc c d a b pa pb) := by
  obtain rfl | rfl | rfl | rfl := two_cases c <;>
  exact .of rfl (by simp [Instr.Decodes, decode_04, decode_05, decode_06, decode_07, decCc, isX_04, isX_05, isX_06, isX_07, chained, chk, fPA, fPB, fBit, fZero])

theorem imulhI32Cc (c : BitVec 2) (d : VReg) (a : VReg) (b : VReg) (pa : Bool) (pb : Bool) : Statement (.imulhI32Cc c d a b pa pb) := by
  obtain rfl | rfl | rfl | rfl := two_cases c <;>
  exact .of rfl (by simp [Instr.Decodes, decode_04, decode_05, decode_06, decode_07, decCc, isX_04, isX_05, isX_06, isX_07, chained, chk, fPA, fPB, fBit, fZero])

theorem imulhN32Cc (c : BitVec 2) (d : VReg) (a : VReg) (b : VReg) (pa : Bool) (pb : Bool) : Statement (.imulhN32Cc c d a b pa pb) := by
  obtain rfl | rfl | rfl | rfl := two_cases c <;>
  exact .of rfl (by simp [Instr.Decodes, decode_04, decode_05, decode_06, decode_07, decCc, isX_04, isX_05, isX_06, isX_07, chained, chk, fPA, fPB, fBit, fZero])

theorem iminI32Cc (c : BitVec 2) (d : VReg) (a : VReg) (b : VReg) (pa : Bool) (pb : Bool) : Statement (.iminI32Cc c d a b pa pb) := by
  obtain rfl | rfl | rfl | rfl := two_cases c <;>
  exact .of rfl (by simp [Instr.Decodes, decode_04, decode_05, decode_06, decode_07, decCc, isX_04, isX_05, isX_06, isX_07, chained, chk, fPA, fPB, fBit, fZero])

theorem iminN32Cc (c : BitVec 2) (d : VReg) (a : VReg) (b : VReg) (pa : Bool) (pb : Bool) : Statement (.iminN32Cc c d a b pa pb) := by
  obtain rfl | rfl | rfl | rfl := two_cases c <;>
  exact .of rfl (by simp [Instr.Decodes, decode_04, decode_05, decode_06, decode_07, decCc, isX_04, isX_05, isX_06, isX_07, chained, chk, fPA, fPB, fBit, fZero])

theorem imaxI32Cc (c : BitVec 2) (d : VReg) (a : VReg) (b : VReg) (pa : Bool) (pb : Bool) : Statement (.imaxI32Cc c d a b pa pb) := by
  obtain rfl | rfl | rfl | rfl := two_cases c <;>
  exact .of rfl (by simp [Instr.Decodes, decode_04, decode_05, decode_06, decode_07, decCc, isX_04, isX_05, isX_06, isX_07, chained, chk, fPA, fPB, fBit, fZero])

theorem imaxN32Cc (c : BitVec 2) (d : VReg) (a : VReg) (b : VReg) (pa : Bool) (pb : Bool) : Statement (.imaxN32Cc c d a b pa pb) := by
  obtain rfl | rfl | rfl | rfl := two_cases c <;>
  exact .of rfl (by simp [Instr.Decodes, decode_04, decode_05, decode_06, decode_07, decCc, isX_04, isX_05, isX_06, isX_07, chained, chk, fPA, fPB, fBit, fZero])

theorem iaddsI32Cc (c : BitVec 2) (d : VReg) (a : VReg) (b : VReg) (pa : Bool) (pb : Bool) : Statement (.iaddsI32Cc c d a b pa pb) := by
  obtain rfl | rfl | rfl | rfl := two_cases c <;>
  exact .of rfl (by simp [Instr.Decodes, decode_04, decode_05, decode_06, decode_07, decCc, isX_04, isX_05, isX_06, isX_07, chained, chk, fPA, fPB, fBit, fZero])

theorem icmp (c : BitVec 2) (a : VReg) (b : VReg) (pa : Bool) (pb : Bool) : Statement (.icmp c a b pa pb) := by
  obtain rfl | rfl | rfl | rfl := two_cases c <;>
  exact .of rfl (by simp [Instr.Decodes, decode_04, decode_05, decode_06, decode_07, decCc, isX_04, isX_05, isX_06, isX_07, chained, chk, fPA, fPB, fBit, fZero])

theorem fcmpF32 (c : BitVec 2) (a : VReg) (b : VReg) (pa : Bool) (pb : Bool) : Statement (.fcmpF32 c a b pa pb) := by
  obtain rfl | rfl | rfl | rfl := two_cases c <;>
  exact .of rfl (by simp [Instr.Decodes, decode_04, decode_05, decode_06, decode_07, decCc, isX_04, isX_05, isX_06, isX_07, chained, chk, fPA, fPB, fBit, fZero])

theorem iadd64 (d : VReg) (a : VReg) (b : VReg) (pa : Bool) (pb : Bool) : Statement (.iadd64 d a b pa pb) := by
  exact .of rfl (by simp [Instr.Decodes, decode_02, dec02, isX_02, chained, chk, fPA, fPB, fBit, fZero])

theorem isub64 (d : VReg) (a : VReg) (b : VReg) (pa : Bool) (pb : Bool) : Statement (.isub64 d a b pa pb) := by
  exact .of rfl (by simp [Instr.Decodes, decode_02, dec02, isX_02, chained, chk, fPA, fPB, fBit, fZero])

theorem addr (d : VReg) (a : VReg) (b : VReg) (pa : Bool) (pb : Bool) : Statement (.addr d a b pa pb) := by
  exact .of rfl (by simp [Instr.Decodes, decode_02, dec02, isX_02, chained, chk, fPA, fPB, fBit, fZero])

theorem and (d : VReg) (a : VReg) (b : VReg) (pa : Bool) (pb : Bool) : Statement (.and d a b pa pb) := by
  exact .of rfl (by simp [Instr.Decodes, decode_03, dec03, isX_03, chained, chk, fPA, fPB, fBit, fZero])

theorem or (d : VReg) (a : VReg) (b : VReg) (pa : Bool) (pb : Bool) : Statement (.or d a b pa pb) := by
  exact .of rfl (by simp [Instr.Decodes, decode_03, dec03, isX_03, chained, chk, fPA, fPB, fBit, fZero])

theorem xor (d : VReg) (a : VReg) (b : VReg) (pa : Bool) (pb : Bool) : Statement (.xor d a b pa pb) := by
  exact .of rfl (by simp [Instr.Decodes, decode_03, dec03, isX_03, chained, chk, fPA, fPB, fBit, fZero])

theorem shl (d : VReg) (a : VReg) (b : VReg) (pa : Bool) (pb : Bool) : Statement (.shl d a b pa pb) := by
  exact .of rfl (by simp [Instr.Decodes, decode_03, dec03, isX_03, chained, chk, fPA, fPB, fBit, fZero])

theorem shrN32 (d : VReg) (a : VReg) (b : VReg) (pa : Bool) (pb : Bool) : Statement (.shrN32 d a b pa pb) := by
  exact .of rfl (by simp [Instr.Decodes, decode_03, dec03, isX_03, chained, chk, fPA, fPB, fBit, fZero])

theorem shrI32 (d : VReg) (a : VReg) (b : VReg) (pa : Bool) (pb : Bool) : Statement (.shrI32 d a b pa pb) := by
  exact .of rfl (by simp [Instr.Decodes, decode_03, dec03, isX_03, chained, chk, fPA, fPB, fBit, fZero])

theorem popc (d : VReg) (a : VReg) (pa : Bool) : Statement (.popc d a pa) := by
  exact .of rfl (by simp [Instr.Decodes, decode_03, dec03, isX_03, chained, chk, fPA, fPB, fBit, fZero])

theorem clz (d : VReg) (a : VReg) (pa : Bool) : Statement (.clz d a pa) := by
  exact .of rfl (by simp [Instr.Decodes, decode_03, dec03, isX_03, chained, chk, fPA, fPB, fBit, fZero])

theorem bfx (d : VReg) (a : VReg) (b : VReg) (pa : Bool) (pb : Bool) : Statement (.bfx d a b pa pb) := by
  exact .of rfl (by simp [Instr.Decodes, decode_03, dec03, isX_03, chained, chk, fPA, fPB, fBit, fZero])

theorem bfi (d : VReg) (a : VReg) (b : VReg) (pa : Bool) (pb : Bool) : Statement (.bfi d a b pa pb) := by
  exact .of rfl (by simp [Instr.Decodes, decode_03, dec03, isX_03, chained, chk, fPA, fPB, fBit, fZero])

theorem iaddi (d : VReg) (a : VReg) (imm : BitVec 12) : Statement (.iaddi d a imm) := by
  exact .of rfl (by simp [Instr.Decodes, decode_10, decI, isX_10, chained, chk, fPA, fPB, fBit, fZero])

theorem andi (d : VReg) (a : VReg) (imm : BitVec 12) : Statement (.andi d a imm) := by
  exact .of rfl (by simp [Instr.Decodes, decode_11, decI, isX_11, chained, chk, fPA, fPB, fBit, fZero])

theorem ori (d : VReg) (a : VReg) (imm : BitVec 12) : Statement (.ori d a imm) := by
  exact .of rfl (by simp [Instr.Decodes, decode_12, decI, isX_12, chained, chk, fPA, fPB, fBit, fZero])

theorem xori (d : VReg) (a : VReg) (imm : BitVec 12) : Statement (.xori d a imm) := by
  exact .of rfl (by simp [Instr.Decodes, decode_13, decI, isX_13, chained, chk, fPA, fPB, fBit, fZero])

theorem shli (d : VReg) (a : VReg) (imm : BitVec 5) : Statement (.shli d a imm) := by
  exact .of rfl (by simp [Instr.Decodes, decode_14, decI, isX_14, chained, chk, fPA, fPB, fBit, fZero])

theorem shri (d : VReg) (a : VReg) (imm : BitVec 5) : Statement (.shri d a imm) := by
  exact .of rfl (by simp [Instr.Decodes, decode_15, decI, isX_15, chained, chk, fPA, fPB, fBit, fZero])

theorem movi (d : VReg) (imm : BitVec 12) : Statement (.movi d imm) := by
  exact .of rfl (by simp [Instr.Decodes, decode_16, decI, isX_16, chained, chk, fPA, fPB, fBit, fZero])

theorem faddF32 (r : BitVec 2) (d : VReg) (a : VReg) (b : VReg) (pa : Bool) (pb : Bool) : Statement (.faddF32 r d a b pa pb) := by
  obtain rfl | rfl | rfl | rfl := two_cases r <;>
  exact .of rfl (by simp [Instr.Decodes, decode_08, decode_09, decode_0A, decode_0B, decFp, isX_08, isX_09, isX_0A, isX_0B, chained, chk, fPA, fPB, fBit, fZero])

theorem fsubF32 (r : BitVec 2) (d : VReg) (a : VReg) (b : VReg) (pa : Bool) (pb : Bool) : Statement (.fsubF32 r d a b pa pb) := by
  obtain rfl | rfl | rfl | rfl := two_cases r <;>
  exact .of rfl (by simp [Instr.Decodes, decode_08, decode_09, decode_0A, decode_0B, decFp, isX_08, isX_09, isX_0A, isX_0B, chained, chk, fPA, fPB, fBit, fZero])

theorem fmulF32 (r : BitVec 2) (d : VReg) (a : VReg) (b : VReg) (pa : Bool) (pb : Bool) : Statement (.fmulF32 r d a b pa pb) := by
  obtain rfl | rfl | rfl | rfl := two_cases r <;>
  exact .of rfl (by simp [Instr.Decodes, decode_08, decode_09, decode_0A, decode_0B, decFp, isX_08, isX_09, isX_0A, isX_0B, chained, chk, fPA, fPB, fBit, fZero])

theorem ffmaF32 (r : BitVec 2) (d : VReg) (a : VReg) (b : VReg) (pa : Bool) (pb : Bool) : Statement (.ffmaF32 r d a b pa pb) := by
  obtain rfl | rfl | rfl | rfl := two_cases r <;>
  exact .of rfl (by simp [Instr.Decodes, decode_08, decode_09, decode_0A, decode_0B, decFp, isX_08, isX_09, isX_0A, isX_0B, chained, chk, fPA, fPB, fBit, fZero])

theorem faddF16x2 (r : BitVec 2) (d : VReg) (a : VReg) (b : VReg) (pa : Bool) (pb : Bool) : Statement (.faddF16x2 r d a b pa pb) := by
  obtain rfl | rfl | rfl | rfl := two_cases r <;>
  exact .of rfl (by simp [Instr.Decodes, decode_08, decode_09, decode_0A, decode_0B, decFp, isX_08, isX_09, isX_0A, isX_0B, chained, chk, fPA, fPB, fBit, fZero])

theorem fmulF16x2 (r : BitVec 2) (d : VReg) (a : VReg) (b : VReg) (pa : Bool) (pb : Bool) : Statement (.fmulF16x2 r d a b pa pb) := by
  obtain rfl | rfl | rfl | rfl := two_cases r <;>
  exact .of rfl (by simp [Instr.Decodes, decode_08, decode_09, decode_0A, decode_0B, decFp, isX_08, isX_09, isX_0A, isX_0B, chained, chk, fPA, fPB, fBit, fZero])

theorem ffmaF16x2 (r : BitVec 2) (d : VReg) (a : VReg) (b : VReg) (pa : Bool) (pb : Bool) : Statement (.ffmaF16x2 r d a b pa pb) := by
  obtain rfl | rfl | rfl | rfl := two_cases r <;>
  exact .of rfl (by simp [Instr.Decodes, decode_08, decode_09, decode_0A, decode_0B, decFp, isX_08, isX_09, isX_0A, isX_0B, chained, chk, fPA, fPB, fBit, fZero])

theorem faddBf16x2 (r : BitVec 2) (d : VReg) (a : VReg) (b : VReg) (pa : Bool) (pb : Bool) : Statement (.faddBf16x2 r d a b pa pb) := by
  obtain rfl | rfl | rfl | rfl := two_cases r <;>
  exact .of rfl (by simp [Instr.Decodes, decode_08, decode_09, decode_0A, decode_0B, decFp, isX_08, isX_09, isX_0A, isX_0B, chained, chk, fPA, fPB, fBit, fZero])

theorem fmulBf16x2 (r : BitVec 2) (d : VReg) (a : VReg) (b : VReg) (pa : Bool) (pb : Bool) : Statement (.fmulBf16x2 r d a b pa pb) := by
  obtain rfl | rfl | rfl | rfl := two_cases r <;>
  exact .of rfl (by simp [Instr.Decodes, decode_08, decode_09, decode_0A, decode_0B, decFp, isX_08, isX_09, isX_0A, isX_0B, chained, chk, fPA, fPB, fBit, fZero])

theorem ffmaBf16x2 (r : BitVec 2) (d : VReg) (a : VReg) (b : VReg) (pa : Bool) (pb : Bool) : Statement (.ffmaBf16x2 r d a b pa pb) := by
  obtain rfl | rfl | rfl | rfl := two_cases r <;>
  exact .of rfl (by simp [Instr.Decodes, decode_08, decode_09, decode_0A, decode_0B, decFp, isX_08, isX_09, isX_0A, isX_0B, chained, chk, fPA, fPB, fBit, fZero])

theorem fminF32 (d : VReg) (a : VReg) (b : VReg) (pa : Bool) (pb : Bool) : Statement (.fminF32 d a b pa pb) := by
  exact .of rfl (by simp [Instr.Decodes, decode_0C, dec0C, isX_0C, chained, chk, fPA, fPB, fBit, fZero])

theorem fmaxF32 (d : VReg) (a : VReg) (b : VReg) (pa : Bool) (pb : Bool) : Statement (.fmaxF32 d a b pa pb) := by
  exact .of rfl (by simp [Instr.Decodes, decode_0C, dec0C, isX_0C, chained, chk, fPA, fPB, fBit, fZero])

theorem fabsF32 (d : VReg) (a : VReg) (pa : Bool) : Statement (.fabsF32 d a pa) := by
  exact .of rfl (by simp [Instr.Decodes, decode_0C, dec0C, isX_0C, chained, chk, fPA, fPB, fBit, fZero])

theorem fnegF32 (d : VReg) (a : VReg) (pa : Bool) : Statement (.fnegF32 d a pa) := by
  exact .of rfl (by simp [Instr.Decodes, decode_0C, dec0C, isX_0C, chained, chk, fPA, fPB, fBit, fZero])

theorem fclassF32 (d : VReg) (a : VReg) (pa : Bool) : Statement (.fclassF32 d a pa) := by
  exact .of rfl (by simp [Instr.Decodes, decode_0C, dec0C, isX_0C, chained, chk, fPA, fPB, fBit, fZero])

theorem fminF16x2 (d : VReg) (a : VReg) (b : VReg) (pa : Bool) (pb : Bool) : Statement (.fminF16x2 d a b pa pb) := by
  exact .of rfl (by simp [Instr.Decodes, decode_0C, dec0C, isX_0C, chained, chk, fPA, fPB, fBit, fZero])

theorem fmaxF16x2 (d : VReg) (a : VReg) (b : VReg) (pa : Bool) (pb : Bool) : Statement (.fmaxF16x2 d a b pa pb) := by
  exact .of rfl (by simp [Instr.Decodes, decode_0C, dec0C, isX_0C, chained, chk, fPA, fPB, fBit, fZero])

theorem mov (d : VReg) (a : VReg) (pa : Bool) : Statement (.mov d a pa) := by
  exact .of rfl (by simp [Instr.Decodes, decode_0C, dec0C, isX_0C, chained, chk, fPA, fPB, fBit, fZero])

theorem rcpF32 (d : VReg) (a : VReg) (pa : Bool) : Statement (.rcpF32 d a pa) := by
  exact .of rfl (by simp [Instr.Decodes, decode_20, dec20, isX_20, chained, chk, fPA, fPB, fBit, fZero])

theorem rsqrtF32 (d : VReg) (a : VReg) (pa : Bool) : Statement (.rsqrtF32 d a pa) := by
  exact .of rfl (by simp [Instr.Decodes, decode_20, dec20, isX_20, chained, chk, fPA, fPB, fBit, fZero])

theorem sqrtF32 (d : VReg) (a : VReg) (pa : Bool) : Statement (.sqrtF32 d a pa) := by
  exact .of rfl (by simp [Instr.Decodes, decode_20, dec20, isX_20, chained, chk, fPA, fPB, fBit, fZero])

theorem exp2F32 (d : VReg) (a : VReg) (pa : Bool) : Statement (.exp2F32 d a pa) := by
  exact .of rfl (by simp [Instr.Decodes, decode_20, dec20, isX_20, chained, chk, fPA, fPB, fBit, fZero])

theorem log2F32 (d : VReg) (a : VReg) (pa : Bool) : Statement (.log2F32 d a pa) := by
  exact .of rfl (by simp [Instr.Decodes, decode_20, dec20, isX_20, chained, chk, fPA, fPB, fBit, fZero])

theorem sinF32 (d : VReg) (a : VReg) (pa : Bool) : Statement (.sinF32 d a pa) := by
  exact .of rfl (by simp [Instr.Decodes, decode_20, dec20, isX_20, chained, chk, fPA, fPB, fBit, fZero])

theorem cosF32 (d : VReg) (a : VReg) (pa : Bool) : Statement (.cosF32 d a pa) := by
  exact .of rfl (by simp [Instr.Decodes, decode_20, dec20, isX_20, chained, chk, fPA, fPB, fBit, fZero])

theorem tanhF32 (d : VReg) (a : VReg) (pa : Bool) : Statement (.tanhF32 d a pa) := by
  exact .of rfl (by simp [Instr.Decodes, decode_20, dec20, isX_20, chained, chk, fPA, fPB, fBit, fZero])

theorem fdivF32 (d : VReg) (a : VReg) (b : VReg) (pa : Bool) (pb : Bool) : Statement (.fdivF32 d a b pa pb) := by
  exact .of rfl (by simp [Instr.Decodes, decode_20, dec20, isX_20, chained, chk, fPA, fPB, fBit, fZero])

theorem cvt (d : VReg) (a : VReg) (pa : Bool) (ftz : Bool) (ovf : BitVec 2) (rnd : BitVec 2) (dst : BitVec 4) (src : BitVec 4) : Statement (.cvt d a pa ftz ovf rnd dst src) := by
  exact .of rfl (by simp [Instr.Decodes, decode_21, dec21, isX_21, chained, chk, fPA, fPB, fBit, fZero])

theorem pack (d : VReg) (a : VReg) (pa : Bool) (ovf : BitVec 2) (rnd : BitVec 2) (qtype : BitVec 2) (fmt : BitVec 4) : Statement (.pack d a pa ovf rnd qtype fmt) := by
  exact .of rfl (by simp [Instr.Decodes, decode_21, dec21, isX_21, chained, chk, fPA, fPB, fBit, fZero])

theorem unpack (d : VReg) (a : VReg) (pa : Bool) (fmt : BitVec 4) : Statement (.unpack d a pa fmt) := by
  exact .of rfl (by simp [Instr.Decodes, decode_21, dec21, isX_21, chained, chk, fPA, fPB, fBit, fZero])

theorem sel (d : VReg) (a : VReg) (b : VReg) (pa : Bool) (pb : Bool) (cond : BitVec 4) (set : BitVec 2) : Statement (.sel d a b pa pb cond set) := by
  exact .of rfl (by simp [Instr.Decodes, decode_21, dec21, isX_21, chained, chk, fPA, fPB, fBit, fZero])

theorem lanePick (d : VReg) (a : VReg) (b : VReg) (pa : Bool) (pb : Bool) : Statement (.lanePick d a b pa pb) := by
  exact .of rfl (by simp [Instr.Decodes, decode_22, dec22, isX_22, chained, chk, fPA, fPB, fBit, fZero])

theorem laneRise (d : VReg) (a : VReg) (b : VReg) (pa : Bool) (pb : Bool) : Statement (.laneRise d a b pa pb) := by
  exact .of rfl (by simp [Instr.Decodes, decode_22, dec22, isX_22, chained, chk, fPA, fPB, fBit, fZero])

theorem laneFall (d : VReg) (a : VReg) (b : VReg) (pa : Bool) (pb : Bool) : Statement (.laneFall d a b pa pb) := by
  exact .of rfl (by simp [Instr.Decodes, decode_22, dec22, isX_22, chained, chk, fPA, fPB, fBit, fZero])

theorem laneSwap (d : VReg) (a : VReg) (b : VReg) (pa : Bool) (pb : Bool) : Statement (.laneSwap d a b pa pb) := by
  exact .of rfl (by simp [Instr.Decodes, decode_22, dec22, isX_22, chained, chk, fPA, fPB, fBit, fZero])

theorem pollSome (d : VReg) (a : VReg) (pa : Bool) : Statement (.pollSome d a pa) := by
  exact .of rfl (by simp [Instr.Decodes, decode_22, dec22, isX_22, chained, chk, fPA, fPB, fBit, fZero])

theorem pollEvery (d : VReg) (a : VReg) (pa : Bool) : Statement (.pollEvery d a pa) := by
  exact .of rfl (by simp [Instr.Decodes, decode_22, dec22, isX_22, chained, chk, fPA, fPB, fBit, fZero])

theorem pollMask (d : VReg) (a : VReg) (pa : Bool) : Statement (.pollMask d a pa) := by
  exact .of rfl (by simp [Instr.Decodes, decode_22, dec22, isX_22, chained, chk, fPA, fPB, fBit, fZero])

theorem foldAddI32 (d : VReg) (a : VReg) (pa : Bool) : Statement (.foldAddI32 d a pa) := by
  exact .of rfl (by simp [Instr.Decodes, decode_22, dec22, isX_22, chained, chk, fPA, fPB, fBit, fZero])

theorem foldMinI32 (d : VReg) (a : VReg) (pa : Bool) : Statement (.foldMinI32 d a pa) := by
  exact .of rfl (by simp [Instr.Decodes, decode_22, dec22, isX_22, chained, chk, fPA, fPB, fBit, fZero])

theorem foldMaxI32 (d : VReg) (a : VReg) (pa : Bool) : Statement (.foldMaxI32 d a pa) := by
  exact .of rfl (by simp [Instr.Decodes, decode_22, dec22, isX_22, chained, chk, fPA, fPB, fBit, fZero])

theorem foldFaddF32 (d : VReg) (a : VReg) (pa : Bool) : Statement (.foldFaddF32 d a pa) := by
  exact .of rfl (by simp [Instr.Decodes, decode_22, dec22, isX_22, chained, chk, fPA, fPB, fBit, fZero])

theorem scanAddI32 (d : VReg) (a : VReg) (pa : Bool) : Statement (.scanAddI32 d a pa) := by
  exact .of rfl (by simp [Instr.Decodes, decode_22, dec22, isX_22, chained, chk, fPA, fPB, fBit, fZero])

theorem bsort (d : VReg) (a : UReg) : Statement (.bsort d a) := by
  exact .of rfl (by simp [Instr.Decodes, decode_22, dec22, isX_22, chained, chk, fPA, fPB, fBit, fZero, u6])

theorem intersect (d : VReg) (a : VReg) (b : VReg) (pa : Bool) (pb : Bool) : Statement (.intersect d a b pa pb) := by
  exact .of rfl (by simp [Instr.Decodes, decode_22, dec22, isX_22, chained, chk, fPA, fPB, fBit, fZero])

theorem prune (d : VReg) (a : VReg) (b : VReg) (pa : Bool) (pb : Bool) (m : BitVec 6) (logn : BitVec 3) : Statement (.prune d a b pa pb m logn) := by
  exact .of rfl (by simp [Instr.Decodes, decode_23, dec23, isX_23, chained, chk, fPA, fPB, fBit, fZero])

theorem act (d : VReg) (a : VReg) (pa : Bool) (tbl : BitVec 2) : Statement (.act d a pa tbl) := by
  exact .of rfl (by simp [Instr.Decodes, decode_23, dec23, isX_23, chained, chk, fPA, fPB, fBit, fZero])

theorem actld (d : VReg) (a : UReg) : Statement (.actld d a) := by
  exact .of rfl (by simp [Instr.Decodes, decode_23, dec23, isX_23, chained, chk, fPA, fPB, fBit, fZero, u6])

theorem amax (d : BitVec 6) (a : BitVec 6) (pa : Bool) (u : Bool) (size : Bool) (scope : BitVec 4) : Statement (.amax d a pa u size scope) := by
  exact .of rfl (by simp [Instr.Decodes, decode_23, dec23, isX_23, chained, chk, fPA, fPB, fBit, fZero])

theorem vtos (d : UReg) (a : VReg) (pa : Bool) : Statement (.vtos d a pa) := by
  exact .of rfl (by simp [Instr.Decodes, decode_24, dec24, isX_24, chained, chk, fPA, fPB, fBit, fZero, u6])

theorem stov (d : VReg) (a : UReg) : Statement (.stov d a) := by
  exact .of rfl (by simp [Instr.Decodes, decode_24, dec24, isX_24, chained, chk, fPA, fPB, fBit, fZero, u6])

theorem uadd (d : UReg) (a : UReg) (b : UReg) : Statement (.uadd d a b) := by
  exact .of rfl (by simp [Instr.Decodes, decode_28, dec28, isX_28, chained, chk, fPA, fPB, fBit, fZero])

theorem uaddImm (d : UReg) (a : UReg) (imm : BitVec 9) : Statement (.uaddImm d a imm) := by
  exact .of rfl (by simp [Instr.Decodes, decode_28, dec28, isX_28, chained, chk, fPA, fPB, fBit, fZero])

theorem usub (d : UReg) (a : UReg) (b : UReg) : Statement (.usub d a b) := by
  exact .of rfl (by simp [Instr.Decodes, decode_28, dec28, isX_28, chained, chk, fPA, fPB, fBit, fZero])

theorem usubImm (d : UReg) (a : UReg) (imm : BitVec 9) : Statement (.usubImm d a imm) := by
  exact .of rfl (by simp [Instr.Decodes, decode_28, dec28, isX_28, chained, chk, fPA, fPB, fBit, fZero])

theorem uand (d : UReg) (a : UReg) (b : UReg) : Statement (.uand d a b) := by
  exact .of rfl (by simp [Instr.Decodes, decode_28, dec28, isX_28, chained, chk, fPA, fPB, fBit, fZero])

theorem uandImm (d : UReg) (a : UReg) (imm : BitVec 9) : Statement (.uandImm d a imm) := by
  exact .of rfl (by simp [Instr.Decodes, decode_28, dec28, isX_28, chained, chk, fPA, fPB, fBit, fZero])

theorem uor (d : UReg) (a : UReg) (b : UReg) : Statement (.uor d a b) := by
  exact .of rfl (by simp [Instr.Decodes, decode_28, dec28, isX_28, chained, chk, fPA, fPB, fBit, fZero])

theorem uorImm (d : UReg) (a : UReg) (imm : BitVec 9) : Statement (.uorImm d a imm) := by
  exact .of rfl (by simp [Instr.Decodes, decode_28, dec28, isX_28, chained, chk, fPA, fPB, fBit, fZero])

theorem uxor (d : UReg) (a : UReg) (b : UReg) : Statement (.uxor d a b) := by
  exact .of rfl (by simp [Instr.Decodes, decode_28, dec28, isX_28, chained, chk, fPA, fPB, fBit, fZero])

theorem uxorImm (d : UReg) (a : UReg) (imm : BitVec 9) : Statement (.uxorImm d a imm) := by
  exact .of rfl (by simp [Instr.Decodes, decode_28, dec28, isX_28, chained, chk, fPA, fPB, fBit, fZero])

theorem ushl (d : UReg) (a : UReg) (b : UReg) : Statement (.ushl d a b) := by
  exact .of rfl (by simp [Instr.Decodes, decode_28, dec28, isX_28, chained, chk, fPA, fPB, fBit, fZero])

theorem ushlImm (d : UReg) (a : UReg) (imm : BitVec 9) : Statement (.ushlImm d a imm) := by
  exact .of rfl (by simp [Instr.Decodes, decode_28, dec28, isX_28, chained, chk, fPA, fPB, fBit, fZero])

theorem ushr (d : UReg) (a : UReg) (b : UReg) : Statement (.ushr d a b) := by
  exact .of rfl (by simp [Instr.Decodes, decode_28, dec28, isX_28, chained, chk, fPA, fPB, fBit, fZero])

theorem ushrImm (d : UReg) (a : UReg) (imm : BitVec 9) : Statement (.ushrImm d a imm) := by
  exact .of rfl (by simp [Instr.Decodes, decode_28, dec28, isX_28, chained, chk, fPA, fPB, fBit, fZero])

theorem umov (d : UReg) (b : UReg) : Statement (.umov d b) := by
  exact .of rfl (by simp [Instr.Decodes, decode_28, dec28, isX_28, chained, chk, fPA, fPB, fBit, fZero])

theorem umovImm (d : UReg) (imm : BitVec 9) : Statement (.umovImm d imm) := by
  exact .of rfl (by simp [Instr.Decodes, decode_28, dec28, isX_28, chained, chk, fPA, fPB, fBit, fZero])

theorem bra (off : BitVec 24) : Statement (.bra off) := by
  exact .of rfl (by simp [Instr.Decodes, decode_40, isX_40, chained, chk, fPA, fPB, fBit, fZero])

theorem call (off : BitVec 24) : Statement (.call off) := by
  exact .of rfl (by simp [Instr.Decodes, decode_41, isX_41, chained, chk, fPA, fPB, fBit, fZero])

theorem brc (a : VReg) (pa : Bool) (cond : BitVec 4) (set : BitVec 2) (rz : Bool) (off : BitVec 24) : Statement (.brc a pa cond set rz off) := by
  exact .of rfl (by simp [Instr.Decodes, decode_42, dec42, isX_42, chained, chk, fPA, fPB, fBit, fZero])

theorem meet (clr : Bool) (off : BitVec 24) : Statement (.meet clr off) := by
  exact .of rfl (by simp [Instr.Decodes, decode_42, dec42, isX_42, chained, chk, fPA, fPB, fBit, fZero])

theorem bar (d : VReg) (n : BitVec 4) : Statement (.bar d n) := by
  exact .of rfl (by simp [Instr.Decodes, decode_43, dec43, isX_43, chained, chk, fPA, fPB, fBit, fZero])

theorem barArrive (n : BitVec 4) : Statement (.barArrive n) := by
  exact .of rfl (by simp [Instr.Decodes, decode_43, dec43, isX_43, chained, chk, fPA, fPB, fBit, fZero])

theorem barWait (d : VReg) (n : BitVec 4) : Statement (.barWait d n) := by
  exact .of rfl (by simp [Instr.Decodes, decode_43, dec43, isX_43, chained, chk, fPA, fPB, fBit, fZero])

theorem carve (d : VReg) (l1g : BitVec 4) (scrg : BitVec 5) (n : BitVec 4) : Statement (.carve d l1g scrg n) := by
  exact .of rfl (by simp [Instr.Decodes, decode_43, dec43, isX_43, chained, chk, fPA, fPB, fBit, fZero])

theorem phase : Statement (.phase) := by
  exact .of rfl (by simp [Instr.Decodes, decode_43, dec43, isX_43, chained, chk, fPA, fPB, fBit, fZero])

theorem spawn (d : VReg) (a : VReg) (b : VReg) (pa : Bool) (pb : Bool) (fr : Bool) (join : BitVec 12) (edge : BitVec 10) : Statement (.spawn d a b pa pb fr join edge) := by
  exact .of rfl (by simp [Instr.Decodes, decode_43, dec43, isX_43, chained, chk, fPA, fPB, fBit, fZero])

theorem emit (d : VReg) (a : VReg) (b : VReg) (pa : Bool) (pb : Bool) (fr : Bool) (join : BitVec 12) (edge : BitVec 10) : Statement (.emit d a b pa pb fr join edge) := by
  exact .of rfl (by simp [Instr.Decodes, decode_43, dec43, isX_43, chained, chk, fPA, fPB, fBit, fZero])

theorem join (d : VReg) (a : VReg) (pa : Bool) : Statement (.join d a pa) := by
  exact .of rfl (by simp [Instr.Decodes, decode_43, dec43, isX_43, chained, chk, fPA, fPB, fBit, fZero])

theorem finish (a : VReg) (pa : Bool) : Statement (.finish a pa) := by
  exact .of rfl (by simp [Instr.Decodes, decode_43, dec43, isX_43, chained, chk, fPA, fPB, fBit, fZero])

theorem mcall (p3 : BitVec 6) (p2 : BitVec 6) (p1 : BitVec 6) (p0 : BitVec 6) (slot : BitVec 6) : Statement (.mcall p3 p2 p1 p0 slot) := by
  exact .of rfl (by simp [Instr.Decodes, decode_44, dec44, isX_44, chained, chk, fPA, fPB, fBit, fZero])

theorem mload (d : VReg) (a : UReg) (slot : BitVec 6) : Statement (.mload d a slot) := by
  exact .of rfl (by simp [Instr.Decodes, decode_44, dec44, isX_44, chained, chk, fPA, fPB, fBit, fZero, u6])

theorem trap (code : BitVec 16) : Statement (.trap code) := by
  exact .of rfl (by simp [Instr.Decodes, decode_44, dec44, isX_44, chained, chk, fPA, fPB, fBit, fZero])

theorem svc (code : BitVec 16) : Statement (.svc code) := by
  exact .of rfl (by simp [Instr.Decodes, decode_44, dec44, isX_44, chained, chk, fPA, fPB, fBit, fZero])

theorem eret : Statement (.eret) := by
  exact .of rfl (by simp [Instr.Decodes, decode_44, dec44, isX_44, chained, chk, fPA, fPB, fBit, fZero])

theorem rdsys (d : VReg) (w64 : Bool) (sreg : BitVec 16) : Statement (.rdsys d w64 sreg) := by
  exact .of rfl (by simp [Instr.Decodes, decode_44, dec44, isX_44, chained, chk, fPA, fPB, fBit, fZero])

theorem wrsys (a : VReg) (pa : Bool) (w64 : Bool) (sreg : BitVec 16) : Statement (.wrsys a pa w64 sreg) := by
  exact .of rfl (by simp [Instr.Decodes, decode_44, dec44, isX_44, chained, chk, fPA, fPB, fBit, fZero])

theorem jmp (a : VReg) (pa : Bool) : Statement (.jmp a pa) := by
  exact .of rfl (by simp [Instr.Decodes, decode_45, dec45, isX_45, chained, chk, fPA, fPB, fBit, fZero])

theorem callr (d : VReg) (a : VReg) (pa : Bool) : Statement (.callr d a pa) := by
  exact .of rfl (by simp [Instr.Decodes, decode_45, dec45, isX_45, chained, chk, fPA, fPB, fBit, fZero])

theorem ret (a : VReg) (pa : Bool) : Statement (.ret a pa) := by
  exact .of rfl (by simp [Instr.Decodes, decode_45, dec45, isX_45, chained, chk, fPA, fPB, fBit, fZero])

theorem exit : Statement (.exit) := by
  exact .of rfl (by simp [Instr.Decodes, decode_45, dec45, isX_45, chained, chk, fPA, fPB, fBit, fZero])

theorem nop : Statement (.nop) := by
  exact .of rfl (by simp [Instr.Decodes, decode_45, dec45, isX_45, chained, chk, fPA, fPB, fBit, fZero])

theorem yield : Statement (.yield) := by
  exact .of rfl (by simp [Instr.Decodes, decode_45, dec45, isX_45, chained, chk, fPA, fPB, fBit, fZero])

theorem elect (d : VReg) : Statement (.elect d) := by
  exact .of rfl (by simp [Instr.Decodes, decode_45, dec45, isX_45, chained, chk, fPA, fPB, fBit, fZero])

theorem sprd (d : VReg) (sel : BitVec 6) : Statement (.sprd d sel) := by
  exact .of rfl (by simp [Instr.Decodes, decode_45, dec45, isX_45, chained, chk, fPA, fPB, fBit, fZero])

theorem spwr (b : VReg) (pb : Bool) : Statement (.spwr b pb) := by
  exact .of rfl (by simp [Instr.Decodes, decode_45, dec45, isX_45, chained, chk, fPA, fPB, fBit, fZero])

theorem ldN8 (t : BitVec 6) (a : BitVec 6) (u : Bool) : Statement (.ldN8 t a u) := by
  exact .of rfl (by simp [Instr.Decodes, decode_50, dec50, isX_50, chained, chk, fPA, fPB, fBit, fZero, auxU])

theorem ldI8 (t : BitVec 6) (a : BitVec 6) (u : Bool) : Statement (.ldI8 t a u) := by
  exact .of rfl (by simp [Instr.Decodes, decode_50, dec50, isX_50, chained, chk, fPA, fPB, fBit, fZero, auxU])

theorem ldN16 (t : BitVec 6) (a : BitVec 6) (u : Bool) : Statement (.ldN16 t a u) := by
  exact .of rfl (by simp [Instr.Decodes, decode_50, dec50, isX_50, chained, chk, fPA, fPB, fBit, fZero, auxU])

theorem ldI16 (t : BitVec 6) (a : BitVec 6) (u : Bool) : Statement (.ldI16 t a u) := by
  exact .of rfl (by simp [Instr.Decodes, decode_50, dec50, isX_50, chained, chk, fPA, fPB, fBit, fZero, auxU])

theorem ldN32 (t : BitVec 6) (a : BitVec 6) (u : Bool) : Statement (.ldN32 t a u) := by
  exact .of rfl (by simp [Instr.Decodes, decode_50, dec50, isX_50, chained, chk, fPA, fPB, fBit, fZero, auxU])

theorem ldN64 (t : BitVec 6) (a : BitVec 6) (u : Bool) : Statement (.ldN64 t a u) := by
  exact .of rfl (by simp [Instr.Decodes, decode_50, dec50, isX_50, chained, chk, fPA, fPB, fBit, fZero, auxU])

theorem ldN32x4 (t : BitVec 6) (a : BitVec 6) (u : Bool) : Statement (.ldN32x4 t a u) := by
  exact .of rfl (by simp [Instr.Decodes, decode_50, dec50, isX_50, chained, chk, fPA, fPB, fBit, fZero, auxU])

theorem stN8 (t : BitVec 6) (a : BitVec 6) (u : Bool) : Statement (.stN8 t a u) := by
  exact .of rfl (by simp [Instr.Decodes, decode_51, dec51, isX_51, chained, chk, fPA, fPB, fBit, fZero, auxU])

theorem stN16 (t : BitVec 6) (a : BitVec 6) (u : Bool) : Statement (.stN16 t a u) := by
  exact .of rfl (by simp [Instr.Decodes, decode_51, dec51, isX_51, chained, chk, fPA, fPB, fBit, fZero, auxU])

theorem stN32 (t : BitVec 6) (a : BitVec 6) (u : Bool) : Statement (.stN32 t a u) := by
  exact .of rfl (by simp [Instr.Decodes, decode_51, dec51, isX_51, chained, chk, fPA, fPB, fBit, fZero, auxU])

theorem stN64 (t : BitVec 6) (a : BitVec 6) (u : Bool) : Statement (.stN64 t a u) := by
  exact .of rfl (by simp [Instr.Decodes, decode_51, dec51, isX_51, chained, chk, fPA, fPB, fBit, fZero, auxU])

theorem stN32x4 (t : BitVec 6) (a : BitVec 6) (u : Bool) : Statement (.stN32x4 t a u) := by
  exact .of rfl (by simp [Instr.Decodes, decode_51, dec51, isX_51, chained, chk, fPA, fPB, fBit, fZero, auxU])

theorem uldN32 (t : UReg) (a : BitVec 6) (u : Bool) : Statement (.uldN32 t a u) := by
  exact .of rfl (by simp [Instr.Decodes, decode_52, dec52, isX_52, chained, chk, fPA, fPB, fBit, fZero, auxU, u6])

theorem uldN64 (t : UReg) (a : BitVec 6) (u : Bool) : Statement (.uldN64 t a u) := by
  exact .of rfl (by simp [Instr.Decodes, decode_52, dec52, isX_52, chained, chk, fPA, fPB, fBit, fZero, auxU, u6])

theorem ustN32 (t : UReg) (a : BitVec 6) (u : Bool) : Statement (.ustN32 t a u) := by
  exact .of rfl (by simp [Instr.Decodes, decode_52, dec52, isX_52, chained, chk, fPA, fPB, fBit, fZero, auxU, u6])

theorem ustN64 (t : UReg) (a : BitVec 6) (u : Bool) : Statement (.ustN64 t a u) := by
  exact .of rfl (by simp [Instr.Decodes, decode_52, dec52, isX_52, chained, chk, fPA, fPB, fBit, fZero, auxU, u6])

theorem ldsN32 (t : BitVec 6) (a : BitVec 6) (u : Bool) : Statement (.ldsN32 t a u) := by
  exact .of rfl (by simp [Instr.Decodes, decode_53, dec53, isX_53, chained, chk, fPA, fPB, fBit, fZero, auxU])

theorem ldsN64 (t : BitVec 6) (a : BitVec 6) (u : Bool) : Statement (.ldsN64 t a u) := by
  exact .of rfl (by simp [Instr.Decodes, decode_53, dec53, isX_53, chained, chk, fPA, fPB, fBit, fZero, auxU])

theorem ldsN32x4 (t : BitVec 6) (a : BitVec 6) (u : Bool) : Statement (.ldsN32x4 t a u) := by
  exact .of rfl (by simp [Instr.Decodes, decode_53, dec53, isX_53, chained, chk, fPA, fPB, fBit, fZero, auxU])

theorem stsN32 (t : BitVec 6) (a : BitVec 6) (u : Bool) : Statement (.stsN32 t a u) := by
  exact .of rfl (by simp [Instr.Decodes, decode_53, dec53, isX_53, chained, chk, fPA, fPB, fBit, fZero, auxU])

theorem stsN64 (t : BitVec 6) (a : BitVec 6) (u : Bool) : Statement (.stsN64 t a u) := by
  exact .of rfl (by simp [Instr.Decodes, decode_53, dec53, isX_53, chained, chk, fPA, fPB, fBit, fZero, auxU])

theorem stsN32x4 (t : BitVec 6) (a : BitVec 6) (u : Bool) : Statement (.stsN32x4 t a u) := by
  exact .of rfl (by simp [Instr.Decodes, decode_53, dec53, isX_53, chained, chk, fPA, fPB, fBit, fZero, auxU])

theorem gather (t : VReg) (a : VReg) (sz : BitVec 2) : Statement (.gather t a sz) := by
  exact .of rfl (by simp [Instr.Decodes, decode_53, dec53, isX_53, chained, chk, fPA, fPB, fBit, fZero])

theorem scatter (t : VReg) (a : VReg) (sz : BitVec 2) : Statement (.scatter t a sz) := by
  exact .of rfl (by simp [Instr.Decodes, decode_53, dec53, isX_53, chained, chk, fPA, fPB, fBit, fZero])

theorem atomAdd (t : VReg) (a : VReg) (scope : BitVec 4) (sc : Bool) (ty : BitVec 3) : Statement (.atomAdd t a scope sc ty) := by
  exact .of rfl (by simp [Instr.Decodes, decode_54, dec54, isX_54, chained, chk, fPA, fPB, fBit, fZero])

theorem atomMin (t : VReg) (a : VReg) (scope : BitVec 4) (sc : Bool) (ty : BitVec 3) : Statement (.atomMin t a scope sc ty) := by
  exact .of rfl (by simp [Instr.Decodes, decode_54, dec54, isX_54, chained, chk, fPA, fPB, fBit, fZero])

theorem atomMax (t : VReg) (a : VReg) (scope : BitVec 4) (sc : Bool) (ty : BitVec 3) : Statement (.atomMax t a scope sc ty) := by
  exact .of rfl (by simp [Instr.Decodes, decode_54, dec54, isX_54, chained, chk, fPA, fPB, fBit, fZero])

theorem atomAnd (t : VReg) (a : VReg) (scope : BitVec 4) (sc : Bool) (ty : BitVec 3) : Statement (.atomAnd t a scope sc ty) := by
  exact .of rfl (by simp [Instr.Decodes, decode_54, dec54, isX_54, chained, chk, fPA, fPB, fBit, fZero])

theorem atomOr (t : VReg) (a : VReg) (scope : BitVec 4) (sc : Bool) (ty : BitVec 3) : Statement (.atomOr t a scope sc ty) := by
  exact .of rfl (by simp [Instr.Decodes, decode_54, dec54, isX_54, chained, chk, fPA, fPB, fBit, fZero])

theorem atomXor (t : VReg) (a : VReg) (scope : BitVec 4) (sc : Bool) (ty : BitVec 3) : Statement (.atomXor t a scope sc ty) := by
  exact .of rfl (by simp [Instr.Decodes, decode_54, dec54, isX_54, chained, chk, fPA, fPB, fBit, fZero])

theorem atomXchg (t : VReg) (a : VReg) (scope : BitVec 4) (sc : Bool) (ty : BitVec 3) : Statement (.atomXchg t a scope sc ty) := by
  exact .of rfl (by simp [Instr.Decodes, decode_54, dec54, isX_54, chained, chk, fPA, fPB, fBit, fZero])

theorem atomCas (t : VReg) (a : VReg) (scope : BitVec 4) (sc : Bool) (ty : BitVec 3) : Statement (.atomCas t a scope sc ty) := by
  exact .of rfl (by simp [Instr.Decodes, decode_54, dec54, isX_54, chained, chk, fPA, fPB, fBit, fZero])

theorem redAdd (t : VReg) (a : VReg) (scope : BitVec 4) (sc : Bool) (ty : BitVec 3) : Statement (.redAdd t a scope sc ty) := by
  exact .of rfl (by simp [Instr.Decodes, decode_54, dec54, isX_54, chained, chk, fPA, fPB, fBit, fZero])

theorem redMin (t : VReg) (a : VReg) (scope : BitVec 4) (sc : Bool) (ty : BitVec 3) : Statement (.redMin t a scope sc ty) := by
  exact .of rfl (by simp [Instr.Decodes, decode_54, dec54, isX_54, chained, chk, fPA, fPB, fBit, fZero])

theorem redMax (t : VReg) (a : VReg) (scope : BitVec 4) (sc : Bool) (ty : BitVec 3) : Statement (.redMax t a scope sc ty) := by
  exact .of rfl (by simp [Instr.Decodes, decode_54, dec54, isX_54, chained, chk, fPA, fPB, fBit, fZero])

theorem scld (t : VReg) (a : VReg) (scope : BitVec 4) (sz : BitVec 2) : Statement (.scld t a scope sz) := by
  exact .of rfl (by simp [Instr.Decodes, decode_55, dec55, isX_55, chained, chk, fPA, fPB, fBit, fZero])

theorem scst (t : VReg) (a : VReg) (scope : BitVec 4) (sz : BitVec 2) : Statement (.scst t a scope sz) := by
  exact .of rfl (by simp [Instr.Decodes, decode_55, dec55, isX_55, chained, chk, fPA, fPB, fBit, fZero])

theorem acq (t : VReg) (a : VReg) (scope : BitVec 4) : Statement (.acq t a scope) := by
  exact .of rfl (by simp [Instr.Decodes, decode_55, dec55, isX_55, chained, chk, fPA, fPB, fBit, fZero])

theorem rel (a : VReg) (scope : BitVec 4) : Statement (.rel a scope) := by
  exact .of rfl (by simp [Instr.Decodes, decode_55, dec55, isX_55, chained, chk, fPA, fPB, fBit, fZero])

theorem bind (t : VReg) (a : VReg) : Statement (.bind t a) := by
  exact .of rfl (by simp [Instr.Decodes, decode_55, dec55, isX_55, chained, chk, fPA, fPB, fBit, fZero])

theorem fenceAll (scope : BitVec 4) : Statement (.fenceAll scope) := by
  exact .of rfl (by simp [Instr.Decodes, decode_55, dec55, isX_55, chained, chk, fPA, fPB, fBit, fZero])

theorem copy (d : UReg) (a : UReg) (b : UReg) (w : CopyW) : Statement (.copy d a b w) := by
  exact .of rfl (by simp [Instr.Decodes, decode_56, dec56, isX_56, chained, chk, fPA, fPB, fBit, fZero, u6])

theorem copyWait (d : VReg) (a : UReg) (ch : BitVec 4) : Statement (.copyWait d a ch) := by
  exact .of rfl (by simp [Instr.Decodes, decode_56, dec56, isX_56, chained, chk, fPA, fPB, fBit, fZero, u6])

theorem copyQuery (d : VReg) (clr : Bool) (ch : BitVec 4) : Statement (.copyQuery d clr ch) := by
  exact .of rfl (by simp [Instr.Decodes, decode_56, dec56, isX_56, chained, chk, fPA, fPB, fBit, fZero])

theorem prefetch (a : UReg) (l1 : Bool) : Statement (.prefetch a l1) := by
  exact .of rfl (by simp [Instr.Decodes, decode_56, dec56, isX_56, chained, chk, fPA, fPB, fBit, fZero, u6])

theorem copyScatter (d : UReg) (a : UReg) (b : UReg) (w : RowCopyW) : Statement (.copyScatter d a b w) := by
  exact .of rfl (by simp [Instr.Decodes, decode_56, dec56, decRowCopy, isX_56, chained, chk, fPA, fPB, fBit, fZero, u6])

theorem copyGather (d : UReg) (a : UReg) (b : UReg) (w : RowCopyW) : Statement (.copyGather d a b w) := by
  exact .of rfl (by simp [Instr.Decodes, decode_56, dec56, decRowCopy, isX_56, chained, chk, fPA, fPB, fBit, fZero, u6])

theorem tstclr (d : VReg) (mask : BitVec 4) : Statement (.tstclr d mask) := by
  exact .of rfl (by simp [Instr.Decodes, decode_56, dec56, isX_56, chained, chk, fPA, fPB, fBit, fZero])

theorem cld (t : VReg) (a : VReg) (h : BitVec 4) : Statement (.cld t a h) := by
  exact .of rfl (by simp [Instr.Decodes, decode_58, dec58, isX_58, chained, chk, fPA, fPB, fBit, fZero])

theorem cst (t : VReg) (a : VReg) (h : BitVec 4) : Statement (.cst t a h) := by
  exact .of rfl (by simp [Instr.Decodes, decode_58, dec58, isX_58, chained, chk, fPA, fPB, fBit, fZero])

theorem cred (t : VReg) (a : VReg) (h : BitVec 4) : Statement (.cred t a h) := by
  exact .of rfl (by simp [Instr.Decodes, decode_58, dec58, isX_58, chained, chk, fPA, fPB, fBit, fZero])

theorem cnext (t : VReg) (a : VReg) (h : BitVec 4) : Statement (.cnext t a h) := by
  exact .of rfl (by simp [Instr.Decodes, decode_58, dec58, isX_58, chained, chk, fPA, fPB, fBit, fZero])

theorem cprobe (t : VReg) (a : VReg) (h : BitVec 4) : Statement (.cprobe t a h) := by
  exact .of rfl (by simp [Instr.Decodes, decode_58, dec58, isX_58, chained, chk, fPA, fPB, fBit, fZero])

theorem collA2a (a : UReg) (b : UReg) (scope : BitVec 4) : Statement (.collA2a a b scope) := by
  exact .of rfl (by simp [Instr.Decodes, decode_59, dec59, isX_59, chained, chk, fPA, fPB, fBit, fZero, u6])

theorem collReduce (a : UReg) (b : UReg) (scope : BitVec 4) : Statement (.collReduce a b scope) := by
  exact .of rfl (by simp [Instr.Decodes, decode_59, dec59, isX_59, chained, chk, fPA, fPB, fBit, fZero, u6])

theorem collAllred (a : UReg) (b : UReg) (scope : BitVec 4) : Statement (.collAllred a b scope) := by
  exact .of rfl (by simp [Instr.Decodes, decode_59, dec59, isX_59, chained, chk, fPA, fPB, fBit, fZero, u6])

theorem collComp (a : UReg) (b : UReg) (scope : BitVec 4) : Statement (.collComp a b scope) := by
  exact .of rfl (by simp [Instr.Decodes, decode_59, dec59, isX_59, chained, chk, fPA, fPB, fBit, fZero, u6])

theorem mma (d : VReg) (a : VReg) (pa : Bool) (b : UReg) (tile : BitVec 4) : Statement (.mma d a pa b tile) := by
  exact .of rfl (by simp [Instr.Decodes, decode_70, dec70, isX_70, chained, chk, fPA, fPB, fBit, fZero, u6])

theorem mmaZ (d : VReg) (a : VReg) (pa : Bool) (b : UReg) (tile : BitVec 4) : Statement (.mmaZ d a pa b tile) := by
  exact .of rfl (by simp [Instr.Decodes, decode_70, dec70, isX_70, chained, chk, fPA, fPB, fBit, fZero, u6])

theorem acld (d : VReg) (a : UReg) (tr : Bool) (tile : BitVec 4) : Statement (.acld d a tr tile) := by
  exact .of rfl (by simp [Instr.Decodes, decode_71, dec71, isX_71, chained, chk, fPA, fPB, fBit, fZero, u6])

theorem acst (d : VReg) (a : UReg) (tr : Bool) (tile : BitVec 4) : Statement (.acst d a tr tile) := by
  exact .of rfl (by simp [Instr.Decodes, decode_71, dec71, isX_71, chained, chk, fPA, fPB, fBit, fZero, u6])

theorem acz (d : VReg) (tile : BitVec 4) : Statement (.acz d tile) := by
  exact .of rfl (by simp [Instr.Decodes, decode_71, dec71, isX_71, chained, chk, fPA, fPB, fBit, fZero])

theorem accvt (d : VReg) (a : UReg) (b : VReg) (pb : Bool) (tile : BitVec 4) : Statement (.accvt d a b pb tile) := by
  exact .of rfl (by simp [Instr.Decodes, decode_71, dec71, isX_71, chained, chk, fPA, fPB, fBit, fZero, u6])

theorem route (d : VReg) (a : UReg) : Statement (.route d a) := by
  exact .of rfl (by simp [Instr.Decodes, decode_72, dec72, isX_72, chained, chk, fPA, fPB, fBit, fZero, u6])

theorem sort (a : UReg) (b : UReg) (scope : BitVec 4) : Statement (.sort a b scope) := by
  exact .of rfl (by simp [Instr.Decodes, decode_72, dec72, isX_72, chained, chk, fPA, fPB, fBit, fZero, u6])

theorem sproj (d : VReg) (a : VReg) (b : VReg) (pa : Bool) (pb : Bool) : Statement (.sproj d a b pa pb) := by
  exact .of rfl (by simp [Instr.Decodes, decode_73, dec73, isX_73, chained, chk, fPA, fPB, fBit, fZero])

theorem splat (d : VReg) (a : VReg) (b : VReg) (pa : Bool) (pb : Bool) : Statement (.splat d a b pa pb) := by
  exact .of rfl (by simp [Instr.Decodes, decode_73, dec73, isX_73, chained, chk, fPA, fPB, fBit, fZero])

theorem blend (d : VReg) (a : VReg) (pa : Bool) (b : VReg) : Statement (.blend d a pa b) := by
  exact .of rfl (by simp [Instr.Decodes, decode_73, dec73, isX_73, chained, chk, fPA, fPB, fBit, fZero])

theorem blendBwd (d : VReg) (a : VReg) (b : VReg) (pb : Bool) : Statement (.blendBwd d a b pb) := by
  exact .of rfl (by simp [Instr.Decodes, decode_73, dec73, isX_73, chained, chk, fPA, fPB, fBit, fZero])

theorem redF32 (t : VReg) (a : VReg) (scope : BitVec 4) (w : BitVec 2) : Statement (.redF32 t a scope w) := by
  exact .of rfl (by simp [Instr.Decodes, decode_74, dec74, isX_74, chained, chk, fPA, fPB, fBit, fZero])

theorem cflush : Statement (.cflush) := by
  exact .of rfl (by simp [Instr.Decodes, decode_74, dec74, isX_74, chained, chk, fPA, fPB, fBit, fZero])

theorem trace (a : VReg) (pa : Bool) (b : UReg) (w : TraceW) : Statement (.trace a pa b w) := by
  exact .of rfl (by simp [Instr.Decodes, decode_75, dec75, isX_75, chained, chk, fPA, fPB, fBit, fZero, u6])

theorem trres (d : VReg) (sel : Bool) : Statement (.trres d sel) := by
  exact .of rfl (by simp [Instr.Decodes, decode_75, dec75, isX_75, chained, chk, fPA, fPB, fBit, fZero])

theorem smpld (d : VReg) (a : UReg) (slot : BitVec 4) : Statement (.smpld d a slot) := by
  exact .of rfl (by simp [Instr.Decodes, decode_76, dec76, isX_76, chained, chk, fPA, fPB, fBit, fZero, u6])

theorem sample (d : VReg) (a : VReg) (pa : Bool) (b : UReg) (slot : BitVec 4) : Statement (.sample d a pa b slot) := by
  exact .of rfl (by simp [Instr.Decodes, decode_76, dec76, isX_76, chained, chk, fPA, fPB, fBit, fZero, u6])

theorem rast (d : VReg) (a : VReg) (pa : Bool) (b : UReg) : Statement (.rast d a pa b) := by
  exact .of rfl (by simp [Instr.Decodes, decode_77, dec77, isX_77, chained, chk, fPA, fPB, fBit, fZero, u6])

theorem rastFlush (d : VReg) : Statement (.rastFlush d) := by
  exact .of rfl (by simp [Instr.Decodes, decode_77, dec77, isX_77, chained, chk, fPA, fPB, fBit, fZero])

theorem pres (a : UReg) (b : UReg) (wscope : BitVec 4) (enc : Bool) (scan : Bool) (head : BitVec 3) : Statement (.pres a b wscope enc scan head) := by
  exact .of rfl (by simp [Instr.Decodes, decode_78, dec78, isX_78, chained, chk, fPA, fPB, fBit, fZero, u6])

theorem yieldExpiry (u : Nat) (g : Nat) (f : Nat) : Statement (.yieldExpiry u g f) := by
  exact Instr.RoundTrips.event rfl

theorem ldCheckDone (u : Nat) (g : Nat) : Statement (.ldCheckDone u g) := by
  exact Instr.RoundTrips.event rfl

theorem loadFill (k : Nat) : Statement (.loadFill k) := by
  exact Instr.RoundTrips.event rfl

theorem scratchpadLoadFill (k : Nat) : Statement (.scratchpadLoadFill k) := by
  exact Instr.RoundTrips.event rfl

theorem lateResultFill (k : Nat) : Statement (.lateResultFill k) := by
  exact Instr.RoundTrips.event rfl

theorem atomicPerform (k : Nat) : Statement (.atomicPerform k) := by
  exact Instr.RoundTrips.event rfl

theorem scOperationPerform (k : Nat) : Statement (.scOperationPerform k) := by
  exact Instr.RoundTrips.event rfl

theorem relPerformed (u : Nat) (t : Nat) : Statement (.relPerformed u t) := by
  exact Instr.RoundTrips.event rfl

theorem fenceAllDone (u : Nat) (t : Nat) : Statement (.fenceAllDone u t) := by
  exact Instr.RoundTrips.event rfl

theorem bindPerformed (u : Nat) (t : Nat) : Statement (.bindPerformed u t) := by
  exact Instr.RoundTrips.event rfl

theorem cflushDone (u : Nat) (t : Nat) : Statement (.cflushDone u t) := by
  exact Instr.RoundTrips.event rfl

theorem l1Eviction (place : Nat) (line : Nat) : Statement (.l1Eviction place line) := by
  exact Instr.RoundTrips.event rfl

theorem cisternAddition (k : Nat) : Statement (.cisternAddition k) := by
  exact Instr.RoundTrips.event rfl

theorem recordArrival (k : Nat) : Statement (.recordArrival k) := by
  exact Instr.RoundTrips.event rfl

theorem joinDecrement (k : Nat) : Statement (.joinDecrement k) := by
  exact Instr.RoundTrips.event rfl

theorem caddyOperation (k : Nat) : Statement (.caddyOperation k) := by
  exact Instr.RoundTrips.event rfl

theorem mmaStart (core : Nat) : Statement (.mmaStart core) := by
  exact Instr.RoundTrips.event rfl

theorem mmaComplete (core : Nat) : Statement (.mmaComplete core) := by
  exact Instr.RoundTrips.event rfl

theorem accumulatorOpComplete (core : Nat) : Statement (.accumulatorOpComplete core) := by
  exact Instr.RoundTrips.event rfl

theorem routeComplete (k : Nat) : Statement (.routeComplete k) := by
  exact Instr.RoundTrips.event rfl

theorem strainerJobStart (die : Nat) : Statement (.strainerJobStart die) := by
  exact Instr.RoundTrips.event rfl

theorem strainerJobDone (die : Nat) : Statement (.strainerJobDone die) := by
  exact Instr.RoundTrips.event rfl

theorem copyStart (u : Nat) (ch : Nat) : Statement (.copyStart u ch) := by
  exact Instr.RoundTrips.event rfl

theorem copyDelivery (u : Nat) (ch : Nat) : Statement (.copyDelivery u ch) := by
  exact Instr.RoundTrips.event rfl

theorem actldComplete (core : Nat) : Statement (.actldComplete core) := by
  exact Instr.RoundTrips.event rfl

theorem mloadComplete (core : Nat) : Statement (.mloadComplete core) := by
  exact Instr.RoundTrips.event rfl

theorem smpldComplete (core : Nat) : Statement (.smpldComplete core) := by
  exact Instr.RoundTrips.event rfl

theorem sampleJob (k : Nat) : Statement (.sampleJob k) := by
  exact Instr.RoundTrips.event rfl

theorem traversalNodeVisit (u : Nat) (t : Nat) : Statement (.traversalNodeVisit u t) := by
  exact Instr.RoundTrips.event rfl

theorem rasteriseTriangle (die : Nat) : Statement (.rasteriseTriangle die) := by
  exact Instr.RoundTrips.event rfl

theorem verticalBlank (head : Nat) : Statement (.verticalBlank head) := by
  exact Instr.RoundTrips.event rfl

theorem presentComplete (head : Nat) : Statement (.presentComplete head) := by
  exact Instr.RoundTrips.event rfl

theorem launchEntry (slice : Nat) (queue : Nat) : Statement (.launchEntry slice queue) := by
  exact Instr.RoundTrips.event rfl

theorem teamPlacement (slice : Nat) : Statement (.teamPlacement slice) := by
  exact Instr.RoundTrips.event rfl

theorem agingQuantum (l : Nat) : Statement (.agingQuantum l) := by
  exact Instr.RoundTrips.event rfl

theorem preemptionWaitEnd (u : Nat) : Statement (.preemptionWaitEnd u) := by
  exact Instr.RoundTrips.event rfl

theorem launchEnd (l : Nat) : Statement (.launchEnd l) := by
  exact Instr.RoundTrips.event rfl

theorem phaseFlushPoint (l : Nat) : Statement (.phaseFlushPoint l) := by
  exact Instr.RoundTrips.event rfl

theorem lqDoorbell (inst : Nat) (v : BitVec 32) : Statement (.lqDoorbell inst v) := by
  exact Instr.RoundTrips.event rfl

theorem lqCtlWrite (inst : Nat) (v : BitVec 32) : Statement (.lqCtlWrite inst v) := by
  exact Instr.RoundTrips.event rfl

theorem kettleCtxswSave (slice : Nat) : Statement (.kettleCtxswSave slice) := by
  exact Instr.RoundTrips.event rfl

theorem kettleCtxswRestore (slice : Nat) : Statement (.kettleCtxswRestore slice) := by
  exact Instr.RoundTrips.event rfl

theorem ctxswSaveDone (slice : Nat) : Statement (.ctxswSaveDone slice) := by
  exact Instr.RoundTrips.event rfl

theorem ctxswRestoreDone (slice : Nat) : Statement (.ctxswRestoreDone slice) := by
  exact Instr.RoundTrips.event rfl

theorem resume (slice : Nat) (seq : BitVec 32) : Statement (.resume slice seq) := by
  exact Instr.RoundTrips.event rfl

theorem abortLaunch (slice : Nat) (seq : BitVec 32) : Statement (.abortLaunch slice seq) := by
  exact Instr.RoundTrips.event rfl

theorem resumeOperation (slice : Nat) (seq : BitVec 32) : Statement (.resumeOperation slice seq) := by
  exact Instr.RoundTrips.event rfl

theorem abortOperation (slice : Nat) (seq : BitVec 32) : Statement (.abortOperation slice seq) := by
  exact Instr.RoundTrips.event rfl

theorem abortLaunchBySeq (slice : Nat) (queue : BitVec 2) (seq : BitVec 32) : Statement (.abortLaunchBySeq slice queue seq) := by
  exact Instr.RoundTrips.event rfl

theorem faultqCtlWrite (slice : Nat) (v : BitVec 32) : Statement (.faultqCtlWrite slice v) := by
  exact Instr.RoundTrips.event rfl

theorem dieCarveWrite (die : Nat) (v : BitVec 32) : Statement (.dieCarveWrite die v) := by
  exact Instr.RoundTrips.event rfl

theorem sliceGroupWrite (v : BitVec 32) : Statement (.sliceGroupWrite v) := by
  exact Instr.RoundTrips.event rfl

theorem xlatInvalPage (slice : Nat) (va : Nat) : Statement (.xlatInvalPage slice va) := by
  exact Instr.RoundTrips.event rfl

theorem xlatInvalAll (slice : Nat) : Statement (.xlatInvalAll slice) := by
  exact Instr.RoundTrips.event rfl

theorem xlatInvalDone (slice : Nat) : Statement (.xlatInvalDone slice) := by
  exact Instr.RoundTrips.event rfl

theorem scrSkewWrite (u : Nat) (second : Bool) (v : BitVec 32) : Statement (.scrSkewWrite u second v) := by
  exact Instr.RoundTrips.event rfl

theorem fabricCtlWrite (v : BitVec 32) : Statement (.fabricCtlWrite v) := by
  exact Instr.RoundTrips.event rfl

theorem travNodeueClear (core : Nat) (v : BitVec 64) : Statement (.travNodeueClear core v) := by
  exact Instr.RoundTrips.event rfl

theorem dispCtlWrite (head : Nat) (v : BitVec 32) : Statement (.dispCtlWrite head v) := by
  exact Instr.RoundTrips.event rfl

theorem snapTrigger : Statement (.snapTrigger) := by
  exact Instr.RoundTrips.event rfl

theorem powerCapWrite (v : BitVec 32) : Statement (.powerCapWrite v) := by
  exact Instr.RoundTrips.event rfl

theorem fstepAdjust (watts : BitVec 16) : Statement (.fstepAdjust watts) := by
  exact Instr.RoundTrips.event rfl

theorem fwAttest (buf : Nat) : Statement (.fwAttest buf) := by
  exact Instr.RoundTrips.event rfl

theorem fwStage (buf : Nat) : Statement (.fwStage buf) := by
  exact Instr.RoundTrips.event rfl

theorem fwStatus (buf : Nat) : Statement (.fwStatus buf) := by
  exact Instr.RoundTrips.event rfl

theorem fwMboxResult : Statement (.fwMboxResult) := by
  exact Instr.RoundTrips.event rfl

theorem sysregWrite (sreg : BitVec 16) (v : BitVec 64) : Statement (.sysregWrite sreg v) := by
  exact Instr.RoundTrips.event rfl

theorem reset (ok : Bool) : Statement (.reset ok) := by
  exact Instr.RoundTrips.event rfl

theorem hostLinkTraining (width : Nat) (rate : Nat) : Statement (.hostLinkTraining width rate) := by
  exact Instr.RoundTrips.event rfl

theorem cxlLinkUp (gib : Nat) : Statement (.cxlLinkUp gib) := by
  exact Instr.RoundTrips.event rfl

theorem cxlLinkDown : Statement (.cxlLinkDown) := by
  exact Instr.RoundTrips.event rfl

theorem linePoisoned (line : Nat) : Statement (.linePoisoned line) := by
  exact Instr.RoundTrips.event rfl

theorem correctedError (die : Nat) : Statement (.correctedError die) := by
  exact Instr.RoundTrips.event rfl

theorem slotStart (plane : Nat) : Statement (.slotStart plane) := by
  exact Instr.RoundTrips.event rfl

theorem slotMarker (plane : Nat) (onTime : Bool) : Statement (.slotMarker plane onTime) := by
  exact Instr.RoundTrips.event rfl

theorem slotFrameReceive (plane : Nat) (f : Frame) : Statement (.slotFrameReceive plane f) := by
  exact Instr.RoundTrips.event rfl

theorem remoteRequest (k : Nat) : Statement (.remoteRequest k) := by
  exact Instr.RoundTrips.event rfl

theorem remoteResponse (k : Nat) : Statement (.remoteResponse k) := by
  exact Instr.RoundTrips.event rfl

theorem remoteRefusal (k : Nat) : Statement (.remoteRefusal k) := by
  exact Instr.RoundTrips.event rfl

theorem remoteTimeout (tag : Nat) : Statement (.remoteTimeout tag) := by
  exact Instr.RoundTrips.event rfl

theorem acknowledgment (k : Nat) : Statement (.acknowledgment k) := by
  exact Instr.RoundTrips.event rfl

theorem collectiveChunk (k : Nat) : Statement (.collectiveChunk k) := by
  exact Instr.RoundTrips.event rfl

theorem chunkRefusal (k : Nat) : Statement (.chunkRefusal k) := by
  exact Instr.RoundTrips.event rfl

theorem collectiveTimeout (k : Nat) : Statement (.collectiveTimeout k) := by
  exact Instr.RoundTrips.event rfl

theorem unassignedOpcode (w : BitVec 32) (opw : BitVec 32) : Statement (.unassignedOpcode w opw) := by
  exact Instr.RoundTrips.event rfl

theorem displayportLinkTraining (head : Nat) (width : Nat) (height : Nat) : Statement (.displayportLinkTraining head width height) := by
  exact Instr.RoundTrips.event rfl

end Sys2Proof.Laws.RoundTrip
end

