-- ==== Sys2Proof/Laws/State.lean ====
section
/-!
SUPPORT. What each update of the state leaves in each main field, by definition, so that no later proof unfolds an update.
-/

set_option Elab.async false

namespace Sys2Proof.Machine

open Sys2Proof

variable (s : State)

/-! `setThr` replaces one entry of `threads`. -/

@[simp] theorem State.setThr_at_agenda (u t : Nat) (x : Thread) : (s.setThr u t x).agenda = s.agenda := rfl
@[simp] theorem State.setThr_at_tick (u t : Nat) (x : Thread) : (s.setThr u t x).tick = s.tick := rfl
@[simp] theorem State.setThr_at_iss (u t : Nat) (x : Thread) : (s.setThr u t x).iss = s.iss := rfl
@[simp] theorem State.setThr_at_mem (u t : Nat) (x : Thread) : (s.setThr u t x).mem = s.mem := rfl
@[simp] theorem State.setThr_at_v (u t : Nat) (x : Thread) : (s.setThr u t x).v = s.v := rfl
@[simp] theorem State.setThr_at_empty (u t : Nat) (x : Thread) : (s.setThr u t x).empty = s.empty := rfl
@[simp] theorem State.setThr_at_cc (u t : Nat) (x : Thread) : (s.setThr u t x).cc = s.cc := rfl
@[simp] theorem State.setThr_at_u (u t : Nat) (x : Thread) : (s.setThr u t x).u = s.u := rfl
@[simp] theorem State.setThr_at_upend (u t : Nat) (x : Thread) : (s.setThr u t x).upend = s.upend := rfl
@[simp] theorem State.setThr_at_threads (u t : Nat) (x : Thread) : (s.setThr u t x).threads = NMap.put s.threads (tkey u t) x := rfl
@[simp] theorem State.setThr_at_teams (u t : Nat) (x : Thread) : (s.setThr u t x).teams = s.teams := rfl
@[simp] theorem State.setThr_at_scratch (u t : Nat) (x : Thread) : (s.setThr u t x).scratch = s.scratch := rfl
@[simp] theorem State.setThr_at_tiles (u t : Nat) (x : Thread) : (s.setThr u t x).tiles = s.tiles := rfl
@[simp] theorem State.setThr_at_sys (u t : Nat) (x : Thread) : (s.setThr u t x).sys = s.sys := rfl
@[simp] theorem State.setThr_at_copies (u t : Nat) (x : Thread) : (s.setThr u t x).copies = s.copies := rfl
@[simp] theorem State.setThr_at_launches (u t : Nat) (x : Thread) : (s.setThr u t x).launches = s.launches := rfl

/-! `setTeam` replaces one entry of `teams`. -/

@[simp] theorem State.setTeam_at_agenda (u : Nat) (x : Team) : (s.setTeam u x).agenda = s.agenda := rfl
@[simp] theorem State.setTeam_at_tick (u : Nat) (x : Team) : (s.setTeam u x).tick = s.tick := rfl
@[simp] theorem State.setTeam_at_iss (u : Nat) (x : Team) : (s.setTeam u x).iss = s.iss := rfl
@[simp] theorem State.setTeam_at_mem (u : Nat) (x : Team) : (s.setTeam u x).mem = s.mem := rfl
@[simp] theorem State.setTeam_at_v (u : Nat) (x : Team) : (s.setTeam u x).v = s.v := rfl
@[simp] theorem State.setTeam_at_empty (u : Nat) (x : Team) : (s.setTeam u x).empty = s.empty := rfl
@[simp] theorem State.setTeam_at_cc (u : Nat) (x : Team) : (s.setTeam u x).cc = s.cc := rfl
@[simp] theorem State.setTeam_at_u (u : Nat) (x : Team) : (s.setTeam u x).u = s.u := rfl
@[simp] theorem State.setTeam_at_upend (u : Nat) (x : Team) : (s.setTeam u x).upend = s.upend := rfl
@[simp] theorem State.setTeam_at_threads (u : Nat) (x : Team) : (s.setTeam u x).threads = s.threads := rfl
@[simp] theorem State.setTeam_at_teams (u : Nat) (x : Team) : (s.setTeam u x).teams = NMap.put s.teams u x := rfl
@[simp] theorem State.setTeam_at_scratch (u : Nat) (x : Team) : (s.setTeam u x).scratch = s.scratch := rfl
@[simp] theorem State.setTeam_at_tiles (u : Nat) (x : Team) : (s.setTeam u x).tiles = s.tiles := rfl
@[simp] theorem State.setTeam_at_sys (u : Nat) (x : Team) : (s.setTeam u x).sys = s.sys := rfl
@[simp] theorem State.setTeam_at_copies (u : Nat) (x : Team) : (s.setTeam u x).copies = s.copies := rfl
@[simp] theorem State.setTeam_at_launches (u : Nat) (x : Team) : (s.setTeam u x).launches = s.launches := rfl

/-! `setLaunch` replaces one entry of `launches`. -/

@[simp] theorem State.setLaunch_at_agenda (l : Nat) (x : Launch) : (s.setLaunch l x).agenda = s.agenda := rfl
@[simp] theorem State.setLaunch_at_tick (l : Nat) (x : Launch) : (s.setLaunch l x).tick = s.tick := rfl
@[simp] theorem State.setLaunch_at_iss (l : Nat) (x : Launch) : (s.setLaunch l x).iss = s.iss := rfl
@[simp] theorem State.setLaunch_at_mem (l : Nat) (x : Launch) : (s.setLaunch l x).mem = s.mem := rfl
@[simp] theorem State.setLaunch_at_v (l : Nat) (x : Launch) : (s.setLaunch l x).v = s.v := rfl
@[simp] theorem State.setLaunch_at_empty (l : Nat) (x : Launch) : (s.setLaunch l x).empty = s.empty := rfl
@[simp] theorem State.setLaunch_at_cc (l : Nat) (x : Launch) : (s.setLaunch l x).cc = s.cc := rfl
@[simp] theorem State.setLaunch_at_u (l : Nat) (x : Launch) : (s.setLaunch l x).u = s.u := rfl
@[simp] theorem State.setLaunch_at_upend (l : Nat) (x : Launch) : (s.setLaunch l x).upend = s.upend := rfl
@[simp] theorem State.setLaunch_at_threads (l : Nat) (x : Launch) : (s.setLaunch l x).threads = s.threads := rfl
@[simp] theorem State.setLaunch_at_teams (l : Nat) (x : Launch) : (s.setLaunch l x).teams = s.teams := rfl
@[simp] theorem State.setLaunch_at_scratch (l : Nat) (x : Launch) : (s.setLaunch l x).scratch = s.scratch := rfl
@[simp] theorem State.setLaunch_at_tiles (l : Nat) (x : Launch) : (s.setLaunch l x).tiles = s.tiles := rfl
@[simp] theorem State.setLaunch_at_sys (l : Nat) (x : Launch) : (s.setLaunch l x).sys = s.sys := rfl
@[simp] theorem State.setLaunch_at_copies (l : Nat) (x : Launch) : (s.setLaunch l x).copies = s.copies := rfl
@[simp] theorem State.setLaunch_at_launches (l : Nat) (x : Launch) : (s.setLaunch l x).launches = NMap.put s.launches l x := rfl

/-! `putV` replaces one entry of `v`. -/

@[simp] theorem State.putV_at_agenda (u t r : Nat) (x : Word) : (s.putV u t r x).agenda = s.agenda := rfl
@[simp] theorem State.putV_at_tick (u t r : Nat) (x : Word) : (s.putV u t r x).tick = s.tick := rfl
@[simp] theorem State.putV_at_iss (u t r : Nat) (x : Word) : (s.putV u t r x).iss = s.iss := rfl
@[simp] theorem State.putV_at_mem (u t r : Nat) (x : Word) : (s.putV u t r x).mem = s.mem := rfl
@[simp] theorem State.putV_at_v (u t r : Nat) (x : Word) : (s.putV u t r x).v = NMap.put s.v (vkey u t r) x := rfl
@[simp] theorem State.putV_at_empty (u t r : Nat) (x : Word) : (s.putV u t r x).empty = s.empty := rfl
@[simp] theorem State.putV_at_cc (u t r : Nat) (x : Word) : (s.putV u t r x).cc = s.cc := rfl
@[simp] theorem State.putV_at_u (u t r : Nat) (x : Word) : (s.putV u t r x).u = s.u := rfl
@[simp] theorem State.putV_at_upend (u t r : Nat) (x : Word) : (s.putV u t r x).upend = s.upend := rfl
@[simp] theorem State.putV_at_threads (u t r : Nat) (x : Word) : (s.putV u t r x).threads = s.threads := rfl
@[simp] theorem State.putV_at_teams (u t r : Nat) (x : Word) : (s.putV u t r x).teams = s.teams := rfl
@[simp] theorem State.putV_at_scratch (u t r : Nat) (x : Word) : (s.putV u t r x).scratch = s.scratch := rfl
@[simp] theorem State.putV_at_tiles (u t r : Nat) (x : Word) : (s.putV u t r x).tiles = s.tiles := rfl
@[simp] theorem State.putV_at_sys (u t r : Nat) (x : Word) : (s.putV u t r x).sys = s.sys := rfl
@[simp] theorem State.putV_at_copies (u t r : Nat) (x : Word) : (s.putV u t r x).copies = s.copies := rfl
@[simp] theorem State.putV_at_launches (u t r : Nat) (x : Word) : (s.putV u t r x).launches = s.launches := rfl

/-! `putU` replaces one entry of `u`. -/

@[simp] theorem State.putU_at_agenda (u g r : Nat) (x : Word) : (s.putU u g r x).agenda = s.agenda := rfl
@[simp] theorem State.putU_at_tick (u g r : Nat) (x : Word) : (s.putU u g r x).tick = s.tick := rfl
@[simp] theorem State.putU_at_iss (u g r : Nat) (x : Word) : (s.putU u g r x).iss = s.iss := rfl
@[simp] theorem State.putU_at_mem (u g r : Nat) (x : Word) : (s.putU u g r x).mem = s.mem := rfl
@[simp] theorem State.putU_at_v (u g r : Nat) (x : Word) : (s.putU u g r x).v = s.v := rfl
@[simp] theorem State.putU_at_empty (u g r : Nat) (x : Word) : (s.putU u g r x).empty = s.empty := rfl
@[simp] theorem State.putU_at_cc (u g r : Nat) (x : Word) : (s.putU u g r x).cc = s.cc := rfl
@[simp] theorem State.putU_at_u (u g r : Nat) (x : Word) : (s.putU u g r x).u = NMap.put s.u (ukey u g r) x := rfl
@[simp] theorem State.putU_at_upend (u g r : Nat) (x : Word) : (s.putU u g r x).upend = s.upend := rfl
@[simp] theorem State.putU_at_threads (u g r : Nat) (x : Word) : (s.putU u g r x).threads = s.threads := rfl
@[simp] theorem State.putU_at_teams (u g r : Nat) (x : Word) : (s.putU u g r x).teams = s.teams := rfl
@[simp] theorem State.putU_at_scratch (u g r : Nat) (x : Word) : (s.putU u g r x).scratch = s.scratch := rfl
@[simp] theorem State.putU_at_tiles (u g r : Nat) (x : Word) : (s.putU u g r x).tiles = s.tiles := rfl
@[simp] theorem State.putU_at_sys (u g r : Nat) (x : Word) : (s.putU u g r x).sys = s.sys := rfl
@[simp] theorem State.putU_at_copies (u g r : Nat) (x : Word) : (s.putU u g r x).copies = s.copies := rfl
@[simp] theorem State.putU_at_launches (u g r : Nat) (x : Word) : (s.putU u g r x).launches = s.launches := rfl

/-! `setCc` replaces one entry of `cc`. -/

@[simp] theorem State.setCc_at_agenda (l c : Nat) (x : BitVec 4) : (s.setCc l c x).agenda = s.agenda := rfl
@[simp] theorem State.setCc_at_tick (l c : Nat) (x : BitVec 4) : (s.setCc l c x).tick = s.tick := rfl
@[simp] theorem State.setCc_at_iss (l c : Nat) (x : BitVec 4) : (s.setCc l c x).iss = s.iss := rfl
@[simp] theorem State.setCc_at_mem (l c : Nat) (x : BitVec 4) : (s.setCc l c x).mem = s.mem := rfl
@[simp] theorem State.setCc_at_v (l c : Nat) (x : BitVec 4) : (s.setCc l c x).v = s.v := rfl
@[simp] theorem State.setCc_at_empty (l c : Nat) (x : BitVec 4) : (s.setCc l c x).empty = s.empty := rfl
@[simp] theorem State.setCc_at_cc (l c : Nat) (x : BitVec 4) : (s.setCc l c x).cc = NMap.put s.cc (cckey s.iss.uid (s.tOf l) c) x := rfl
@[simp] theorem State.setCc_at_u (l c : Nat) (x : BitVec 4) : (s.setCc l c x).u = s.u := rfl
@[simp] theorem State.setCc_at_upend (l c : Nat) (x : BitVec 4) : (s.setCc l c x).upend = s.upend := rfl
@[simp] theorem State.setCc_at_threads (l c : Nat) (x : BitVec 4) : (s.setCc l c x).threads = s.threads := rfl
@[simp] theorem State.setCc_at_teams (l c : Nat) (x : BitVec 4) : (s.setCc l c x).teams = s.teams := rfl
@[simp] theorem State.setCc_at_scratch (l c : Nat) (x : BitVec 4) : (s.setCc l c x).scratch = s.scratch := rfl
@[simp] theorem State.setCc_at_tiles (l c : Nat) (x : BitVec 4) : (s.setCc l c x).tiles = s.tiles := rfl
@[simp] theorem State.setCc_at_sys (l c : Nat) (x : BitVec 4) : (s.setCc l c x).sys = s.sys := rfl
@[simp] theorem State.setCc_at_copies (l c : Nat) (x : BitVec 4) : (s.setCc l c x).copies = s.copies := rfl
@[simp] theorem State.setCc_at_launches (l c : Nat) (x : BitVec 4) : (s.setCc l c x).launches = s.launches := rfl

/-! `setEmpty` replaces one entry of `empty`. -/

@[simp] theorem State.setEmpty_at_agenda (u t r : Nat) (b : Bool) : (s.setEmpty u t r b).agenda = s.agenda := rfl
@[simp] theorem State.setEmpty_at_tick (u t r : Nat) (b : Bool) : (s.setEmpty u t r b).tick = s.tick := rfl
@[simp] theorem State.setEmpty_at_iss (u t r : Nat) (b : Bool) : (s.setEmpty u t r b).iss = s.iss := rfl
@[simp] theorem State.setEmpty_at_mem (u t r : Nat) (b : Bool) : (s.setEmpty u t r b).mem = s.mem := rfl
@[simp] theorem State.setEmpty_at_v (u t r : Nat) (b : Bool) : (s.setEmpty u t r b).v = s.v := rfl
@[simp] theorem State.setEmpty_at_empty (u t r : Nat) (b : Bool) : (s.setEmpty u t r b).empty = NMap.put s.empty (vkey u t r) b := rfl
@[simp] theorem State.setEmpty_at_cc (u t r : Nat) (b : Bool) : (s.setEmpty u t r b).cc = s.cc := rfl
@[simp] theorem State.setEmpty_at_u (u t r : Nat) (b : Bool) : (s.setEmpty u t r b).u = s.u := rfl
@[simp] theorem State.setEmpty_at_upend (u t r : Nat) (b : Bool) : (s.setEmpty u t r b).upend = s.upend := rfl
@[simp] theorem State.setEmpty_at_threads (u t r : Nat) (b : Bool) : (s.setEmpty u t r b).threads = s.threads := rfl
@[simp] theorem State.setEmpty_at_teams (u t r : Nat) (b : Bool) : (s.setEmpty u t r b).teams = s.teams := rfl
@[simp] theorem State.setEmpty_at_scratch (u t r : Nat) (b : Bool) : (s.setEmpty u t r b).scratch = s.scratch := rfl
@[simp] theorem State.setEmpty_at_tiles (u t r : Nat) (b : Bool) : (s.setEmpty u t r b).tiles = s.tiles := rfl
@[simp] theorem State.setEmpty_at_sys (u t r : Nat) (b : Bool) : (s.setEmpty u t r b).sys = s.sys := rfl
@[simp] theorem State.setEmpty_at_copies (u t r : Nat) (b : Bool) : (s.setEmpty u t r b).copies = s.copies := rfl
@[simp] theorem State.setEmpty_at_launches (u t r : Nat) (b : Bool) : (s.setEmpty u t r b).launches = s.launches := rfl

/-! `setSys` replaces one entry of `sys`. -/

@[simp] theorem State.setSys_at_agenda (n i : Nat) (x : Nat) : (s.setSys n i x).agenda = s.agenda := rfl
@[simp] theorem State.setSys_at_tick (n i : Nat) (x : Nat) : (s.setSys n i x).tick = s.tick := rfl
@[simp] theorem State.setSys_at_iss (n i : Nat) (x : Nat) : (s.setSys n i x).iss = s.iss := rfl
@[simp] theorem State.setSys_at_mem (n i : Nat) (x : Nat) : (s.setSys n i x).mem = s.mem := rfl
@[simp] theorem State.setSys_at_v (n i : Nat) (x : Nat) : (s.setSys n i x).v = s.v := rfl
@[simp] theorem State.setSys_at_empty (n i : Nat) (x : Nat) : (s.setSys n i x).empty = s.empty := rfl
@[simp] theorem State.setSys_at_cc (n i : Nat) (x : Nat) : (s.setSys n i x).cc = s.cc := rfl
@[simp] theorem State.setSys_at_u (n i : Nat) (x : Nat) : (s.setSys n i x).u = s.u := rfl
@[simp] theorem State.setSys_at_upend (n i : Nat) (x : Nat) : (s.setSys n i x).upend = s.upend := rfl
@[simp] theorem State.setSys_at_threads (n i : Nat) (x : Nat) : (s.setSys n i x).threads = s.threads := rfl
@[simp] theorem State.setSys_at_teams (n i : Nat) (x : Nat) : (s.setSys n i x).teams = s.teams := rfl
@[simp] theorem State.setSys_at_scratch (n i : Nat) (x : Nat) : (s.setSys n i x).scratch = s.scratch := rfl
@[simp] theorem State.setSys_at_tiles (n i : Nat) (x : Nat) : (s.setSys n i x).tiles = s.tiles := rfl
@[simp] theorem State.setSys_at_sys (n i : Nat) (x : Nat) : (s.setSys n i x).sys = NMap.put s.sys (sreg n i) (BitVec.ofNat 64 x) := rfl
@[simp] theorem State.setSys_at_copies (n i : Nat) (x : Nat) : (s.setSys n i x).copies = s.copies := rfl
@[simp] theorem State.setSys_at_launches (n i : Nat) (x : Nat) : (s.setSys n i x).launches = s.launches := rfl

/-! `setTile` replaces one entry of `tiles`. -/

@[simp] theorem State.setTile_at_agenda (u t : Nat) (ws : List Word) : (s.setTile u t ws).agenda = s.agenda := rfl
@[simp] theorem State.setTile_at_tick (u t : Nat) (ws : List Word) : (s.setTile u t ws).tick = s.tick := rfl
@[simp] theorem State.setTile_at_iss (u t : Nat) (ws : List Word) : (s.setTile u t ws).iss = s.iss := rfl
@[simp] theorem State.setTile_at_mem (u t : Nat) (ws : List Word) : (s.setTile u t ws).mem = s.mem := rfl
@[simp] theorem State.setTile_at_v (u t : Nat) (ws : List Word) : (s.setTile u t ws).v = s.v := rfl
@[simp] theorem State.setTile_at_empty (u t : Nat) (ws : List Word) : (s.setTile u t ws).empty = s.empty := rfl
@[simp] theorem State.setTile_at_cc (u t : Nat) (ws : List Word) : (s.setTile u t ws).cc = s.cc := rfl
@[simp] theorem State.setTile_at_u (u t : Nat) (ws : List Word) : (s.setTile u t ws).u = s.u := rfl
@[simp] theorem State.setTile_at_upend (u t : Nat) (ws : List Word) : (s.setTile u t ws).upend = s.upend := rfl
@[simp] theorem State.setTile_at_threads (u t : Nat) (ws : List Word) : (s.setTile u t ws).threads = s.threads := rfl
@[simp] theorem State.setTile_at_teams (u t : Nat) (ws : List Word) : (s.setTile u t ws).teams = s.teams := rfl
@[simp] theorem State.setTile_at_scratch (u t : Nat) (ws : List Word) : (s.setTile u t ws).scratch = s.scratch := rfl
@[simp] theorem State.setTile_at_tiles (u t : Nat) (ws : List Word) : (s.setTile u t ws).tiles = NMap.put s.tiles (tilekey u t) ws := rfl
@[simp] theorem State.setTile_at_sys (u t : Nat) (ws : List Word) : (s.setTile u t ws).sys = s.sys := rfl
@[simp] theorem State.setTile_at_copies (u t : Nat) (ws : List Word) : (s.setTile u t ws).copies = s.copies := rfl
@[simp] theorem State.setTile_at_launches (u t : Nat) (ws : List Word) : (s.setTile u t ws).launches = s.launches := rfl

/-! `setCopy` replaces one entry of `copies`. -/

@[simp] theorem State.setCopy_at_agenda (p l : Nat) (c : LineCopy) : (s.setCopy p l c).agenda = s.agenda := rfl
@[simp] theorem State.setCopy_at_tick (p l : Nat) (c : LineCopy) : (s.setCopy p l c).tick = s.tick := rfl
@[simp] theorem State.setCopy_at_iss (p l : Nat) (c : LineCopy) : (s.setCopy p l c).iss = s.iss := rfl
@[simp] theorem State.setCopy_at_mem (p l : Nat) (c : LineCopy) : (s.setCopy p l c).mem = s.mem := rfl
@[simp] theorem State.setCopy_at_v (p l : Nat) (c : LineCopy) : (s.setCopy p l c).v = s.v := rfl
@[simp] theorem State.setCopy_at_empty (p l : Nat) (c : LineCopy) : (s.setCopy p l c).empty = s.empty := rfl
@[simp] theorem State.setCopy_at_cc (p l : Nat) (c : LineCopy) : (s.setCopy p l c).cc = s.cc := rfl
@[simp] theorem State.setCopy_at_u (p l : Nat) (c : LineCopy) : (s.setCopy p l c).u = s.u := rfl
@[simp] theorem State.setCopy_at_upend (p l : Nat) (c : LineCopy) : (s.setCopy p l c).upend = s.upend := rfl
@[simp] theorem State.setCopy_at_threads (p l : Nat) (c : LineCopy) : (s.setCopy p l c).threads = s.threads := rfl
@[simp] theorem State.setCopy_at_teams (p l : Nat) (c : LineCopy) : (s.setCopy p l c).teams = s.teams := rfl
@[simp] theorem State.setCopy_at_scratch (p l : Nat) (c : LineCopy) : (s.setCopy p l c).scratch = s.scratch := rfl
@[simp] theorem State.setCopy_at_tiles (p l : Nat) (c : LineCopy) : (s.setCopy p l c).tiles = s.tiles := rfl
@[simp] theorem State.setCopy_at_sys (p l : Nat) (c : LineCopy) : (s.setCopy p l c).sys = s.sys := rfl
@[simp] theorem State.setCopy_at_copies (p l : Nat) (c : LineCopy) : (s.setCopy p l c).copies = NMap.put s.copies (ckey p l) c := rfl
@[simp] theorem State.setCopy_at_launches (p l : Nat) (c : LineCopy) : (s.setCopy p l c).launches = s.launches := rfl

end Sys2Proof.Machine
end

