-- ==== Sys2Proof/Tests/Slice0.lean ====
section
/-!
SUPPORT. Small tests: the checks of well-formedness refuse ill-formed terms, words written out from the spec's encoding tables decode to
their instructions, single steps give the results of the spec's worked examples, and small states meet the hypotheses of the
statements of Certificates/Slice0.
-/

set_option Elab.async false

namespace Sys2Proof.Tests

open Sys2Proof Sys2Proof.Machine

/-! Well-formedness: each check refuses a term (R134, R138, R185 to R262). -/

theorem test_wf_register : (Instr.iadd 1 2 63 false false).wf 64 = true ∧ (Instr.iadd 1 2 40 false false).wf 40 = false := by decide
theorem test_wf_pair : (Instr.iadd64 2 4 5 false false).wf 64 = false ∧ (Instr.iadd64 2 4 62 false false).wf 63 = false := by decide
theorem test_wf_four : (Instr.bsort 4 0).wf 64 = true ∧ (Instr.bsort 6 0).wf 64 = false := by decide
theorem test_wf_uniform_pair : (Instr.actld 1 3).wf 64 = false ∧ (Instr.actld 1 4).wf 64 = true := by decide
theorem test_wf_address : (Instr.ldN32 1 3 false).wf 64 = false ∧ (Instr.ldN32 1 33 true).wf 64 = false := by decide
theorem test_wf_offset : (Instr.ldsN32 1 32 true).wf 64 = false ∧ (Instr.ldsN32 1 31 true).wf 64 = true := by decide
theorem test_wf_scope : (Instr.fenceAll 12).wf 64 = false ∧ (Instr.fenceAll 11).wf 64 = true := by decide
theorem test_wf_size : (Instr.scld 2 4 7 3).wf 64 = false ∧ (Instr.scld 3 4 7 1).wf 64 = false := by decide
theorem test_wf_atomic : (Instr.atomAnd 1 2 7 false 4).wf 64 = false ∧ (Instr.atomAdd 1 2 7 false 5).wf 64 = false
    ∧ (Instr.atomMin 2 4 7 true 2).wf 64 = false ∧ (Instr.atomCas 1 2 7 false 0).wf 64 = false := by decide
theorem test_wf_sysreg : (Instr.rdsys 2 true 0x0200).wf 64 = false ∧ (Instr.rdsys 2 false 0x0701).wf 64 = false
    ∧ (Instr.rdsys 2 false 0x0201).wf 64 = false ∧ (Instr.rdsys 2 false 0x0200).wf 64 = true := by decide
theorem test_wf_copy : (Instr.copy 0 2 4 ⟨3, false, false, 0, false, 0, 0, false, 0⟩).wf 64 = false
    ∧ (Instr.copy 0 2 4 ⟨0, false, false, 3, false, 0, 0, false, 0⟩).wf 64 = false
    ∧ (Instr.copy 0 2 4 ⟨0, false, false, 0, false, 1, 0, false, 0⟩).wf 64 = false := by decide
theorem test_wf_event : (Instr.loadFill 0).wf 64 = false := by decide

theorem test_wf_convert : (Instr.cvt 1 2 false false 0 0 14 0).wf 64 = false ∧ (Instr.cvt 1 3 false false 0 0 0 14).wf 64 = false
    ∧ (Instr.pack 1 2 false 0 0 0 11).wf 64 = false ∧ (Instr.pack 1 2 false 0 0 1 12).wf 64 = false
    ∧ (Instr.unpack 1 2 false 11).wf 64 = false ∧ (Instr.pack 1 2 false 0 0 1 15).wf 64 = true := by decide
theorem test_wf_prune : (Instr.prune 1 2 3 false false 1 0).wf 64 = false ∧ (Instr.prune 1 2 3 false false 1 6).wf 64 = false
    ∧ (Instr.prune 1 2 3 false false 0 3).wf 64 = false ∧ (Instr.prune 1 2 3 false false 9 3).wf 64 = false
    ∧ (Instr.prune 1 2 3 false false 8 3).wf 64 = true := by decide
theorem test_wf_control : (Instr.amax 2 2 true true false 0).wf 64 = false ∧ (Instr.brc 1 false 0 0 false 0).wf 64 = false
    ∧ (Instr.brc 1 false 2 0 true 0).wf 64 = false ∧ (Instr.brc 1 false 1 1 true 0).wf 64 = false
    ∧ (Instr.meet true 1).wf 64 = false ∧ (Instr.carve 1 9 0 0).wf 64 = false ∧ (Instr.carve 1 0 17 0).wf 64 = false
    ∧ (Instr.emit 0 4 6 false false false 0 0).wf 64 = false ∧ (Instr.emit 0 4 7 false false true 0 0).wf 64 = false
    ∧ (Instr.sprd 1 14).wf 64 = false := by decide
theorem test_wf_memory : (Instr.gather 4 2 3).wf 64 = false ∧ (Instr.scatter 2 2 2).wf 64 = false ∧ (Instr.acq 2 4 13).wf 64 = false
    ∧ (Instr.bind 2 4).wf 64 = false ∧ (Instr.copyGather 0 2 4 ⟨2, false, 0, false, 0, 0⟩).wf 64 = false
    ∧ (Instr.copy 2 2 4 ⟨0, false, false, 0, false, 0, 0, false, 0⟩).wf 64 = false
    ∧ (Instr.copy 0 2 4 ⟨0, false, false, 0, false, 0, 3, false, 0⟩).wf 64 = false := by decide
theorem test_wf_engines : (Instr.mma 1 2 false 6 0).wf 64 = false ∧ (Instr.redF32 1 2 4 0).wf 64 = false
    ∧ (Instr.redF32 1 2 5 3).wf 64 = false ∧ (Instr.trace 60 false 2 ⟨false, false, false, 0, 0⟩).wf 64 = false
    ∧ (Instr.trace 2 false 2 ⟨false, false, false, 0, 0⟩).wf 64 = false ∧ (Instr.sample 4 6 false 2 0).wf 64 = false
    ∧ (Instr.pres 1 2 0 true false 0).wf 64 = false ∧ (Instr.blend 4 8 false 64).wf 64 = true
    ∧ (Instr.splat 1 2 4 false false).wf 64 = false := by decide

/-! Words of every one-word and two-word instruction, written from the opcode table and the operand-word tables of the rules: every
field at a value of its own. -/

/-- The words decode to the instruction. -/
def reads (w o : BitVec 32) (i : Instr) : Bool :=
  match decode w o with
  | .ok j => j == i
  | .error _ => false

theorem test_words_1 :
    ([
      (0x01B1A9A0, .iadd 44 26 38 true false), (0x01B1A9A1, .isub 44 26 38 true false), (0x01B1A9A2, .iaddx 44 26 38 true false),
      (0x01B1A9A3, .isubx 44 26 38 true false), (0x01B1A9A4, .imul 44 26 38 true false), (0x01B1A9A5, .imulhI32 44 26 38 true false),
      (0x01B1A9A6, .imulhN32 44 26 38 true false), (0x01B1A9A7, .iminI32 44 26 38 true false), (0x01B1A9A8, .iminN32 44 26 38 true false),
      (0x01B1A9A9, .imaxI32 44 26 38 true false), (0x01B1A9AA, .imaxN32 44 26 38 true false), (0x01B1A9AB, .iaddsI32 44 26 38 true false),
      (0x06B1A9A0, .iaddCc 2 44 26 38 true false), (0x06B1A9A1, .isubCc 2 44 26 38 true false), (0x06B1A9A2, .iaddxCc 2 44 26 38 true false),
      (0x06B1A9A3, .isubxCc 2 44 26 38 true false), (0x06B1A9A4, .imulCc 2 44 26 38 true false), (0x06B1A9A5, .imulhI32Cc 2 44 26 38 true false)
      ] : List (BitVec 32 × Instr)).all (fun p => reads p.1 0 p.2) = true := by decide +kernel

theorem test_words_2 :
    ([
      (0x06B1A9A6, .imulhN32Cc 2 44 26 38 true false), (0x06B1A9A7, .iminI32Cc 2 44 26 38 true false), (0x06B1A9A8, .iminN32Cc 2 44 26 38 true false),
      (0x06B1A9A9, .imaxI32Cc 2 44 26 38 true false), (0x06B1A9AA, .imaxN32Cc 2 44 26 38 true false), (0x06B1A9AB, .iaddsI32Cc 2 44 26 38 true false),
      (0x0601A9AC, .icmp 2 26 38 true false), (0x0601A9AD, .fcmpF32 2 26 38 true false), (0x02B1A9A0, .iadd64 44 26 38 true false),
      (0x02B1A9A1, .isub64 44 26 38 true false), (0x02B1A9A2, .addr 44 26 38 true false), (0x03B1A9A0, .and 44 26 38 true false),
      (0x03B1A9A1, .or 44 26 38 true false), (0x03B1A9A2, .xor 44 26 38 true false), (0x03B1A9A3, .shl 44 26 38 true false),
      (0x03B1A9A4, .shrN32 44 26 38 true false), (0x03B1A9A5, .shrI32 44 26 38 true false), (0x03B1A026, .popc 44 26 true)
      ] : List (BitVec 32 × Instr)).all (fun p => reads p.1 0 p.2) = true := by decide +kernel

theorem test_words_3 :
    ([
      (0x03B1A027, .clz 44 26 true), (0x03B1A9A8, .bfx 44 26 38 true false), (0x03B1A9A9, .bfi 44 26 38 true false),
      (0x10B1A0A5, .iaddi 44 26 165), (0x11B1A0A5, .andi 44 26 165), (0x12B1A0A5, .ori 44 26 165),
      (0x13B1A0A5, .xori 44 26 165), (0x14B1A005, .shli 44 26 5), (0x15B1A005, .shri 44 26 5),
      (0x16B000A5, .movi 44 165), (0x0BB1A9A0, .faddF32 3 44 26 38 true false), (0x0BB1A9A1, .fsubF32 3 44 26 38 true false),
      (0x0BB1A9A2, .fmulF32 3 44 26 38 true false), (0x0BB1A9A3, .ffmaF32 3 44 26 38 true false), (0x0BB1A9A4, .faddF16x2 3 44 26 38 true false),
      (0x0BB1A9A5, .fmulF16x2 3 44 26 38 true false), (0x0BB1A9A6, .ffmaF16x2 3 44 26 38 true false), (0x0BB1A9A7, .faddBf16x2 3 44 26 38 true false)
      ] : List (BitVec 32 × Instr)).all (fun p => reads p.1 0 p.2) = true := by decide +kernel

theorem test_words_4 :
    ([
      (0x0BB1A9A8, .fmulBf16x2 3 44 26 38 true false), (0x0BB1A9A9, .ffmaBf16x2 3 44 26 38 true false), (0x0CB1A9A0, .fminF32 44 26 38 true false),
      (0x0CB1A9A1, .fmaxF32 44 26 38 true false), (0x0CB1A022, .fabsF32 44 26 true), (0x0CB1A023, .fnegF32 44 26 true),
      (0x0CB1A024, .fclassF32 44 26 true), (0x0CB1A9A5, .fminF16x2 44 26 38 true false), (0x0CB1A9A6, .fmaxF16x2 44 26 38 true false),
      (0x0CB1A027, .mov 44 26 true), (0x20B1A020, .rcpF32 44 26 true), (0x20B1A021, .rsqrtF32 44 26 true),
      (0x20B1A022, .sqrtF32 44 26 true), (0x20B1A023, .exp2F32 44 26 true), (0x20B1A024, .log2F32 44 26 true),
      (0x20B1A025, .sinF32 44 26 true), (0x20B1A026, .cosF32 44 26 true), (0x20B1A027, .tanhF32 44 26 true)
      ] : List (BitVec 32 × Instr)).all (fun p => reads p.1 0 p.2) = true := by decide +kernel

theorem test_words_5 :
    ([
      (0x20B1A9A8, .fdivF32 44 26 38 true false), (0x22B1A9A0, .lanePick 44 26 38 true false), (0x22B1A9A1, .laneRise 44 26 38 true false),
      (0x22B1A9A2, .laneFall 44 26 38 true false), (0x22B1A9A3, .laneSwap 44 26 38 true false), (0x22B1A024, .pollSome 44 26 true),
      (0x22B1A025, .pollEvery 44 26 true), (0x22B1A026, .pollMask 44 26 true), (0x22B1A027, .foldAddI32 44 26 true),
      (0x22B1A028, .foldMinI32 44 26 true), (0x22B1A029, .foldMaxI32 44 26 true), (0x22B1A02A, .foldFaddF32 44 26 true),
      (0x22B1A02B, .scanAddI32 44 26 true), (0x22B1A00C, .bsort 44 26), (0x22B1A9AD, .intersect 44 26 38 true false),
      (0x2431A020, .vtos 12 26 true), (0x24B1A001, .stov 44 26), (0x28668060, .uadd 12 26 6)
      ] : List (BitVec 32 × Instr)).all (fun p => reads p.1 0 p.2) = true := by decide +kernel

theorem test_words_6 :
    ([
      (0x2866A0A5, .uaddImm 12 26 165), (0x28668260, .usub 12 26 6), (0x2866A2A5, .usubImm 12 26 165),
      (0x28668460, .uand 12 26 6), (0x2866A4A5, .uandImm 12 26 165), (0x28668660, .uor 12 26 6),
      (0x2866A6A5, .uorImm 12 26 165), (0x28668860, .uxor 12 26 6), (0x2866A8A5, .uxorImm 12 26 165),
      (0x28668A60, .ushl 12 26 6), (0x2866AAA5, .ushlImm 12 26 165), (0x28668C60, .ushr 12 26 6),
      (0x2866ACA5, .ushrImm 12 26 165), (0x28600E60, .umov 12 6), (0x28602EA5, .umovImm 12 165),
      (0x40ABCDE5, .bra 11259365), (0x41ABCDE5, .call 11259365), (0x4501A020, .jmp 26 true)
      ] : List (BitVec 32 × Instr)).all (fun p => reads p.1 0 p.2) = true := by decide +kernel

theorem test_words_7 :
    ([
      (0x45B1A021, .callr 44 26 true), (0x4501A022, .ret 26 true), (0x45000003, .exit),
      (0x45000004, .nop), (0x45000005, .yield), (0x45B00006, .elect 44),
      (0x45B1A007, .sprd 44 26), (0x4500D988, .spwr 38 false), (0x50B1A001, .ldN8 44 26 true),
      (0x50B1A101, .ldI8 44 26 true), (0x50B1A201, .ldN16 44 26 true), (0x50B1A301, .ldI16 44 26 true),
      (0x50B1A401, .ldN32 44 26 true), (0x50B1A501, .ldN64 44 26 true), (0x50B1A601, .ldN32x4 44 26 true),
      (0x51B1A001, .stN8 44 26 true), (0x51B1A101, .stN16 44 26 true), (0x51B1A201, .stN32 44 26 true)
      ] : List (BitVec 32 × Instr)).all (fun p => reads p.1 0 p.2) = true := by decide +kernel

theorem test_words_8 :
    ([
      (0x51B1A301, .stN64 44 26 true), (0x51B1A401, .stN32x4 44 26 true), (0x5231A001, .uldN32 12 26 true),
      (0x5231A101, .uldN64 12 26 true), (0x5231A201, .ustN32 12 26 true), (0x5231A301, .ustN64 12 26 true),
      (0x53B1A001, .ldsN32 44 26 true), (0x53B1A101, .ldsN64 44 26 true), (0x53B1A201, .ldsN32x4 44 26 true),
      (0x53B1A301, .stsN32 44 26 true), (0x53B1A401, .stsN64 44 26 true), (0x53B1A501, .stsN32x4 44 26 true),
      (0x53B1A602, .gather 44 26 2), (0x53B1A702, .scatter 44 26 2), (0x54B1A09B, .atomAdd 44 26 9 true 3),
      (0x54B1A19B, .atomMin 44 26 9 true 3), (0x54B1A29B, .atomMax 44 26 9 true 3), (0x54B1A39B, .atomAnd 44 26 9 true 3)
      ] : List (BitVec 32 × Instr)).all (fun p => reads p.1 0 p.2) = true := by decide +kernel

theorem test_words_9 :
    ([
      (0x54B1A49B, .atomOr 44 26 9 true 3), (0x54B1A59B, .atomXor 44 26 9 true 3), (0x54B1A69B, .atomXchg 44 26 9 true 3),
      (0x54B1A79B, .atomCas 44 26 9 true 3), (0x54B1A89B, .redAdd 44 26 9 true 3), (0x54B1A99B, .redMin 44 26 9 true 3),
      (0x54B1AA9B, .redMax 44 26 9 true 3), (0x55B1A092, .scld 44 26 9 2), (0x55B1A192, .scst 44 26 9 2),
      (0x55B1A290, .acq 44 26 9), (0x5501A390, .rel 26 9), (0x55B1A400, .bind 44 26),
      (0x55000590, .fenceAll 9), (0x58B1A009, .cld 44 26 9), (0x58B1A109, .cst 44 26 9),
      (0x58B1A209, .cred 44 26 9), (0x58B1A309, .cnext 44 26 9), (0x58B1A409, .cprobe 44 26 9)
      ] : List (BitVec 32 × Instr)).all (fun p => reads p.1 0 p.2) = true := by decide +kernel

theorem test_words_10 :
    ([
      (0x74B1A092, .redF32 44 26 9 2), (0x74000100, .cflush)
      ] : List (BitVec 32 × Instr)).all (fun p => reads p.1 0 p.2) = true := by decide +kernel

theorem test_pairs_1 :
    ([
      (0x21144000, 0x00000050, .cvt 5 4 false false 0 0 5 0), (0x21B1A020, 0x00001BD6, .cvt 44 26 true true 2 3 13 6),
      (0x21B1A021, 0x0000063F, .pack 44 26 true 1 2 3 15), (0x21B1A022, 0x0000000D, .unpack 44 26 true 13),
      (0x21B1A9A3, 0x00000026, .sel 44 26 38 true false 9 2), (0x23B1A9A0, 0x00001505, .prune 44 26 38 true false 21 5),
      (0x23B1A021, 0x00000002, .act 44 26 true 2), (0x23B1A002, 0x00000000, .actld 44 26),
      (0x23B1A023, 0x00000059, .amax 44 26 true true true 9), (0x4201A020, 0x9AABCDE5, .brc 26 true 9 2 true 0xABCDE5),
      (0x42000001, 0x00ABCDE5, .meet false 0xABCDE5), (0x42000001, 0x01000000, .meet true 0),
      (0x43B00000, 0x00000009, .bar 44 9), (0x43000001, 0x00000009, .barArrive 9),
      (0x43B00002, 0x00000009, .barWait 44 9)
      ] : List (BitVec 32 × BitVec 32 × Instr)).all (fun p => reads p.1 p.2.1 p.2.2) = true := by decide +kernel

theorem test_pairs_2 :
    ([
      (0x43B00003, 0x070D0009, .carve 44 7 13 9), (0x43000004, 0x00000000, .phase),
      (0x43B1A9A5, 0x006AF155, .spawn 44 26 38 true false true 0xABC 0x155), (0x43B1A9A6, 0x006AF155, .emit 44 26 38 true false true 0xABC 0x155),
      (0x43B1A027, 0x00000000, .join 44 26 true), (0x4301A028, 0x00000000, .finish 26 true),
      (0x44000000, 0x0B5A1B37, .mcall 11 22 33 44 55), (0x44B1A001, 0x00000037, .mload 44 26 55),
      (0x44000002, 0x0000ABCD, .trap 0xABCD), (0x44000003, 0x0000ABCD, .svc 0xABCD),
      (0x44000004, 0x00000000, .eret), (0x44B00005, 0x0001ABCD, .rdsys 44 true 0xABCD),
      (0x4401A026, 0x0001ABCD, .wrsys 26 true true 0xABCD), (0x5631A180, 0x2DCD400D, .copy 12 26 6 ⟨2, true, true, 1, true, 9, 10, true, 13⟩),
      (0x56B1A001, 0x0000000D, .copyWait 44 26 13)
      ] : List (BitVec 32 × BitVec 32 × Instr)).all (fun p => reads p.1 p.2.1 p.2.2) = true := by decide +kernel

theorem test_pairs_3 :
    ([
      (0x56B00002, 0x0000001D, .copyQuery 44 true 13), (0x5601A003, 0x00000001, .prefetch 26 true),
      (0x5631A184, 0x19C8000D, .copyScatter 12 26 6 ⟨1, true, 1, true, 9, 13⟩), (0x5631A185, 0x19C8000D, .copyGather 12 26 6 ⟨1, true, 1, true, 9, 13⟩),
      (0x56B00006, 0x00000005, .tstclr 44 5), (0x5901A180, 0x00000009, .collA2a 26 6 9),
      (0x5901A181, 0x00000009, .collReduce 26 6 9), (0x5901A182, 0x00000009, .collAllred 26 6 9),
      (0x5901A183, 0x00000009, .collComp 26 6 9), (0x70B1A1A0, 0x00000009, .mma 44 26 true 6 9),
      (0x70B1A1A1, 0x00000009, .mmaZ 44 26 true 6 9), (0x71B1A000, 0x00000019, .acld 44 26 true 9),
      (0x71B1A001, 0x00000019, .acst 44 26 true 9), (0x71B00002, 0x00000009, .acz 44 9),
      (0x71B1A993, 0x00000009, .accvt 44 26 38 true 9)
      ] : List (BitVec 32 × BitVec 32 × Instr)).all (fun p => reads p.1 p.2.1 p.2.2) = true := by decide +kernel

theorem test_pairs_4 :
    ([
      (0x72B1A000, 0x00000000, .route 44 26), (0x7201A181, 0x00000009, .sort 26 6 9),
      (0x73B1A9A0, 0x00000000, .sproj 44 26 38 true false), (0x73B1A9A1, 0x00000000, .splat 44 26 38 true false),
      (0x73B1A9A2, 0x00000000, .blend 44 26 true 38), (0x73B1A993, 0x00000000, .blendBwd 44 26 38 true),
      (0x7501A1A0, 0x000079A5, .trace 26 true 6 ⟨true, true, true, 9, 0xA5⟩), (0x75B00001, 0x00000001, .trres 44 true),
      (0x76B1A000, 0x00000009, .smpld 44 26 9), (0x76B1A1A1, 0x00000009, .sample 44 26 true 6 9),
      (0x77B1A1A0, 0x00000000, .rast 44 26 true 6), (0x77B00001, 0x00000000, .rastFlush 44),
      (0x7801A180, 0x0000091D, .pres 26 6 9 true true 5)
      ] : List (BitVec 32 × BitVec 32 × Instr)).all (fun p => reads p.1 p.2.1 p.2.2) = true := by decide +kernel
/-- The error that a word's decoding gives. -/
def errs (w o : BitVec 32) (e : DecodeErr) : Bool :=
  match decode w o with
  | .ok _ => false
  | .error x => x == e

/-- Words that are refused: an unassigned major and minor, bits that must be zero, bit 5 of a uniform register's field. -/
theorem test_words_refused :
    errs 0x00000000 0 .unassigned ∧ errs 0x0100000C 0 .unassigned ∧ errs 0x45000009 0 .unassigned ∧ errs 0x0400000C 0 .badField = false
    ∧ errs 0x040C100C 0 .badField ∧ errs 0x45040004 0 .badField ∧ errs 0x14041020 0 .badField ∧ errs 0x24061000 0 .badField = false
    ∧ errs 0x24861000 0 .badField ∧ errs 0x21144000 0x00002050 .badField ∧ errs 0x22041040 0 .unassigned = false := by decide +kernel

/-! A small package: team 1 has four threads of core 0, lanes 0 and 1 issue at packet 0 of code line 0, and the page at address 0 is
mapped to itself. -/

/-- Vector registers of team 1: thread, register, value. -/
def regs (l : List (Nat × Nat × Word)) (s : State) : State := l.foldl (fun s x => s.putV 1 x.1 x.2.1 x.2.2) s

/-- Uniform registers of gang 0 of team 1. -/
def uregs (l : List (Nat × Word)) (s : State) : State := l.foldl (fun s x => s.putU 1 0 x.1 x.2) s

/-- The issue of lanes of gang 0 at packet 0. -/
def issue (lanes : List Nat) (s : State) : State :=
  { s with iss := { uid := 1, lanes := lanes, pos := 4, follow := 16, v0 := s.v, u0 := s.u, cc0 := s.cc } }

/-- The page of two MiB at address 0, held by core 0. -/
def page : Tlb :=
  { place := 0, slice := 0, va := 0, size := 0x200000, pa := 0, tier := 2, w := true, x := true, p := false, disc := false,
    caddy := false, ent := 0 }

/-- Five levels of page tables from 0x10000 on that map the same page. -/
def tables : List Host.Cell :=
  [(0x10000, 0x11001), (0x11000, 0x12001), (0x12000, 0x13001), (0x13000, 2 ^ 62 + 2 ^ 59 + 2 ^ 57 + 3)].foldl
    (fun m (x : Nat × Nat) => memPuts m x.1 (toBytes 8 x.2)) []

/-- The package before an issue. -/
def base : State :=
  { State.reset with
    tlb := [page], nextUid := 2, mem := tables, sys := [(sreg 0x28 0, 0x10001)],
    teams := [(1, { live := true, nreg := 64, n := 4, sx := 4, acc := 16, scr := 65536, scrg := 1, regg := 1, launch := 1 })],
    launches := [(1, { live := true })],
    threads := (List.range 4).foldl (fun m t => NMap.put m (tkey 1 t) { exited := false, pos := 4 }) [] }

/-- The package with the team changed. -/
def team (f : Team → Team) (s : State) : State := s.setTeam 1 (f (s.team 1))

/-- The package with thread t changed. -/
def thread (t : Nat) (f : Thread → Thread) (s : State) : State := s.setThr 1 t (f (s.thr 1 t))

/-- What an error-free result holds. -/
def okOf {ε α : Type} (r : Except ε α) : Option α := match r with | .ok x => some x | .error _ => none

/-- The error of a result. -/
def errOf {ε α : Type} (r : Except ε α) : Option ε := match r with | .ok _ => none | .error e => some e

/-- The next state of a meaning, or the state before. -/
def after (r : Res) (s : State) : State := match r with | .next t => t | _ => s

/-- The register of a thread of team 1 after an instruction on the issue. -/
def out (i : Instr) (s : State) (t r : Nat) : Word := (after (exec i s) s).vAt 1 t r

/-- The trap that an instruction leaves in the latch. -/
def trapOf (i : Instr) (s : State) : Option Trap := (after (exec i s) s).iss.trap

/-! Results of single instructions, from the rules' own examples or by hand. -/

/-- R149, R150: 0xFFFFFFFF + 1 is 0 with C and Z; the least signed word less 1 overflows. -/
theorem test_iadd_cc :
    let s := issue [0, 1] (regs [(0, 1, 0xFFFFFFFF), (0, 2, 1), (1, 1, 0x80000000), (1, 2, 0x80000000)] base)
    let t := after (exec (.iaddCc 2 3 1 2 false false) s) s
    t.vAt 1 0 3 = 0 ∧ NMap.get 0 t.cc (cckey 1 0 2) = 0b1100#4 ∧ t.vAt 1 1 3 = 0 ∧ NMap.get 0 t.cc (cckey 1 1 2) = 0b1101#4
    ∧ t.vAt 1 2 3 = 0 := by decide +kernel

/-- R149, R153: a high product is the floor; a shift by 32 to 63 gives 0, or the sign. -/
theorem test_products_and_shifts :
    let s := issue [0] (regs [(0, 1, 0xFFFFFFFF), (0, 2, 2), (0, 4, 40), (0, 5, 0x80000001)] base)
    out (.imulhI32 3 1 2 false false) s 0 3 = 0xFFFFFFFF ∧ out (.imulhN32 3 1 2 false false) s 0 3 = 1
    ∧ out (.shl 3 5 4 false false) s 0 3 = 0 ∧ out (.shrN32 3 5 4 false false) s 0 3 = 0
    ∧ out (.shrI32 3 5 4 false false) s 0 3 = 0xFFFFFFFF ∧ out (.clz 3 2 false) s 0 3 = 30 := by decide +kernel

/-- R149: a source that is also the destination is read before it is written. -/
theorem test_in_place : out (.iadd 1 1 1 false false) (issue [0] (regs [(0, 1, 7)] base)) 0 1 = 14 := by decide +kernel

/-- R158: `cvt.e4m3.f32.rne.ovsat` of 470.0 gives 0x7E, and with `.ovnan` 0x7F. -/
theorem test_cvt_e4m3 :
    let s := issue [0] (regs [(0, 4, 0x43EB0000)] base)
    out (.cvt 5 4 false false 0 0 5 0) s 0 5 = 0x7E ∧ out (.cvt 5 4 false false 1 0 5 0) s 0 5 = 0x7F := by decide +kernel

/-- R155: 1.5 + 2.25 is 3.75; the exact sum 2^24 + 1 goes to even in mode 0 and up in the mode towards plus infinity. -/
theorem test_fadd :
    let s := issue [0] (regs [(0, 1, 0x3FC00000), (0, 2, 0x40100000), (0, 4, 0x4B800000), (0, 5, 0x3F800000)] base)
    out (.faddF32 0 3 1 2 false false) s 0 3 = 0x40700000 ∧ out (.faddF32 0 3 4 5 false false) s 0 3 = 0x4B800000 := by decide +kernel

/-- R165: the six keys of the rule's example, ascending. -/
theorem test_bsort :
    let s := issue [0, 1, 2, 3] (regs [(0, 4, 0x40000000), (1, 4, 0x7FC00000), (2, 4, 0x80000000), (3, 4, 0), (0, 6, 10), (1, 6, 11),
      (2, 6, 12), (3, 6, 13)] (uregs [(0, 0x0401)] base))
    let t := after (exec (.bsort 4 0) s) s
    (t.vAt 1 0 4, t.vAt 1 1 4, t.vAt 1 2 4, t.vAt 1 3 4) = (0x80000000, 0, 0x40000000, 0x7FC00000)
    ∧ (t.vAt 1 0 6, t.vAt 1 1 6, t.vAt 1 2 6, t.vAt 1 3 6) = (12, 13, 10, 11) := by decide +kernel

/-- R244: tile 5 at depth 2.0. -/
theorem test_sproj :
    let s := issue [0] (regs [(0, 1, 5), (0, 2, 0x40000000)] base)
    (out (.sproj 4 1 2 false false) s 0 5, out (.sproj 4 1 2 false false) s 0 4) = (0x5C0, 0) := by decide +kernel

/-- R247: the pixel of the example. BLEND of Gaussian 2 on (0.5, 0.25, 0) at T = 0.5, and BLEND.BWD of it. -/
theorem test_blend :
    let s := issue [0] (regs [(0, 4, 0x3F000000), (0, 5, 0x3E800000), (0, 6, 0), (0, 7, 0x3F000000), (0, 8, 0), (0, 9, 0),
      (0, 10, 0x3F800000), (0, 11, 0x3F400000)] base)
    let t := after (exec (.blend 4 8 false 12) s) s
    (t.vAt 1 0 4, t.vAt 1 0 5, t.vAt 1 0 6, t.vAt 1 0 7, t.vAt 1 0 12) = (0x3F000000, 0x3E800000, 0x3EC00000, 0x3E000000, 1) := by
  decide +kernel
theorem test_blend_bwd :
    let s := issue [0] (regs [(0, 4, 0x3E000000), (0, 8, 0), (0, 9, 0), (0, 10, 0x3F800000), (0, 11, 0x3F400000), (0, 12, 0x3F800000),
      (0, 13, 0x3F800000), (0, 14, 0x3F800000), (0, 15, 1)] base)
    let t := after (exec (.blendBwd 4 8 12 false) s) s
    (t.vAt 1 0 4, t.vAt 1 0 5, t.vAt 1 0 6, t.vAt 1 0 7) = (0x3F000000, 0, 0, 0x3F400000)
    ∧ (t.vAt 1 0 8, t.vAt 1 0 9, t.vAt 1 0 10, t.vAt 1 0 11) = (0x3EC00000, 0x3EC00000, 0x3EC00000, 0x3F000000) := by decide +kernel

/-- R162: RISE moves towards higher lanes; a lane whose source lies below 0 keeps its own. -/
theorem test_lane_rise :
    let s := issue [0, 1] (regs [(0, 1, 10), (1, 1, 11), (0, 2, 1), (1, 2, 1)] base)
    (out (.laneRise 3 1 2 false false) s 0 3, out (.laneRise 3 1 2 false false) s 1 3) = (10, 10) := by decide +kernel

/-- R127: the packet after the last of a line is the first of the next, and −1 from the first packet is below all indices. -/
theorem test_packets : nextPacket 52 = 68 ∧ nextPacket 4 = 16 ∧ pIdx 68 = 5 ∧ packetAt 5 = 68 ∧ packetAddr 8 = false := by decide +kernel

/-- R177: BRC.EQ takes only the lanes whose Z is set. -/
theorem test_brc :
    let s := issue [0, 1] { base with cc := [(cckey 1 1 0, 0b0100#4)] }
    let t := after (exec (.brc 0 false 0 0 false 3) s) s
    t.nextPos 0 = 16 ∧ t.nextPos 1 = 40 := by decide +kernel

/-- R178: a pair with bit 2 of the packet offset wrong raises ALIGN at its lane. -/
theorem test_jmp_align :
    trapOf (.jmp 4 false) (issue [0, 1] (regs [(0, 4, 4), (1, 4, 8)] base)) = some { cause := .align, lane := 1, addr := 8 } := by
  decide +kernel

/-- R195, R347, R349: SVC goes to the handler's first packet, and resumes after itself. -/
theorem test_svc :
    let s := issue [0] { base with sys := [(sreg 0x2A 0, 0x4000), (sreg 0x2B 0, 0)] }
    let t := after (exec (.svc 7) s) s
    (t.thr 1 0).pos = 0x4004 ∧ (t.thr 1 0).epc = 16 ∧ (t.thr 1 0).handler = true ∧ (t.thr 1 0).detail = 0x000700000000000F
    ∧ (t.thr 1 1).pos = 4 := by decide +kernel

/-- R350: with TRAP.VEC zero the host's route stops the thread at the instruction. -/
theorem test_host_route :
    let s := issue [0] base
    let t := after (exec (.callr 2 4 false) s) s
    (t.thr 1 0).pos = 4 ∧ (t.thr 1 0).wait = .faulted ∧ (t.team 1).stop.isSome = true := by decide +kernel

/-- R185: the last of four threads completes phase 0; both lanes of the issue receive barrier word 0. -/
theorem test_bar :
    let s := issue [0, 1] (regs [(0, 3, 9)] (team (fun tm => { tm with bars := [(2, { arrived := [2, 3] })] }) base))
    let t := after (exec (.bar 3 2) s) s
    t.vAt 1 0 3 = 0 ∧ (t.bar 1 2).phase = 1 ∧ (t.bar 1 2).arrived = [] := by decide +kernel

/-- R202, R201: a byte that ST wrote is what the core's load finds; memory itself is not written yet (R86). -/
theorem test_store_load :
    let s := issue [0] (regs [(0, 2, 0x1000), (0, 4, 0x12345678)] base)
    let t := after (exec (.stN32 4 2 false) s) s
    (List.range 4).map (fun k => t.byteAs 0 (0x1000 + k)) = [0x78, 0x56, 0x34, 0x12] ∧ memGet t.mem 0x1000 = 0 := by decide +kernel

/-- R204: a word store at offset 65,533 of a scratchpad of 65,536 bytes is misaligned, and at 65,536 out of it. -/
theorem test_scratch_traps :
    trapOf (.stsN32 4 2 false) (issue [0] (regs [(0, 2, 65533)] base))
      = some { cause := .align, lane := 0, check := 1, addr := 65533, write := true }
    ∧ trapOf (.stsN32 4 2 false) (issue [0] (regs [(0, 2, 65536)] base))
      = some { cause := .access, lane := 0, check := 2, addr := 65536, write := true } := by decide +kernel

/-- R216: the mask clears the flags that it names. -/
theorem test_tstclr :
    let s := issue [0] (team (fun tm => { tm with status := 0xE0000005 }) base)
    let t := after (exec (.tstclr 3 9) s) s
    t.vAt 1 0 3 = 0xE0000005 ∧ (t.team 1).status = 0x60000000 := by decide +kernel

/-- A step issues the placed instruction: MOVI v1, −1, and the thread goes on at packet 1. -/
theorem test_step :
    let s := State.reset.withFetchWord 32 0x16040FFF
    let t := after (step s) s
    t.vAt 1 0 1 = 0xFFFFFFFF ∧ (t.thr 1 0).pos = 5 ∧ t.tick = 1 := by decide +kernel

/-- An operand word is no instruction of its own: a two-word TRAP placed at reset is taken by the host's route. -/
theorem test_step_pair :
    let s := State.reset.withFetchWord 64 (0x44000002 + 2 ^ 32 * 9)
    let t := after (step s) s
    (t.thr 1 0).wait = .faulted ∧ (t.thr 1 0).pos = 6 := by decide +kernel

/-! States that meet the hypotheses of the statements of Certificates/Slice0, clause by clause. -/

/-- PairResults and ImmediateResults: an even form is well formed; words of SHLI, SHRI and MOVI with a bit too many. -/
theorem test_meets_int :
    (Instr.iadd64 2 4 6 false false).wf 64 = true ∧ (Instr.isub64 62 0 2 true true).wf 64 = true
    ∧ (Instr.addr 2 4 7 false false).wf 64 = true ∧ (2 : VReg).toNat % 2 = 0
    ∧ (0x14041020#32).toNat / 2 ^ 24 % 128 = 0x14 ∧ (0x14041020#32).toNat / 2 ^ 5 % 2 ^ 7 ≠ 0
    ∧ (0x15041FE0#32).toNat / 2 ^ 24 % 128 = 0x15 ∧ (0x15041FE0#32).toNat / 2 ^ 5 % 2 ^ 7 ≠ 0
    ∧ (0x16041020#32).toNat / 2 ^ 24 % 128 = 0x16 ∧ (0x16041020#32).toNat / 2 ^ 12 % 2 ^ 6 ≠ 0 := by decide +kernel

/-- FloatResults (NaN sources), FloatComparesAndConversions: each relation of a compare. -/
theorem test_meets_nan :
    isNan32 0x7FC00001 = true ∧ 0x7FC00001 < 2 ^ 32 ∧ isNan32 0x3F800000 = false ∧ isNan32 0xFF800001 = true
    ∧ srcF f32 false 0x7FC00000 = .nan ∧ srcF f32 false 0x3F800000 ≠ .nan
    ∧ ltV (srcF f32 false 0x3F800000) (srcF f32 false 0x40000000) = true
    ∧ ltV (srcF f32 false 0x40000000) (srcF f32 false 0x3F800000) = false
    ∧ ltV (srcF f32 false 0) (srcF f32 false 0x80000000) = false ∧ ltV (srcF f32 false 0x80000000) (srcF f32 false 0) = false := by
  decide +kernel

/-- Conversions: a source that fits, one that overflows under policy 11, a 64-bit target, a block that packs. -/
theorem test_meets_convert :
    (cvt1 false 0 0 5 0 0x43EB0000).isSome = true ∧ cvt1 false 3 0 5 0 0x43EB0000 = none ∧ (cvt1 false 0 0 14 0 0x3F800000).isSome = true
    ∧ (let xs := (List.range 32).map fun l => if l ∈ [0, 1] then 0x3F800000 else 0
       let sb := packScale 12 0 (xs.foldl (fun m x => magMax m (mag32 x)) none)
       (((xs.map (packElem 12 0 0 0 sb)).getD 0 none).isSome = true ∧ ((xs.map (packElem 12 0 0 0 sb)).getD 1 none).isSome = true)) := by
  decide +kernel

/-- LaneExchange, BlockOperations: two ascending lanes, a legal and an illegal mode word, ascending lists. -/
theorem test_meets_lanes :
    (issue [0, 1] base).iss.lanes ≠ [] ∧ (issue [0, 1] base).iss.lanes.Pairwise (· < ·) ∧ (issue [0, 1] base).iss.lanes.Nodup
    ∧ (∀ l ∈ (issue [0, 1] base).iss.lanes, l < 32)
    ∧ (bits 0x0401 31 15 = 0 ∧ bits 0x0401 7 2 = 0 ∧ 1 ≤ bits 0x0401 14 8 ∧ bits 0x0401 14 8 ≤ 64)
    ∧ (bits 0x4000 14 8 = 64 ∧ bits 0x4100 14 8 = 65 ∧ bits 0x0101 14 8 = 1 ∧ bits 0x0001 14 8 = 0)
    ∧ (laneList (issue [0, 1] (regs [(0, 1, 3), (1, 1, 5)] base)) 1).Pairwise (· < ·)
    ∧ laneList (issue [0, 1] (regs [(0, 1, 3), (1, 1, 5)] base)) 1 = [3, 5] := by decide +kernel

/-- ControlTransfers: offsets inside and outside the packet indices, a branch not taken, good and bad pairs. -/
theorem test_meets_branches :
    let s := issue [0, 1] (regs [(0, 4, 4), (1, 4, 68), (0, 6, 8), (1, 6, 4), (0, 8, 4), (0, 9, 0x80000000)] base)
    (0 ≤ (pIdx s.pc : Int) + (3#24).toInt ∧ (pIdx s.pc : Int) + (3#24).toInt < pIdxEnd) ∧ (pIdx s.pc : Int) + (0xFFFFFF#24).toInt < 0
    ∧ s.iss.lanes = 0 :: [1]
    ∧ (s.iss.lanes.filter fun l => cond 0 (s.rcc l 0)) = [] ∧ (s.iss.lanes.filter fun l => cond 1 (s.rcc l 0)) = 0 :: [1]
    ∧ (∀ l ∈ s.iss.lanes, (nbit (s.rp l 4) 63 = false ∧ canonical (s.rp l 4) = true) ∧ packetAddr (s.rp l 4) = true)
    ∧ s.iss.lanes = [] ++ 0 :: [1] ∧ packetAddr (s.rp 0 6) = false ∧ nbit (s.rp 0 6) 63 = false ∧ canonical (s.rp 0 6) = true
    ∧ nbit (s.rp 0 8) 63 = true := by decide +kernel

/-- Meetings: values that SPWR takes, one that it refuses, a meeting that is complete and one that is not. -/
theorem test_meets_meetings :
    let s := issue [0, 1] (regs [(0, 4, 0), (1, 4, 68), (0, 6, 8)] base)
    let held (b : Bool) := thread 0 (fun th => { th with meet := 68, wait := .held })
      (thread 1 (fun th => { th with meet := 68, wait := if b then .held else .none }) base)
    (∀ l ∈ s.iss.lanes, (s.rv l 4).toNat = 0 ∨ packetAddr (s.rv l 4).toNat = true)
    ∧ ((s.rv 0 6).toNat ≠ 0 ∧ packetAddr (s.rv 0 6).toNat = false)
    ∧ ((held true).liveGang 1 0).filter (fun x => ((held true).thr 1 x).meet == 68) = [0, 1]
    ∧ (∀ x ∈ [0, 1], ((held true).thr 1 x).wait = .held)
    ∧ ((held false).liveGang 1 0).filter (fun x => ((held false).thr 1 x).meet == 68) = [0, 1]
    ∧ ((held false).thr 1 1).wait ≠ .held := by decide +kernel

/-- Exits: other threads of the team live on, and an issue of all of them. -/
theorem test_meets_exits :
    (∀ b < 16, ((issue [0] base).bar 1 b).arrived = [])
    ∧ (∃ x ∈ (issue [0] base).liveThreads 1, ∀ l ∈ (issue [0] base).iss.lanes, x ≠ (issue [0] base).tOf l)
    ∧ (let s := issue [0, 1, 2, 3] base
       (s.team 1).live = true ∧ (∀ x ∈ s.liveThreads 1, ∃ l ∈ s.iss.lanes, x = s.tOf l) ∧ s.engineBusy 1 = false
       ∧ (s.team 1).open_ = [] ∧ (s.team 1).stop = none) := by decide +kernel

/-- TrapEntry: a slice with a handler's line and every cause routed to the team, and one with none; causes of each kind. -/
theorem test_meets_traps :
    let s := issue [0, 1] { base with sys := [(sreg 0x2A 0, 0x4000), (sreg 0x2B 0, 0)] }
    let k := s.lead (s.team 1).slice
    s.iss.lanes = 0 :: [1] ∧ (∀ l ∈ s.iss.lanes, (s.thr 1 (s.tOf l)).wait = .none ∧ (s.thr 1 (s.tOf l)).mwait = .none)
    ∧ (∀ c ∈ [Cause.align, .svc, .brk], c.code < 16 ∧ nbit (s.sysr 0x2B k) c.code = false ∧ s.sysr 0x2A k / 64 % 2 ^ 51 ≠ 0
        ∧ (s.thr 1 (s.tOf 0)).handler = false)
    ∧ Cause.align ≠ .brk ∧ Cause.align ≠ .svc ∧ Cause.align ≠ .fmtDiverge ∧ (7 : BitVec 16) ≠ 0xFFFF ∧ nbit (s.sysr 0x40 0) 29 = false
    ∧ (issue [0] base).sysr 0x2A 0 / 64 % 2 ^ 51 = 0
    ∧ ((thread 0 (fun th => { th with handler := true }) s).thr 1 0).handler = true
    ∧ nbit ((issue [0] base).sysr 0x2B 0) Cause.align.code = true := by decide +kernel

/-- ReturnFromHandler: a thread in handler mode with a good TRAP.EPC, one that departed from a barrier meanwhile, an unprivileged one, and
a TRAP.EPC that is no position. -/
theorem test_meets_eret :
    let s := issue [0] (thread 0 (fun th => { th with handler := true, epc := 17 }) base)
    let bad := issue [0] (thread 0 (fun th => { th with handler := true, epc := 19 }) base)
    (∀ l ∈ s.iss.lanes, ((s.team 1).priv = true ∨ (s.thr 1 (s.tOf l)).handler = true)
      ∧ (packetAddr ((s.thr 1 (s.tOf l)).epc.toNat / 4 * 4) = true ∧ (s.thr 1 (s.tOf l)).epc.toNat % 4 ≠ 3)
      ∧ (s.thr 1 (s.tOf l)).trw = [])
    ∧ s.iss.lanes.Nodup ∧ s.logs 1 0 = [] ∧ s.iss.lanes = [] ++ 0 :: [] ∧ (s.thr 1 0).hback = none
    ∧ (let d := issue [0] (thread 0 (fun th => { th with handler := true, epc := 17, hback := some ⟨16, 17, .departed 3 1⟩ }) base)
       d.iss.lanes = [0] ∧ (d.thr 1 0).hback = some ⟨16, 17, .departed 3 1⟩ ∧ (17 : Nat) = (d.thr 1 0).epc.toNat % 2 ^ 57)
    ∧ ¬ (((issue [0] base).team 1).priv = true ∨ ((issue [0] base).thr 1 0).handler = true)
    ∧ (bad.thr 1 0).epc.toNat % 4 = 3 ∧ (bad.thr 1 0).handler = true := by decide +kernel

/-- UnassignedWordsAndMacroCalls: words of either error; a macro slot that is full and one that is empty. -/
theorem test_meets_unassigned :
    errs 0 0 .unassigned = true ∧ errs 0x45040004 0 .badField = true
    ∧ NMap.find ({ base with macros := [(slotKey 0 5, (1, []))] } : State).macros (slotKey 0 5) = some (1, [])
    ∧ NMap.find base.macros (slotKey 0 5) = none := by decide +kernel

/-- BarriersAndPhases: an arrival that others still miss, the last arrival, a second one, and PHASE in each kind of launch; a carve-out that fits,
one that does not, and one whose shrink waits for an operation of the matrix engine. -/
theorem test_meets_barriers :
    let s := issue [0, 1] base
    let last := issue [0, 1] (team (fun tm => { tm with bars := [(2, { arrived := [2, 3] })] }) base)
    let again := issue [0, 1] (team (fun tm => { tm with bars := [(2, { arrived := [1] })] }) base)
    (∀ l ∈ s.iss.lanes, s.tOf l ∉ (s.bar 1 2).arrived)
    ∧ (∃ x ∈ s.drain.liveThreads 1, x ∉ (s.drain.bar 1 2).arrived ∧ x ∉ s.drain.iss.lanes.map s.drain.tOf)
    ∧ again.iss.lanes = [0] ++ 1 :: [] ∧ (∀ k ∈ [0], again.tOf k ∉ (again.bar 1 2).arrived) ∧ again.tOf 1 ∈ (again.bar 1 2).arrived
    ∧ (∀ l ∈ last.iss.lanes, last.tOf l ∉ (last.bar 1 2).arrived)
    ∧ (let s0 := last.drain
       s0.iss.lanes ≠ [] ∧ (∀ x ∈ s0.iss.lanes.map s0.tOf, x ∈ s0.liveThreads 1)
       ∧ (∀ x ∈ s0.liveThreads 1, x ∈ (s0.bar 1 2).arrived ∨ x ∈ s0.iss.lanes.map s0.tOf)
       ∧ (s0.bar 1 2).copies = 0 ∧ (s0.bar 1 2).carve = none)
    ∧ (let busy : State := { last with mops := [⟨0, 1, 0, [0], 8, 2, .acld 0 false, false, []⟩] }
       let fits (r : Nat × Nat) : Bool := decide (r.1 ≤ (last.team 1).scrg ∧ r.2 ≤ (last.team 1).l1g)
         || granulesFit ({ last.team 1 with scrg := r.1, l1g := r.2 } :: [])
       (last.teams.filter fun e => e.1 != 1 && e.2.live && e.2.core == 0) = [] ∧ fits (0, 0) = true ∧ fits (40, 8) = false
       ∧ 0 < (last.team 1).scr ∧ last.spanEnd 1 = 0 ∧ 0 < busy.drain.spanEnd 1 ∧ (busy.drain.bar 1 2).arrived = [2, 3])
    ∧ ((team (fun tm => { tm with det := true, stage := 14 }) base).team 1).det = true
    ∧ ((team (fun tm => { tm with det := true, stage := 14 }) base).team 1).stage ≠ 15 ∧ (base.team 1).det = false
    ∧ ((team (fun tm => { tm with det := true, stage := 15 }) base).team 1).stage = 15 := by decide +kernel

/-- SystemRegisterAccess: a team register, a thread register in and out of handler mode, a privileged register. -/
theorem test_meets_sysregs :
    let s := issue [0, 1] base
    let h := issue [0, 1] (thread 0 (fun th => { th with handler := true }) base)
    let hh := issue [0] (thread 0 (fun th => { th with handler := true }) base)
    (0x0200#16).toNat / 256 < 0x08 ∧ (2 : VReg).toNat % 2 = 0 ∧ (0x0A < (0x2A00#16).toNat / 256 ∧ 0x10 ≤ (0x2A00#16).toNat / 256)
    ∧ (∀ l ∈ s.iss.lanes, ¬ ((s.team 1).priv = true ∨ (s.thr 1 (s.tOf l)).handler = true))
    ∧ 0x2A ∉ [0x10, 0x38, 0x48, 0x49, 0x4A, 0x4B, 0x4C]
    ∧ s.iss.lanes = [0] ++ [1] ∧ hh.iss.lanes.Nodup ∧ (∀ l ∈ hh.iss.lanes, (hh.thr 1 (hh.tOf l)).handler = true)
    ∧ h.iss.lanes = [0] ++ 1 :: [] ∧ (∀ k ∈ [0], (h.thr 1 (h.tOf k)).handler = true) ∧ (h.thr 1 (h.tOf 1)).handler = false
    ∧ 0x08 ≤ (0x0800#16).toNat / 256 ∧ (0x0A00#16).toNat / 256 ≤ 0x0A := by decide +kernel

/-- An issue of lanes 0 and 1 with the line addresses 0x1000 and 0x1040 in v2:v3. -/
def lines : State := issue [0, 1] (regs [(0, 2, 0x1000), (1, 2, 0x1040), (0, 8, 5), (1, 8, 6)] base)

/-- What the checks of an access of `lines` give. -/
def lineAddrs : List (Nat × Nat × Option Tlb) := [(0, 0x1000, some page), (1, 0x1040, some page)]

/-- Record emission: launch 1 with a graph of two nodes and one edge. -/
def graph (s : State) : State :=
  s.setLaunch 1
    { live := true, hasGraph := true, edges := [⟨0, 1, 4⟩], nodes := [{}, { qbase := 0x8000, qcap := 4, code := 4, stage := 1 }] }

/-- Records: an edge with room, frames that are aligned and one that is not, code pairs, a full edge. -/
theorem test_meets_emission :
    let s := graph (issue [0, 1] (regs [(0, 4, 0x100), (1, 4, 0x200), (0, 6, 4), (1, 6, 16), (0, 10, 0x108)] base))
    let ln := s.launch (s.team 1).launch
    let e := ln.edges.getD 0 ⟨0, 0, 0⟩
    (ln.hasGraph = true ∧ 0 < ln.edges.length ∧ e.src = (s.team 1).node ∧ NMap.get 0 (s.team 1).emitted 0 + s.iss.lanes.length ≤ e.maxEmit)
    ∧ ¬ (1 < ln.edges.length) ∧ (∀ l ∈ s.iss.lanes, s.rp l 4 % 16 = 0 ∧ nbit (s.rp l 4) 63 = false) ∧ nbit (s.rup 4) 63 = false
    ∧ s.iss.lanes = 0 :: [1]
    ∧ (∀ l ∈ s.iss.lanes, nbit (s.rp l 6) 63 = false ∧ canonical (s.rp l 6) = true ∧ packetAddr (s.rp l 6) = true) := by decide +kernel

/-- Records: lane 1 fails where lane 0 does not: frames that are misaligned and domain-global, code pairs of another form and within a
packet; a domain-global frame in u4. -/
theorem test_meets_failing_emission :
    let s := graph (issue [0, 1] (regs [(0, 4, 0x100), (1, 4, 0x108), (0, 6, 0x100), (1, 6, 0x100), (1, 7, 0x80000000),
      (0, 8, 4), (1, 8, 4), (1, 9, 0x40000000), (0, 10, 4), (1, 10, 8), (0, 12, 4), (1, 12, 4)] base))
    let far := graph (issue [0, 1] (regs [(0, 12, 4), (1, 12, 4)] (uregs [(5, 0x80000000)] base)))
    s.iss.lanes = [0] ++ 1 :: [] ∧ (s.rp 0 4 % 16 = 0 ∧ nbit (s.rp 0 4) 63 = false ∧ s.rp 1 4 % 16 ≠ 0)
    ∧ (s.rp 0 6 % 16 = 0 ∧ nbit (s.rp 0 6) 63 = false ∧ s.rp 1 6 % 16 = 0 ∧ nbit (s.rp 1 6) 63 = true)
    ∧ nbit (s.rup 4) 63 = false ∧ (∀ d ∈ [8, 10], nbit (s.rp 0 d) 63 = false ∧ canonical (s.rp 0 d) = true ∧ packetAddr (s.rp 0 d) = true)
    ∧ (nbit (s.rp 1 8) 63 = false ∧ canonical (s.rp 1 8) = false)
    ∧ (nbit (s.rp 1 10) 63 = false ∧ canonical (s.rp 1 10) = true ∧ packetAddr (s.rp 1 10) = false)
    ∧ far.iss.lanes = [] ++ 0 :: [1] ∧ nbit (far.rup 4) 63 = true ∧ packetAddr (far.rp 0 12) = true := by decide +kernel

/-- Records: slot addresses within the queue, one that is not aligned, one past the queue's end; a thread that lives on. -/
theorem test_meets_joins :
    let s := graph (issue [0, 1] (regs [(0, 4, 0x8000), (1, 4, 0x8060), (0, 6, 0x8010), (0, 8, 0x8080)] base))
    let ln := s.launch (s.team 1).launch
    let s1 := s.drain.publish s.cur.core 7 1 (s.tOf s.low)
    let inQueue (x : Nat) : Prop := ln.hasGraph = true ∧ ∃ nd ∈ ln.nodes.drop 1, nd.qbase ≤ x ∧ x < nd.qbase + 32 * nd.qcap
    (∀ l ∈ s.iss.lanes, s.rp l 4 % 32 = 0 ∧ inQueue (s.rp l 4)) ∧ s.rp 0 6 % 32 ≠ 0 ∧ s.rp 0 8 % 32 = 0 ∧ ¬ inQueue (s.rp 0 8)
    ∧ s.iss.lanes = [] ++ 0 :: [1] ∧ s1.iss = s.iss ∧ (∀ b < 16, (s1.bar 1 b).arrived = [])
    ∧ (∃ x ∈ s1.liveThreads 1, ∀ l ∈ s.iss.lanes, x ≠ s.tOf l) := by decide +kernel

/-- A record on its way to node 1 of launch 1. -/
def arriving : RecArr := { uid := 1, launch := 1, node := 1, rcd := ⟨0, 0⟩, plti := 0, seq := 0, t := 0, d := some 4 }

/-- Records: an arrival that can be written and one whose queue is not mapped; decrements of a counter of 0 and of 2. -/
theorem test_meets_arrivals :
    let s : State := { graph base with recArrs := [arriving] }
    let far : State := { (base.setLaunch 1 { live := true, nodes := [{}, { qbase := 0x400000, qcap := 4 }] }) with recArrs := [arriving] }
    let s1 := State.fillRegs { s with recArrs := [] } 1 0 [(4, toW 0x8000), (5, 0)]
    let f1 := State.fillRegs { far with recArrs := [] } 1 0 [(4, toW 0x400000), (5, 0)]
    let j : JoinArr := ⟨1, 1, 0x8000, 0, some 4⟩
    let two : State := { graph base with joinArrs := [j], mem := memPuts tables 0x8008 (toBytes 8 (2 * 2 ^ 45)) }
    s.recArrs = arriving :: [] ∧ (s.launch 1).live = true ∧ (okOf (s1.kWrite 1 0x8000 arriving.rcd.bytes)).isSome = true
    ∧ (errOf (f1.kWrite 1 0x400000 arriving.rcd.bytes)).isSome = true ∧ two.joinArrs = j :: []
    ∧ ((okOf (two.kRead 1 0x8008 8).2).map fun bs => ofBytes bs / 2 ^ 45 % 2 ^ 12) = some 2
    ∧ ((okOf ((graph base).kRead 1 0x8008 8).2).map fun bs => ofBytes bs / 2 ^ 45 % 2 ^ 12) = some 0
    ∧ (okOf ((two.kRead 1 0x8008 8).1.kWrite 1 0x8008 (toBytes 8 (2 ^ 45)))).isSome = true := by decide +kernel

/-- AccessChecks: an address that passes, one that is misaligned, a domain-global one, one that is not canonical, an unmapped one. -/
theorem test_meets_checks :
    0x1002 % 4 ≠ 0 ∧ (2 ^ 63 + 4) % 4 = 0 ∧ nbit (2 ^ 63 + 4) 63 = true ∧ (2 ^ 62 % 4 = 0 ∧ nbit (2 ^ 62) 63 = false ∧ canonical (2 ^ 62) = false)
    ∧ (canonical 0x1000 = true ∧ okOf (base.xlat 0 0 false false .write 0x1000) = some page)
    ∧ (canonical 0x400000 = true ∧ errOf (base.xlat 0 0 false false .write 0x400000) = some .pageFault ∧ Cause.pageFault ≠ .memUe)
    ∧ okOf (lines.checkLanes 1 0 .write 4 (lines.laneAddrs 2 false)) = some lineAddrs
    ∧ errOf (lines.checkLanes 1 0 .write 4 [(0, 0x1000), (1, 0x400000)])
        = some { cause := .pageFault, lane := 1, check := 3, addr := 0x400000, write := true } := by decide +kernel

/-- A team whose launch binds nothing needs of its copies only, where none has fenced, that they are no older than its start. -/
theorem needAt_unbound (s : State) (p u va : Nat) (h : (s.launch (s.team u).launch).binds = []) (ha : s.acqs = []) :
    s.needAt p u va = (s.team u).since := by simp [State.needAt, h, ha]

/-- Without a copy anywhere no place holds one. -/
theorem copy_of_nothing (s : State) (p line : Nat) (h : s.copies = []) : s.copy p line = none := by
  simp [State.copy, h, NMap.find]

/-- LoadResults: held translations, a line that nothing spoils, copies of no age, a team that has not fenced. -/
theorem test_meets_loads :
    let s1 := (lines.drainFor lineAddrs).noteAll lines.cur.core lineAddrs
    (okOf (lines.checkLanes 1 0 .read 4 (lines.laneAddrs 2 false)) = some lineAddrs ∧ lines.ldInCheck 4 (lines.laneAddrs 2 false) = false
      ∧ lines.team 1 = (lines.drainFor lineAddrs).team 1 ∧ (lines.drainFor lineAddrs).iss = lines.iss ∧ lines.logs 1 0 = []
      ∧ (s1.linesAt 0).length + lineAddrs.length ≤ s1.copyCap 0
      ∧ (∀ x ∈ lineAddrs, x.2.2 = some page ∧ page.disc = false ∧ s1.poison.contains (pline (page.paOf x.2.1)) = false
          ∧ s1.cisHas (pline (page.paOf x.2.1)) = false ∧ (s1.thr 1 x.1).fenced = 0))
    ∧ (∀ p va, s1.needAt p 1 va ≤ s1.tick) ∧ ∀ p line c, s1.copy p line = some c → s1.needAt p 1 0x1000 ≤ c.born := by
  refine ⟨by decide +kernel, fun p va => ?_, fun p line c h => ?_⟩
  · rw [needAt_unbound _ _ _ _ (by decide +kernel) (by decide +kernel)]
    decide +kernel
  · rw [copy_of_nothing _ _ _ (by decide +kernel)] at h
    cases h

/-- LoadInCheck: a check that needs a walk; another LD in check; the end of a check. -/
theorem test_meets_load_checks :
    let cold := { lines with tlb := [] }
    let lg : OpLog := { frag := 0, word := 0, packet := 4, minor := 4, t := 10, addrs := [(0, 0x1000), (1, 0x1040)], deferred := false,
                        handler := false, step := 0 }
    let busy : State := { cold with oplogs := [(gkey 1 0, [lg])] }
    cold.logs 1 0 = [] ∧ cold.ldInCheck 4 (cold.laneAddrs 2 false) = true
    ∧ busy.logs 1 0 = [lg] ∧ lg.deferred = false ∧ (busy.logs 1 0).find? (fun lg => !lg.deferred) = some lg
    ∧ ((okOf (busy.checkLanes 1 0 .read (ldSize lg.minor) lg.addrs)).any fun l =>
        (okOf ((busy.noteAll 0 l).loadLanes 1 0 lg.minor lg.t l)).isSome) = true := by decide +kernel

/-- StoreResults and UniformAndRemoteAccesses: accesses within their lines, a line that nothing spoils, a remote address. -/
theorem test_meets_stores :
    let far := issue [0] (regs [(0, 2, 0x100), (0, 3, 0x80A00000)] (uregs [(2, 0x1008)] base))
    let sd := lines.drainFor lineAddrs
    let one : List (Nat × Nat × Option Tlb) := [(0, 0x1008, some page)]
    let fd := far.drainFor [(0, 0x80A0000000000100, none)]
    let s1 := (far.drainFor one).noteAll far.cur.core one
    (∀ x ∈ lineAddrs, page.paOf x.2.1 % 64 + 16 ≤ 64) ∧ (∀ x ∈ lineAddrs, x.2.2 = some page) ∧ page.disc = false
    ∧ lines.team 1 = sd.team 1 ∧ sd.iss = lines.iss ∧ (sd.linesAt 0).length + lineAddrs.length ≤ sd.copyCap 0
    ∧ (far.drainFor one).team 1 = far.team 1 ∧ (far.drainFor one).iss = far.iss ∧ (s1.linesAt 0).length < s1.copyCap 0
    ∧ (s1.thr 1 0).fenced = 0 ∧ s1.copies = []
    ∧ okOf (far.checkLanes 1 0 .read 8 (far.uniAddr 2 true)) = some [(0, 0x1008, some page)]
    ∧ okOf (far.checkLanes 1 0 .write 8 (far.uniAddr 2 true)) = some [(0, 0x1008, some page)]
    ∧ s1.poison.contains (pline (page.paOf 0x1008)) = false ∧ s1.cisHas (pline (page.paOf 0x1008)) = false ∧ page.paOf 0x1008 % 64 + 8 ≤ 64
    ∧ far.laneAddrs 2 false = [(0, 0x80A0000000000100)] ∧ 0x80A0000000000100 % 16 = 0 ∧ nbit 0x80A0000000000100 63 = true
    ∧ far.iss.lanes = [0] ∧ fd.team 1 = far.team 1 ∧ fd.iss = far.iss ∧ (fd.thr 1 0).fenced = 0
    ∧ fd.domCopy 0 0x80A0000000000100 = none ∧ far.logs 1 0 = [] := by decide +kernel

/-- ScratchpadAccesses: offsets at the start and at the end, a skipped lane, an offset that is misaligned and one that is out. -/
theorem test_meets_scratch :
    let s := issue [0, 1] (regs [(0, 2, 0), (1, 2, 65520), (0, 4, 3), (1, 4, 0xFFFFFFFF), (0, 6, 65534), (0, 8, 65536)] base)
    (∀ l ∈ s.iss.lanes, (s.rv l 2).toNat % 16 = 0 ∧ (s.rv l 2).toNat + 16 ≤ (s.team 1).scr)
    ∧ s.iss.lanes.Pairwise (· < ·) ∧ s.iss.lanes.length ≤ 32
    ∧ (s.iss.lanes.filterMap fun l => if s.rv l 4 = 0xFFFFFFFF then none else some (l, (s.rv l 4).toNat * 16)) = [(0, 48)]
    ∧ (8 : VReg).toNat + 16 / 4 ≤ 64 ∧ s.iss.lanes = [] ++ 0 :: [1] ∧ (s.rv 0 6).toNat % 4 ≠ 0
    ∧ ((s.rv 0 8).toNat % 4 = 0 ∧ (s.team 1).scr < (s.rv 0 8).toNat + 4) := by decide +kernel

/-- ScopedOperations: checks that pass, a domain-global address whose copies are given up. -/
theorem test_meets_scoped :
    let far := issue [0] (regs [(0, 2, 0x100), (0, 3, 0x80A00000)] base)
    let l : List (Nat × Nat × Option Tlb) := [(0, 0x80A0000000000100, none)]
    let s0 := (far.drainFor l).noteAll far.cur.core l
    let g := s0.giveUp 0 0x80A0000000000100 1 0
    let q := (s0.acquired 0 7 (some 0x80A0000000000100)).giveUp 0 0x80A0000000000100 1 0
    okOf (lines.checkLanes 1 0 .write 4 (lines.laneAddrs 2 false)) = some lineAddrs ∧ (lines.team 1).det = false
    ∧ lines.remote = [] ∧ lineAddrs.all (fun e => e.2.2.isSome) = true
    ∧ okOf (far.checkLanes 1 0 .write 4 (far.laneAddrs 2 false)) = some [(0, 0x80A0000000000100, none)]
    ∧ g.team 1 = s0.team 1 ∧ g.iss = s0.iss ∧ q.team 1 = s0.team 1 ∧ q.iss = s0.iss := by decide +kernel

/-- A remote SC operation of thread 0 without an answer. -/
def scAsked : RemOp := ⟨5, 1, 1, 0, 0, 5, ⟨.read, 0, 8, 2, 0, 0, 7, true, 0⟩, .flags, false, 0⟩

/-- ScopedOperations: an SC operation that still awaits an answer, a deterministic launch. -/
theorem test_meets_scoped_waits :
    let waits : State := { lines with remote := [scAsked] }
    let det := team (fun tm => { tm with det := true }) lines
    waits.remote.any (fun r => r.req.sc && r.uid == 1 && r.t == waits.tOf 0) = true ∧ waits.iss.lanes.contains 0 = true
    ∧ okOf (waits.checkLanes 1 0 .write 4 (waits.laneAddrs 2 false)) = some lineAddrs
    ∧ (det.team 1).det = true ∧ OpK.amax.atIssue = true := by decide +kernel

/-- BufferedAtomics: a deterministic launch whose buffer has room. -/
theorem test_meets_buffered :
    let det := issue [0, 1] (team (fun tm => { tm with det := true }) lines)
    (det.team 1).det = true ∧ det.iss.lanes.Nodup
    ∧ det.bufops.countP (fun b => b.core == 0 && !b.spilled) + det.iss.lanes.length ≤ 4096
    ∧ okOf (det.checkLanes 1 0 .write 4 (det.laneAddrs 2 false)) = some lineAddrs := by decide +kernel

/-- AtomicFunctions: every type at the ends of its width. -/
theorem test_meets_atomics :
    (∀ ty < 5, ty < 5 ∧ (2 ^ 32 - 1) < 2 ^ (if ty = 2 ∨ ty = 3 then 64 else 32) ∧ 0 < 2 ^ (if ty = 2 ∨ ty = 3 then 64 else 32)) := by decide

/-- A pending operation of thread 0 at the line of 0x1000. -/
def pend (sc : Bool) : Pend :=
  { uid := 1, t := 0, core := 0, slice := 0, kind := .atom .add 0, va := 0x1000, size := 4, x := 1, cmp := 0, scope := 7, sc := sc,
    acq := false, regs := [8], tr := some page }

/-- A copy of a line, written in its first byte. -/
def held : LineCopy := { data := List.replicate 64 7, dirty := true :: List.replicate 63 false, born := 0, vas := [],
                          who := List.replicate 64 2 }

/-- PendingOperations: one of each queue, its line clean and of no completion word; a read of a completion word. -/
theorem test_meets_pending :
    let s : State := { base with atoms := [pend false], scops := [pend true] }
    let q : Pend := { pend true with kind := .read, size := 8 }
    let w : State := { base with scops := [q], cwords := [(0x1004, 7)] }
    Memory.wf s.mem = true ∧ (pend false).tr = some page ∧ (pend true).acq = false ∧ page.disc = false ∧ 5 ≤ (pend true).scope
    ∧ farLine 0x40 = false ∧ page.paOf 0x1000 % 64 + 4 ≤ 64 ∧ (4 : Nat) < 64 ∧ (pend false).regs.Nodup ∧ s.poison.contains 0x40 = false
    ∧ s.cisHas 0x40 = false ∧ (∀ x ∈ s.copies, x.1 ≠ ckey 0 0x40) ∧ s.atoms = pend false :: [] ∧ s.scops = pend true :: []
    ∧ s.cwords = [] ∧ (s.thr 1 0).exited = false
    ∧ (q.kind.stores = false ∧ q.core < 192 ∧ w.scops = q :: []
        ∧ ∃ c ∈ w.cwords, page.paOf q.va < c.1 + 8 ∧ c.1 < page.paOf q.va + q.size ∧ c.2 ≤ q.scope) := by decide +kernel

/-- Eviction: a line of an L1, a domain-global one of an L1 whose die holds none, and of a die; written and not written. -/
theorem test_meets_eviction :
    let l1 := base.setCopy 0 0x40 held
    let line := dline 0x80A0000000000100
    let d := (base.setCopy 0 line held).setCopy 193 line held.clean
    isDline 0x40 = false ∧ farLine 0x40 = false ∧ l1.copy 0 0x40 = some held ∧ l1.cisHas 0x40 = false ∧ Memory.wf l1.mem = true
    ∧ isDline line = true ∧ d.copy 0 line = some held ∧ d.copy (192 + coreDie 0) line = none ∧ d.copy 193 line = some held.clean
    ∧ 192 ≤ 193 ∧ true ∈ held.dirty ∧ ¬ true ∈ held.clean.dirty := by decide +kernel

/-- LateFills: fills of each kind, of a thread that lives and of one that has exited; open loads of 8 and of 16 bytes. -/
theorem test_meets_fills :
    let f (uni : Bool) (t : Nat) : Fill := ⟨1, t, [(8, 5), (9, 6)], uni, none⟩
    let late (n : Nat) : LateLoad := ⟨0, 0x1000, some page, List.replicate n 7, 4, 8⟩
    let open_ (n : Nat) : Fill := ⟨1, 0, [(8, 5)], false, some (late n)⟩
    let fs : State := { base with loads := [f false 0, open_ 4, open_ 16], scrLoads := [f false 9], lates := [f true 0] }
    fs.loads[0]? = some (f false 0) ∧ (fs.thr 1 0).exited = false ∧ fs.scrLoads[0]? = some (f false 9) ∧ (fs.thr 1 9).exited = true
    ∧ fs.lates[0]? = some (f true 0) ∧ ((f true 0).vals.map (·.1)).Nodup
    ∧ fs.loads[1]? = some (open_ 4) ∧ (late 4).bytes.length = 4 ∧ fs.loads[2]? = some (open_ 16) ∧ (late 16).bytes.length = 16 := by
  decide +kernel

/-- PendingFirst: an operation that is performed, one whose domain-global line is not there, an addition to the Cistern. -/
theorem test_meets_first :
    let far : Pend := { pend false with va := 0x80A0000000000100, scope := 0, tr := none }
    let s (p : Pend) : State := { issue [0] base with atoms := [p] }
    let q : CisAdd := ⟨1, 0, 0x1004, 0x3F800000⟩
    let c : State := { issue [0] base with cisAdds := [q] }
    let mine (p : Pend) : Bool := p.uid == 1 && p.t / 32 == 0
    let hit (line : Nat) : Bool := [(0, 0x1008, some page)].any fun x => lineOf x.2.2 x.2.1 == line || isDline (lineOf x.2.2 x.2.1) != isDline line
    hit (lineOf (some page) 0x1000) = true ∧ hit (lineOf none 0x80A0000000000100) = true ∧ hit (lineOf (some page) 0x1040) = false
    ∧ (∀ p ∈ [pend false, far], mine p = true ∧ (s p).atoms.filter mine ++ (s p).scops.filter mine = [p] ∧ (s p).atoms = [p]
      ∧ (s p).cisAdds = [] ∧ (s p).loads = [] ∧ (s p).scops = [])
    ∧ (let s2 : State := { s (pend false) with atoms := [], scops := [], loads := [] }
       (s2.ready (pend false)).blocked (pend false) = false)
    ∧ (let s2 : State := { s far with atoms := [], scops := [], loads := [] }
       (s2.ready far).blocked far = true)
    ∧ c.cisAdds = [q] ∧ (q.uid == 1 && q.t / 32 == 0) = true ∧ c.atoms = [] ∧ c.scops = [] ∧ c.loads = [] := by decide +kernel

/-- MemoryWaits: an object, a region that BIND takes and those that it refuses. -/
theorem test_meets_waits :
    let s := issue [0] (regs [(0, 4, 0x1000), (0, 6, 64), (0, 8, 0x2008), (0, 12, 0x1020), (0, 16, 0x1000), (0, 18, 0)] base)
    s.drain.iss = s.iss ∧ s.iss.lanes.Nodup
    ∧ okOf (s.checkLanes 1 0 .write 8 (s.laneAddrs 8 false)) = some [(0, 0x2008, some page)]
    ∧ (s.rp 0 4 % 64 = 0 ∧ s.rp 0 6 % 64 = 0 ∧ s.rp 0 8 % 8 = 0 ∧ 64 ≤ s.rp 0 6 ∧ s.rp 0 6 ≤ 2 ^ 40 ∧ (s.launch 1).binds.length < 256
      ∧ ∀ b ∈ (s.launch 1).binds, b.1 + b.2.1 ≤ s.rp 0 4 ∨ s.rp 0 4 + s.rp 0 6 ≤ b.1)
    ∧ s.rp 0 12 % 64 ≠ 0 ∧ (s.rp 0 4 + 4) % 8 ≠ 0 ∧ (s.rp 0 18 % 64 = 0 ∧ s.rp 0 18 < 64) := by decide +kernel

/-- WaitEnds: each wait at its event, with nothing outstanding and with an operation outstanding; a fragment of two and of one; a copy of the
object's line there and not. -/
theorem test_meets_wait_ends :
    let w (m : Wait) := thread 0 (fun th => { th with mwait := m }) base
    let alone (m : Wait) := thread 0 (fun th => { th with mwait := m, frag := 9, next := 16 }) base
    let rel := Wait.rel 0x1000 7 (some page) 3
    let far (sc : Nat) := Wait.rel 0x80A0000000000100 sc none 3
    let second := thread 1 (fun th => { th with mwait := rel }) (w rel)
    let line := dline 0x80A0000000000100
    0 ∈ (w rel).fragOf 1 0 ∧ (∃ x ∈ (w rel).fragOf 1 0, x ≠ 0 ∧ ((w rel).thr 1 x).mwait ≠ .done)
    ∧ ((alone .bind).fragOf 1 0 = [0] ∧ ((alone .bind).thr 1 0).wait = .none ∧ ((alone .bind).thr 1 0).running = none)
    ∧ (∀ m ∈ [rel, far 7, far 0, .fence 7 3], ((w m).thr 1 0).mwait = m ∧ (w m).outstanding 1 0 7 3 = false
        ∧ (w m).caddyWait 1 0 (some 0x1000) = false ∧ (w m).caddyWait 1 0 none = false ∧ (w m).fragOf 1 0 = [0, 1, 2, 3])
    ∧ ((second.thr 1 1).mwait = rel ∧ 0 ∈ second.fragOf 1 1 ∧ (second.thr 1 0).mwait = rel)
    ∧ ((w (far 0)).copy 0 line = none ∧ (((w (far 0)).setCopy 0 line held).copy 0 line) = some held)
    ∧ ({ (w rel) with cisAdds := [⟨1, 0, 0x1004, 0⟩] } : State).outstanding 1 0 7 3 = true
    ∧ ((w .cflush).thr 1 0).mwait = .cflush ∧ ((w .cflush).team 1).det = false ∧ (w .cflush).cisAdds = [] ∧ (w .cflush).cistern = []
    ∧ ((team (fun tm => { tm with det := true }) (w .cflush)).team 1).det = true ∧ (w .cflush).bufops = []
    ∧ (base.thr 1 0).mwait = .none := by decide +kernel

/-- WaitEnds: what a release or a fence writes back sends a request, and where nothing is written none. -/
theorem test_meets_wait_writes :
    let rel := Wait.rel 0x1000 7 (some page) 3
    let w (m : Wait) := thread 0 (fun th => { th with mwait := m }) base
    let far (m : Wait) := (w m).setCopy 0 (dline 0x80A0000000000100) held
    let published (s : State) := s.publishIf 0 7 1 0 fun _ c => s.boundTo 1 0x1000 c
    ((far rel).thr 1 0).mwait = rel ∧ (far rel).outstanding 1 0 7 3 = false ∧ (published (far rel)).nextTag ≠ (far rel).nextTag
    ∧ (published (w rel)).nextTag = (w rel).nextTag
    ∧ ((far (.fence 7 3)).refresh 0 7 1 0).nextTag ≠ (far (.fence 7 3)).nextTag
    ∧ ((w (.fence 7 3)).refresh 0 7 1 0).nextTag = (w (.fence 7 3)).nextTag
    ∧ ({ (w rel) with atoms := [pend false] } : State).outstanding 1 0 7 3 = true := by decide +kernel

/-- GradientAdditions: pages of TIER 2, none of which the core holds, in a launch of either kind. -/
theorem test_meets_gradients :
    let s1 := (lines.noteAll 0 lineAddrs).drain
    let det := issue [0, 1] (team (fun tm => { tm with det := true }) lines)
    okOf (lines.checkLanes 1 0 .write 4 (lines.laneAddrs 2 false)) = some lineAddrs
    ∧ (∀ x ∈ lineAddrs, x.2.2 = some page ∧ page.tier = 2 ∧ inCxl (page.paOf x.2.1) = false)
    ∧ s1.copies = [] ∧ (lines.team 1).det = false ∧ (det.team 1).det = true
    ∧ det.iss.lanes.Nodup ∧ det.bufops.countP (fun b => b.core == 0 && !b.spilled) + 4 * det.iss.lanes.length ≤ 4096 := by
  decide +kernel

/-- GradientAdditions: lane 1 is misaligned, or domain-global, where lane 0 passes. -/
theorem test_meets_bad_gradients :
    lines.laneAddrs 2 false = [(0, 0x1000)] ++ (1, 0x1040) :: []
    ∧ okOf (lines.checkLanes 1 0 .write 4 [(0, 0x1000)]) = some [(0, 0x1000, some page)]
    ∧ okOf (lines.checkLanes 1 0 .write 4 [(1, 0x1042)]) = none
    ∧ okOf (lines.checkLanes 1 0 .write 4 [(1, 0x80A0000000000100)]) = some [(1, 0x80A0000000000100, none)] := by decide +kernel

/-- CisternAdditions: a line that the bank holds, and a Cistern of no lines. -/
theorem test_meets_cistern :
    let a : CisAdd := ⟨1, 0, 0x1004, 0x3F800000⟩
    let c : CisLine := ⟨homeOf 0x1004, 0x40, List.replicate 16 none, []⟩
    let s : State := { base with cisAdds := [a], cistern := [c] }
    Memory.wf s.mem = true ∧ s.copies = [] ∧ s.cisAdds = a :: [] ∧ s.cistern = [c] ∧ c.line = a.pa / 64 ∧ c.words.length = 16
    ∧ base.cisCap (homeOf 0x1004 / 32) = 0 ∧ base.poison.contains 0x40 = false ∧ a.pa % 4 = 0 := by decide +kernel

/-- A shape-and-stride record of rank 2: base, element code, extents, stride. -/
def shape (base esz e0 e1 str : Nat) : List Byte :=
  toBytes 8 base ++ [BitVec.ofNat 8 esz, 2, 0, 0] ++ toBytes 4 e0 ++ toBytes 4 e1 ++ toBytes 4 1 ++ toBytes 4 1 ++ toBytes 4 0
    ++ toBytes 8 str ++ List.replicate 24 0

/-- The bytes written to memory. -/
def store (l : List (Nat × List Byte)) (s : State) : State := { s with mem := l.foldl (fun m x => memPuts m x.1 x.2) s.mem }

/-- Uniform pairs of gang 0: register and value. -/
def upairs (l : List (Nat × Nat)) (s : State) : State :=
  uregs (l.flatMap fun x => [(x.1, toW x.2), (x.1 + 1, toW (x.2 / 2 ^ 32))]) s

/-- A scratchpad destination at u2, a source in memory at u4, a completion word or list at u6 and a misaligned one at u8. -/
def copying : State :=
  issue [0] (upairs [(2, 0x2000), (4, 0x2040), (6, 0x2080), (8, 0x2084), (10, 0x20C0)]
    (store [(0x2000, shape 0 4 4 2 16), (0x2040, shape 0x3000 4 4 2 16), (0x2080, [1, 0, 0, 0, 0]), (0x20C0, [1, 0, 0, 0, 1]),
      (0x2100, [9])] base))

/-- The records of `copying`. -/
def dstRec : Trec := ⟨0, 4, 2, [4, 2, 1, 1], [16, 0, 0]⟩
@[inherit_doc dstRec] def srcRec : Trec := ⟨0x3000, 4, 2, [4, 2, 1, 1], [16, 0, 0]⟩

/-- The word of a copy into the scratchpad, with or without a completion word. -/
def copyWord (cw : Bool) : CopyW := ⟨0, false, true, 0, true, 1, 2, cw, if cw then 7 else 0⟩

/-- CopyIssues: records that pass, a completion word that is aligned and one that is not. -/
theorem test_meets_copy :
    let s := copying
    let r := s.copyRecs 0x2000 0x2040 false
    s.copiesOn (s.team s.iss.uid).core < 128 ∧ okOf r.2 = some (dstRec, some srcRec)
    ∧ s.copyCheck false 0 0 true false (some srcRec) 0x2040 dstRec none = none
    ∧ (copyWord true).cw = true ∧ (copyWord false).cw = false ∧ s.rup 6 % 8 = 0 ∧ s.rup 8 % 8 ≠ 0 := by decide +kernel

/-- CopyIssues: a list with each row once, one with a row twice, and one that is short of rows to name. -/
theorem test_meets_rows :
    let s := copying
    let s1 := (s.copyRecs 0x2000 0x2040 false).1
    let list (a : Nat) : Option (List Nat) :=
      (okOf (s1.engRead s.ctx' a 8).2).map fun bs => (List.range 2).map fun k => bytesAt bs (4 * k) 4
    (∀ a ∈ [0x2080, 0x20C0, 0x2100], a % 4 = 0 ∧ nbit a 63 = false ∧ canonical a = true
      ∧ s.copyCheck false 0 0 true true (some srcRec) 0 dstRec (some ((a : Int), ((a + 8 : Nat) : Int))) = none)
    ∧ list 0x2080 = some [1, 0] ∧ ([1, 0].filter (· ≠ 0xFFFFFFFF)).Nodup ∧ (∀ x ∈ [1, 0], x < dstRec.e 1)
    ∧ list 0x20C0 = some [1, 1] ∧ ¬ ([1, 1].filter (· ≠ 0xFFFFFFFF)).Nodup ∧ list 0x2100 = some [9, 0] ∧ ∃ x ∈ [9, 0], dstRec.e 1 ≤ x := by
  decide +kernel

/-- A copy of 16 bytes within the scratchpad, from 64 to 0, that has started. -/
def inPad (started : Bool) : Copy :=
  { kind := .plain false 0, priv := false, skind := 1, dscr := true, src := ⟨64, 4, 1, [4, 1, 1, 1], [0, 0, 0]⟩,
    dst := ⟨0, 4, 1, [4, 1, 1, 1], [0, 0, 0]⟩, handle := 0, bar := none, done := none, at_ := 0, total := 16, started := started,
    fault := false, busy := 0, got := none }

/-- CopyQueries and CopyRuns: a channel that has delivered 8 bytes and holds a copy, started or not. -/
theorem test_meets_channel :
    let chan (b : Bool) := issue [0] (upairs [(2, 0x2000), (4, 8), (6, 9)] (store [(0x2000, shape 0x3000 4 4 2 16)]
      (base.setChan 1 3 { wp := 8, err := true, queue := [inPad b] })))
    (chan true).chan 1 3 = { wp := 8, err := true, queue := [inPad true] } ∧ (4 : VReg).toNat % 4 = 0
    ∧ (chan true).rup 4 ≤ 8 ∧ 8 < (chan true).rup 6 ∧ okOf ((chan true).readTrec 0x2000).2 = some srcRec
    ∧ (inPad true).nextPiece = (some 0, some 64, [0, 0, 0, 0]) ∧ (inPad true).at_ + (inPad true).dst.pb < (inPad true).total
    ∧ (inPad false).started = false := by decide +kernel

/-- CopyRuns: copies within the scratchpad, from memory and to memory, that have a part to come and that come to their last one, with no
completion word and a barrier to arrive at. -/
theorem test_meets_copy_parts :
    let more := inPad true
    let fromMem : Copy := { more with skind := 0, src := { more.src with base := 0x3000 } }
    let toMem : Copy := { more with dscr := false, dst := { more.dst with base := 0x3000 } }
    let last : Copy := { more with at_ := 8, total := 16, bar := some 0 }
    let x : Ctx := ⟨0, 0, false, 1, 1⟩
    let rd := base.engRead x 0x3000 8
    let wr := base.engPut x 0x3000 (List.replicate 8 0)
    base.halted 1 = false ∧ more.at_ + 8 < more.total ∧ last.total ≤ last.at_ + 8 ∧ (base.ctxOf 1 false).core = x.core ∧ (base.ctxOf 1 false).launch = 1
    ∧ fromMem.nextPiece = (some 0, some 0x3000, [0, 0, 0, 0]) ∧ toMem.nextPiece = (some 0x3000, some 64, [0, 0, 0, 0])
    ∧ okOf rd.2 = some (List.replicate 8 0) ∧ rd.1.teams = base.teams
    ∧ rd.1.scratch = base.scratch ∧ wr.1.teams = base.teams ∧ wr.2 = none ∧ Memory.wf base.mem = true ∧ base.copies = []
    ∧ (okOf (base.engXlat x .read 0x3000)).any (fun e => e.paOf 0x3000 == 0x3000 && !base.discarded e) = true
    ∧ (okOf (base.engXlat x .write 0x3000)).any (fun e => e.paOf 0x3000 == 0x3000 && !base.discarded e) = true
    ∧ base.poison = [] ∧ base.cisHas 0xC0 = false ∧ farLine 0xC0 = false := by decide +kernel

/-- A declaration record with one dimension of 8 bits, elements of one word and a pool of at most one page: fresh, or with a byte of
the unit's. -/
def decl (fresh : Bool) : List Byte :=
  toBytes 8 0x8000 ++ toBytes 4 0 ++ toBytes 4 1 ++ [1, 0, 0, 0, 8] ++ List.replicate 11 0 ++ toBytes 8 (if fresh then 0 else 0x200000)

/-- A region that is declared at 0x2000, and what its unit keeps. -/
def caddyBase (r : Option CReg) : State :=
  let s := issue [0, 1] (upairs [(2, 0x2000)] (regs [(0, 4, 5), (1, 4, 6), (0, 8, 7), (1, 8, 0)] (store [(0x2000, decl r.isNone)] base)))
  match r with
  | none => s
  | some r => { s with caddy := [(0x80, r)] }

/-- A region with one page and no element. -/
def oneReg : CReg := { pages := [0x200000] }

/-- No page: no operation meets an error in the pool, whatever the unit reads. -/
theorem pool_of_no_page (s : State) (c : Ctx) (r : CReg) (h : r.fenced = false) (hp : r.pages = []) : s.poolHit c r = none := by
  simp [State.poolHit, h, hp]

/-- CaddyIssues: the checks pass on a fresh region. -/
theorem test_meets_caddy_checks :
    (okOf ((caddyBase none).caddyCheck 2 8 4 0x2000 64)).isSome = true := by
  have h : (okOf ((caddyBase none).declOf (caddyBase none).ctx' 0x2000)).any (fun x => x.1.w == 1 && x.2 == 0x80 && x.1.keyw == 8
      && !((caddyBase none).creg x.1 x.2).fenced && ((caddyBase none).creg x.1 x.2).pages.isEmpty) = true := by decide +kernel
  cases hd : (caddyBase none).declOf (caddyBase none).ctx' 0x2000 with
  | error c => rw [hd] at h; simp [okOf] at h
  | ok x =>
    obtain ⟨d, line⟩ := x
    rw [hd] at h
    simp only [okOf, Option.any, Bool.and_eq_true, beq_iff_eq, Bool.not_eq_true', List.isEmpty_iff] at h
    obtain ⟨⟨⟨⟨hw, hl⟩, hk⟩, hf⟩, hp⟩ := h
    have hr : List.find? (fun l => decide (256 ≤ (caddyBase none).rp l 4) || (caddyBase none).rp l 4 == 18446744073709551615)
        (caddyBase none).iss.lanes = none := by decide +kernel
    simp [State.caddyCheck, hd, hw, hk, pool_of_no_page _ _ _ hf hp, hr, okOf]

/-- CaddyIssues: a handle that is misaligned, and a region that an error has fenced. -/
theorem test_meets_caddy_refusals :
    (errOf ((caddyBase none).caddyCheck 0 8 4 0x2001 64)).map (·.cause) = some .access
    ∧ (errOf ((caddyBase (some { fenced := true })).caddyCheck 0 8 4 0x2000 64)).map (·.cause) = some .memUe
    ∧ ((okOf ((caddyBase (some { fenced := true })).declOf (caddyBase (some { fenced := true })).ctx' 0x2000)).map (·.2)) = some 0x80 := by
  decide +kernel

/-- Does the region at 0x2000 find the nodes? -/
def finds (s : State) (n : Nat) : Option Bool := (okOf (s.declOf s.ctx' 0x2000)).map fun x => (s.require s.ctx' x.1 x.2 n).2

/-- CaddyIssues: a region with free nodes, and an issue that needs none. -/
theorem test_meets_caddy_nodes :
    finds (caddyBase (some oneReg)) 1 = some true ∧ finds (caddyBase none) 0 = some true := by decide +kernel

/-- An operation of thread 0 on its way to the unit of the line 0x80. -/
def caddyOn (minor : Nat) : CaddyOp :=
  { uid := 1, launch := 1, t := 0, slice := 0, minor := minor, handle := 0x2000, line := 0x80, key := 5, data := [7], reg := 8, w := 1, need := 1 }

/-- CaddyIssues: an issue that fits beside what is on its way to the region, and one that does not. -/
theorem test_meets_caddy_settled :
    let s : State := { caddyBase (some oneReg) with caddyOps := [caddyOn 1] }
    let full : State := { s with caddy := [(0x80, { oneReg with resv := 8192 })] }
    s.settleFor 0x80 1 = s ∧ (NMap.get {} full.caddy 0x80 : CReg).free < 1 * ((NMap.get {} full.caddy 0x80 : CReg).height + 1)
    ∧ (full.caddyOps.any fun o => o.line == 0x80) = true := by decide +kernel

/-- CaddyIssues: a deterministic launch whose buffer has room. -/
theorem test_meets_caddy_buffer :
    let det := team (fun tm => { tm with det := true }) (caddyBase (some oneReg))
    (det.team 1).det = true
    ∧ (okOf (det.bufferLanes 7 (fun l => .cred 0x2000 0x2000 (det.rp l 4) [det.rv l 8] (if det.rv l 8 ≠ 0 then 1 else 0)) []
        [(0, 0x2000), (1, 0x2000)])).isSome = true := by decide +kernel

/-- CaddyElements: data that is zero and data that is not, entries that rise, a key between them and one past them. -/
theorem test_meets_elements :
    let r : CReg := { entries := [(3, [1]), (9, [2])] }
    r.entries.Pairwise (fun p q => p.1 < q.1) ∧ [(0 : Word)].all (· == 0) = true ∧ [(4 : Word)].any (· != 0) = true
    ∧ ((9, [2]) ∈ r.entries ∧ 4 ≤ 9 ∧ (∀ f ∈ r.entries, 4 ≤ f.1 → 9 ≤ f.1)) ∧ (∀ e ∈ r.entries, e.1 < 10) := by decide +kernel

/-- CaddyUnit: each operation, on a region without a page. -/
theorem test_meets_caddy_unit :
    (∀ m < 5, let s : State := { caddyBase none with caddyOps := [caddyOn m] }
      s.caddyOps = caddyOn m :: [] ∧ Memory.wf s.mem = true ∧ farLine 0x80 = false ∧ s.cisHas 0x80 = false
      ∧ (s.thr 1 0).exited = false
      ∧ (((NMap.get {} s.caddy 0x80 : CReg).get 5).getD [0]).length = 1 ∧ ((NMap.get {} s.caddy 0x80 : CReg).next 1 5).2.length = 1)
    ∧ ∀ c, (caddyBase none).poolHit c {} = none :=
  ⟨by decide +kernel, fun c => pool_of_no_page _ c _ rfl rfl⟩

/-- The Boolean form of GoesOn. -/
def goesOn (s : State) (u : Nat) : Bool := !(s.liveThreads u).isEmpty && (List.range 16).all fun b => (s.bar u b).arrived.isEmpty

/-- It says what GoesOn says. -/
theorem goesOn_spec (s : State) (u : Nat) (h : goesOn s u = true) : s.GoesOn u := by
  simpa [goesOn, State.GoesOn] using h

/-- ImageLoads: addresses of whole images. -/
theorem test_meets_images :
    let s := issue [0, 1] (upairs [(2, 0x2000)] base)
    s.rup 2 % 64 = 0 ∧ isDomain (s.rup 2) = false ∧ canonical (s.rup 2) = true
    ∧ (∀ n ∈ [4160, 272, 528], okOf (s.rangeOk s.ctx' .read 0x2000 n) = some ()) := by decide +kernel

/-- ACT: indices at a NaN, below the first knot, at LO and past the last knot. -/
theorem test_meets_act_index :
    let s := { issue [0] base with actTabs := [(actKey 0 0 0 0, 0), (actKey 0 0 0 1, 0x3F800000)] }
    let ix (x : Nat) := fMul f32 0 false (fSub f32 0 false x (s.actWord 0 0 0 0)) (s.actWord 0 0 0 1)
    decodeF f32 (ix 0x7FC00000) = .nan ∧ decodeF f32 (ix 0xFF800000) = .inf true ∧ decodeF f32 (ix 0x7F800000) = .inf false
    ∧ (match decodeF f32 (ix 0xBF800000) with | .fin true _ _ => true | _ => false) = true
    ∧ (match decodeF f32 (ix 0) with | .fin _ 0 _ => true | _ => false) = true
    ∧ (match decodeF f32 (ix 0x437F0000) with | .fin false m e => m != 0 && !(Dy.mk m e).lt ⟨255, 0⟩ | _ => false) = true := by
  decide +kernel

/-- A load of team 1 on core 0. -/
def loading (kind : Nat) : ImgLoad := ⟨kind, 0, 1, 0, false, 0, [0], 8, 3, 0x2000, false, false⟩

/-- A macro image of one IADD, and a filter image of one tap. -/
def macroImage : List Byte := [1, 0] ++ List.replicate 14 0 ++ toBytes 4 0x01040280 ++ List.replicate 252 0
@[inherit_doc macroImage] def filterImage : List Byte := [1] ++ List.replicate 527 0

/-- ImageArrivals: each kind, its image at 0x2000; valid images and an invalid one. -/
theorem test_meets_arrivals_of_images :
    (∀ k ∈ [1, 4, 2],
      let s : State := { base with imgs := [loading k] }
      let r := s.engRead ((loading k).ctx (s.team 1).launch) 0x2000 (imgBytes k)
      s.imgs.find? (fun l => l.core == 0 && l.kind == k) = some (loading k) ∧ (loading k).susp = false ∧ (okOf r.2).isSome = true
      ∧ goesOn r.1 1 = true ∧ r.1.macroRuns 0 3 = false ∧ r.1.samples = [])
    ∧ (parseMacro macroImage).isSome = true ∧ (parseFilter filterImage).isSome = true ∧ parseMacro (List.replicate 272 0) = none := by
  decide +kernel

/-- MatrixIssues and MatrixEngine: offsets with room, words that agree and words that differ, a tile without and with an operation. -/
theorem test_meets_matrix :
    let s := issue [0, 1] (uregs [(4, 0), (5, 24576), (6, 49152), (7, 50688)] (regs [(0, 3, 0xCC), (1, 3, 0xCC), (0, 5, 1)] base))
    let op (k : MOpK) (b : Bool) : MOp := ⟨0, 1, 0, [0, 1], 8, 2, k, b, []⟩
    let room (off al n : Nat) : Prop := off % al = 0 ∧ off + n ≤ (s.team 1).scr
    s.voteWord 3 = some 0xCC ∧ s.voteWord 5 = none ∧ fwOk 0xCC = true ∧ scaled (fwA 0xCC) = true ∧ scaled (fwB 0xCC) = true
    ∧ (2 : BitVec 4).toNat < (s.team 1).acc
    ∧ room (s.ru 4).toNat 64 operandBytes ∧ room (s.ru 5).toNat 64 operandBytes ∧ room (s.ru 6).toNat 8 scaleBytes
    ∧ room (s.ru 7).toNat 8 scaleBytes ∧ room (s.ru 4).toNat 64 (512 * outBits (fwOut 0xCC))
    ∧ s.mops = [] ∧ ((s.tile 1 2).all fun x => (accvtElem 0xCC x).isSome) = true
    ∧ fwOk 0x3C00 = true ∧ accvtElem 0x3C00 0x7F000000 = none
    ∧ (op (.mma false 0xCC 0 24576 49152 50688) true).isMma = true ∧ goesOn s 1 = true := by decide +kernel

/-- SplatResults: registers of four, sources that are finite and one that is not. -/
theorem test_meets_splat : (8 : VReg).toNat % 4 = 0 ∧ (12 : VReg).toNat % 4 = 0
    ∧ ([0, 0x7F800000].any fun y => !isFinite32 y) = true ∧ clamp32 0 = 0 ∧ clamp32 0x3F000000 ≠ 0 ∧ lt32 0x3F800000 0x38800000 = false := by
  decide +kernel

/-- A ROUTE descriptor at 0x2000 with one token, one expert and a capacity of one. -/
def routeDesc : List Byte :=
  toBytes 8 0x3000 ++ toBytes 8 0x3100 ++ toBytes 8 0x3200 ++ toBytes 8 0x3300 ++ toBytes 8 0x3400 ++ toBytes 4 1 ++ toBytes 2 1
    ++ [1, 0] ++ toBytes 4 1 ++ List.replicate 12 0

/-- A SORT descriptor: no pairs, and one with bits out of order. -/
def sortDesc (bad : Bool) : List Byte :=
  toBytes 8 0x3000 ++ toBytes 8 0x3100 ++ toBytes 8 0x3200 ++ toBytes 8 0x3300 ++ toBytes 8 0x3400 ++ toBytes 4 0
    ++ [if bad then 9 else 0, 7] ++ List.replicate 18 0

/-- RouteAndSortIssues and RouteAndSortEnds: descriptors that pass, jobs that start, a job that is refused, a ROUTE whose arrays are
mapped and one whose CHOICE is not. -/
theorem test_meets_route :
    let s := issue [0] (upairs [(2, 0x2000), (4, 0x2040), (6, 0x2080)] (store [(0x2000, routeDesc), (0x2040, sortDesc false)] base))
    let c : Ctx := ⟨0, 0, false, 1, 1⟩
    let g := s.routeGo c routeDesc (List.range 1) [] 0
    let e := s.routeEnd c routeDesc [] (List.range 1)
    s.copiesOn 0 < 128 ∧ okOf (s.descCheck s.low (s.rup 2) none).2 = some routeDesc ∧ routeFieldsOk routeDesc = true
    ∧ routeArrays routeDesc = none ∧ s.sorts.length < 16
    ∧ okOf (s.descCheck s.low (s.rup 4) (some (s.rup 6))).2 = some (sortDesc false) ∧ 0 = NMap.get 0 s.sortTurn 0 % 8
    ∧ g.2.isSome = true ∧ goesOn g.1 1 = true ∧ e.2 = true ∧ goesOn e.1 1 = true
    ∧ (s.routeGo c (toBytes 8 0x400000 ++ routeDesc.drop 8) (List.range 1) [] 0).2 = none
    ∧ sortRefused (sortDesc false) = none ∧ (sortRefused (sortDesc true)).isSome = true
    ∧ goesOn ((s.runSort c (sortDesc true)).1.writeCw c 0x2080 7 (s.runSort c (sortDesc true)).2) 1 = true
    ∧ (s.runSort c (sortDesc true)).1.parts = [] ∧ g.1.parts.any (·.op == g.1.opNow) = true ∧ e.1.parts.any (·.op == e.1.opNow) = true
    ∧ (s.routeGo c (toBytes 8 0x400000 ++ routeDesc.drop 8) (List.range 1) [] 0).1.parts = [] := by
  decide +kernel

/-- EngineWrites: bytes within one part and over the end of a line, up to a page that is not mapped; a part that is the last one of its team, with
nothing and with a completion word to follow, and one that is not. -/
theorem test_meets_parts :
    let c : Ctx := ⟨0, 0, false, 1, 1⟩
    let p : EngPart := ⟨1, 4, 0, 0x3000, page, [1, 2]⟩
    let f : Nat × Nat × EngFin := (1, 4, .word 0 0 false 1 0x2080 7 5)
    let s (ps : List EngPart) (fs : List (Nat × Nat × EngFin)) : State := { base with parts := ps, fins := fs }
    let done (s : State) := s.engWrite 0 (page.paOf 0x3000) [1, 2]
    let one : State := { (s [p] [f]) with parts := [] }
    0x3004 % 8 + 2 ≤ 8 ∧ (okOf (base.engXlat c .write 0x3004)).isSome = true
    ∧ (base.engOut c 4 0x303C (List.replicate 8 1)).1.parts.length = 2
    ∧ (base.engOut c 4 0x1FFFFC (List.replicate 8 1)).2 = some (.pageFault, 0x200000)
    ∧ (s [p] []).parts[0]? = some p ∧ (s [p] []).discarded page = false ∧ (done one).parts = [] ∧ (done one).fins = [f]
    ∧ goesOn (done { (s [p] []) with parts := [] }) 1 = true
    ∧ goesOn (State.writeCw { done one with fins := [] } c 0x2080 7 5) 1 = true
    ∧ ((done { (s [p, p] []) with parts := [p] }).parts.any fun q => q.op == 4) = true := by decide +kernel

/-- A TRACE descriptor: root at 0x3000, no table, tmin 0. -/
def traceDesc : List Byte := toBytes 8 0x3000 ++ List.replicate 56 0

/-- A traversal from the root at 0x3000 along the z axis that visits the given node. -/
def traversing (cur : Option TNode) (fault : Option (Cause × Nat)) : Trav :=
  { org := [0, 0, 0], user := 0, dir := [0, 0, 0x3F800000], tmax := 0x41000000, tmin := 0, root := 0x3000, table := 0x3100, priv := false,
    emit := false, cullb := false, first := false, rtype := 0, mask := 255, seq := 0, lim := 0x41000000, cur := cur, stack := [],
    drops := [], trail := 0, redo := 0, best := none, fault := fault, told := false, sure := none }

/-- A leaf of one triangle, at a level. -/
def leafNode (level : Nat) (near : Word) : TNode := ⟨1, 0x3000, 1, level, near, none⟩

/-- Thread 0 with a traversal. -/
def tracing (v : Trav) : State := thread 0 (fun th => { th with trav := some v }) base

/-- TraceIssues: lanes without and with a traversal, a descriptor that is good and one with a byte too many. -/
theorem test_meets_traces :
    let s := issue [0, 1] (upairs [(2, 0x2000), (4, 0x2040)] (store [(0x2000, traceDesc), (0x2040, traceDesc.set 20 1)] base))
    let d := s.descCheck s.low (s.rup 2) none
    let e := okOf (s.descCheck s.low (s.rup 4) none).2
    (s.iss.lanes.all fun l => !s.travBusy 1 (s.tOf l)) = true ∧ s.iss.lanes.Nodup
    ∧ (issue [0] (tracing (traversing none none))).travBusy 1 0 = true
    ∧ okOf d.2 = some traceDesc ∧ bytesAt traceDesc 20 44 = 0 ∧ d.1.iss.lanes = s.iss.lanes
    ∧ (e.any fun b => bytesAt b 20 44 != 0) = true := by decide +kernel

/-- A traversal that has only nodes beyond its nearest hit left: it is not at its end after as many visits. -/
theorem run_skips (u t : Nat) (n : TNode) : ∀ (fuel : Nat) (s : State) (v : Trav), (s.thr u t).trav = some v → v.fault = none → v.redo = 0 →
    v.cur = some n → lt32 v.lim.toNat n.near.toNat = true → v.stack = List.replicate fuel n →
    ∃ w, ((State.runTrav fuel u t s).thr u t).trav = some w ∧ w.cur = some n ∧ w.fault = none
      ∧ (State.runTrav fuel u t s).iss = s.iss
  | 0, s, v, h, hf, _, hc, _, _ => ⟨v, h, hc, hf, rfl⟩
  | fuel + 1, s, v, h, hf, hr, hc, hl, hs => by
    have hn : s.visitNode u t v = s.setThr u t { s.thr u t with trav := some v.next } := by
      simp [State.visitNode, hc, hr, hl]
    have hx : v.next = { v with cur := some n, stack := List.replicate fuel n, trail := v.next.trail } := by
      simp [Trav.next, hs, List.replicate_succ]
    have hrun : State.runTrav (fuel + 1) u t s = State.runTrav fuel u t (s.setThr u t { s.thr u t with trav := some v.next }) := by
      simp [State.runTrav, h, hf, hc, hn]
    rw [hrun]
    obtain ⟨w, h1, h2, h3, h4⟩ := run_skips u t n fuel (s.setThr u t { s.thr u t with trav := some v.next }) v.next
      (by simp only [State.thr, State.setThr, NMap.get_put_same]) (by rw [hx]; exact hf) (by rw [hx]; exact hr) (by rw [hx]) (by rw [hx]; exact hl) (by rw [hx])
    exact ⟨w, h1, h2, h3, h4⟩

/-- The look-ahead does not bring such a traversal to its end. -/
theorem ahead_skips (s : State) (l : Nat) (v : Trav) (n : TNode) (hl : s.iss.lanes = [l]) (h : (s.thr s.iss.uid (s.tOf l)).trav = some v)
    (ht : v.told = false) (hf : v.fault = none) (hr : v.redo = 0) (hc : v.cur = some n) (hn : lt32 v.lim.toNat n.near.toNat = true)
    (hs : v.stack = List.replicate travFuel n) :
    s.travAhead.iss.lanes.findSome? s.travAhead.newTravFault = none ∧ ∃ l ∈ s.iss.lanes, s.travAhead.travLeft l = true := by
  obtain ⟨w, h1, h2, h3, h4⟩ := run_skips s.iss.uid (s.tOf l) n travFuel s v h hf hr hc hn hs
  have ha : s.travAhead = State.runTrav travFuel s.iss.uid (s.tOf l) s := by
    simp only [State.travAhead, State.lanes, hl, List.foldl_cons, List.foldl_nil, h, ht, Bool.false_eq_true, if_false]
  generalize State.runTrav travFuel s.iss.uid (s.tOf l) s = r at ha h1 h4
  have hth : (r.thL l).trav = some w := by simpa only [State.thL, State.tOf, h4] using h1
  refine ⟨?_, l, by simp [hl], ?_⟩
  · simp [ha, h4, hl, State.newTravFault, hth, h3]
  · simp [ha, State.travLeft, hth, h2, h3]

/-- TraversalReads: a traversal that the look-ahead does not bring to its end. -/
theorem test_meets_long_read (st : List TNode) (h : st = List.replicate travFuel (leafNode 2 0x42000000)) :
    let s := issue [0] (tracing { traversing (some (leafNode 2 0x42000000)) none with stack := st })
    s.travAhead.iss.lanes.findSome? s.travAhead.newTravFault = none ∧ ∃ l ∈ s.iss.lanes, s.travAhead.travLeft l = true := by
  intro s
  refine ahead_skips s 0 { traversing (some (leafNode 2 0x42000000)) none with stack := st } (leafNode 2 0x42000000) rfl ?_ rfl rfl rfl rfl
    (show lt32 0x41000000 0x42000000 = true by decide) h
  simp only [s, issue, tracing, thread, State.tOf, State.thr, State.setThr, NMap.get_put_same]

/-- TraversalReads: threads whose traversals have ended, one that has stopped, and one with nothing left to visit. -/
theorem test_meets_reads :
    let s := issue [0, 1] base
    let f := issue [0] (tracing (traversing none (some (.illegalField, 0))))
    let e := issue [0] (tracing (traversing none none))
    (s.iss.lanes.all fun l => let th := s.thr 1 (s.tOf l); !th.exited && th.trav.isNone && th.trw.isEmpty) = true ∧ (8 : VReg).toNat % 4 = 0
    ∧ (f.travAhead.iss.lanes.findSome? f.travAhead.newTravFault).isSome = true
    ∧ e.travAhead.iss.lanes.findSome? e.travAhead.newTravFault = none ∧ e.travAhead.travLeft 0 = false
    ∧ (e.thr 1 0).trav = some (traversing none none) := by decide +kernel

/-- An empty node cache holds no node. -/
theorem cachedNode_nil (s : State) (u : Nat) (n : TNode) (h : s.nodeCache = []) : s.cachedNode u n = none := by
  simp [State.cachedNode, h]

/-- What fetching a leaf at 0x3000 gives without the node cache. -/
def fetches (s : State) : Except (Cause × Nat) (List Byte) := (s.engRead (s.ctxOf 1 false) 0x3000 48).2

/-- NodeVisits: a traversal that has stopped, one of a stopped team, nodes that are skipped, too deep, at a misaligned root, and fenced. -/
theorem test_meets_visits :
    let far := leafNode 2 0x42000000
    let n := leafNode 2 0xFF800000
    let v := traversing (some n) none
    let s := tracing v
    (s.thr 1 0).trav = some v ∧ (traversing (some n) (some (.pageFault, 0))).fault ≠ none
    ∧ (team (fun tm => { tm with stop := some ⟨2, false, [], 0, 1, false⟩ }) s).halted 1 = true ∧ s.halted 1 = false
    ∧ lt32 v.lim.toNat far.near.toNat = true ∧ lt32 v.lim.toNat n.near.toNat = false
    ∧ 64 < (leafNode 65 0xFF800000).level ∧ v.root % 64 = 0 ∧ 0x3010 % 64 ≠ 0
    ∧ ({ s with nodeFences := [(0, 0xC0)] } : State).nodeFenced 0 n = true ∧ s.nodeFenced 0 n = false
    ∧ s.nodeCache = [] ∧ n.size = 48 ∧ (s.thr 1 0).exited = false ∧ (s.thr 1 0).trw = [] := by decide +kernel

/-- NodeVisits: nodes that are unmapped, poisoned, malformed and good. -/
theorem test_meets_fetches :
    errOf (fetches { base with tlb := [], mem := [] }) = some (.pageFault, 0x3000)
    ∧ (errOf (fetches { base with poison := [0xC0] })).map (·.1) = some .memUe
    ∧ okOf (fetches base) = some (List.replicate 48 0)
    ∧ nodeBad (leafNode 2 0) (List.replicate 48 0) = false ∧ nodeBad (leafNode 2 0) (List.replicate 48 1) = true := by decide +kernel

/-- An interior node with children from depth 1 to 2 and from 3 to 4 before the ray, of the given kinds. -/
def interior (kinds : Byte) : List Byte :=
  List.replicate 15 0 ++ [kinds] ++ [0, 0, 1, 1, 1, 2, 0, 0, 3, 1, 1, 4].flatMap (toBytes 2) ++ toBytes 8 0x3040 ++ toBytes 8 0x3080
    ++ List.replicate 8 0

/-- A triangle at depth 1 across the ray. -/
def across : List Byte :=
  [0xBF800000, 0xBF800000, 0x3F800000, 0x40400000, 0xBF800000, 0x3F800000, 0xBF800000, 0x40400000, 0x3F800000, 7, 0, 0].flatMap (toBytes 4)

/-- NodeSteps: no child entered, one and both; a leaf without and with a hit. -/
theorem test_meets_steps :
    let v := traversing none none
    let n : TNode := v.top
    v.redo = 0 ∧ n.kind = 0 ∧ v.entered n (interior 15) = [] ∧ (v.entered n (interior 13)).length = 1
    ∧ (v.entered n (interior 5)).map (·.near) = [0x3F800000, 0x40400000]
    ∧ (leafNode 2 0).kind = 1 ∧ v.tri (leafNode 2 0) (List.replicate 48 0) = none
    ∧ (v.tri (leafNode 2 0) across).map (·.t) = some 0x3F800000 ∧ v.stack = [] ∧ v.drops = [] := by decide +kernel

/-- A hit of the shader 1, and a table of two entries with a default. -/
def theHit : Hit := ⟨0x3F800000, 7, 0, 0, 0, 0, 1, 0⟩
@[inherit_doc theHit] def shaders (dflt : Nat) (entries : List Nat) (s : State) : State :=
  store [(0x3100, toBytes 4 2 ++ toBytes 4 dflt), (0x3120, entries.flatMap (toBytes 4))] s

/-- The table's words at its head and at an entry, and the state after they are read. -/
def tableAt (dflt : Nat) (es : List Nat) (va n : Nat) : State × Except (Cause × Nat) (List Byte) :=
  let s := shaders dflt es (graph (tracing (traversing none none)))
  s.engRead (s.ctxOf 1 false) va n

/-- TraversalEnds: an end without a hit, with one, and with a record to emit: an index past the table or within it, an entry that is none,
an edge that is free and one that is not. -/
theorem test_meets_traversal_ends :
    ((tracing (traversing none none)).thr 1 0).trav = some (traversing none none) ∧ (traversing none none).best = none
    ∧ theHit.shader = 1 ∧ { theHit with shader := 2 }.shader = 2
    ∧ (okOf (tableAt 0xFFFFFFFF [] 0x3100 8).2).map (fun b => (bytesAt b 0 4, bytesAt b 4 4)) = some (2, 0xFFFFFFFF)
    ∧ (okOf (tableAt 0 [] 0x3100 8).2).map (fun b => (bytesAt b 0 4, bytesAt b 4 4)) = some (2, 0)
    ∧ (okOf (tableAt 0 [0, 0xFFFFFFFF] 0x3124 4).2).map ofBytes = some 0xFFFFFFFF
    ∧ (okOf (tableAt 0 [0, 0] 0x3124 4).2).map ofBytes = some 0 ∧ (okOf (tableAt 0 [0, 5] 0x3124 4).2).map ofBytes = some 5
    ∧ (tableAt 0 [] 0x3100 8).1.edgeFree 1 0 = true ∧ (tableAt 0 [0, 5] 0x3124 4).1.edgeFree 1 5 = false
    ∧ (base.team 1).core < 192 ∧ (base.team 1).slice < 8 := by decide +kernel

/-- A texture of 4 by 4 bytes at 0x3000. -/
def texture : List Byte := toBytes 8 0x3000 ++ toBytes 4 4 ++ toBytes 4 4 ++ toBytes 4 4 ++ List.replicate 44 0

/-- Sampling: a texture and a slot that are good, a lane with finite coordinates and one with a NaN, as the last lane and before others. -/
theorem test_meets_sampling :
    let s := { issue [0] (upairs [(2, 0x2000)] (store [(0x2000, texture)] base)) with filters := [(slotKey 0 3, [tapOf 0])] }
    let c : Ctx := ⟨0, 0, false, 1, 1⟩
    let lane (x : Nat) := s.sampleLane c texture [tapOf 0] x 0 0
    okOf (s.descCheck s.low (s.rup 2) none).2 = some texture ∧ texOk texture = true
    ∧ NMap.find s.filters (slotKey (s.team 1).core 3) = some [tapOf 0]
    ∧ (okOf (lane 0x3F000000).2).map List.length = some 4 ∧ (okOf (lane 0x7FC00000).2).map List.length = some 4
    ∧ isFinite32 0x7FC00000 = false ∧ ((lane 0x3F000000).1.thr 1 0).exited = false ∧ goesOn (lane 0x3F000000).1 1 = true
    ∧ (s.thr 1 0).exited = false := by decide +kernel

/-- A triangle record: corners and identity; and a target of 16 by 16 pixels at 0x3000. -/
def triangle (xs : List Nat) : List Byte := xs.flatMap (toBytes 4) ++ toBytes 4 7 ++ List.replicate 8 0
@[inherit_doc triangle] def target : List Byte :=
  toBytes 8 0x3000 ++ toBytes 4 16 ++ toBytes 4 16 ++ toBytes 4 128 ++ toBytes 2 0 ++ toBytes 2 0 ++ toBytes 2 16 ++ toBytes 2 16
    ++ List.replicate 36 0

/-- Corners (0,0), (2,0), (0,2) at depth 1, corners in a line, and a corner that is a NaN. -/
def corners : List Nat := [0, 0, 0x3F800000, 0x40000000, 0, 0x3F800000, 0, 0x40000000, 0x3F800000]

/-- Rasterising: records that are read, a target that passes, every class, a triangle that can be drawn, flushes with and without a triangle
before them. -/
theorem test_meets_raster :
    let s := issue [0] (upairs [(2, 0x2000)] (regs [(0, 4, 0x2040)] (store [(0x2000, target), (0x2040, triangle corners)] base)))
    let d := s.descCheck s.low (s.rup 2) none
    let r := d.1.readTris 4 s.iss.lanes
    let bad := issue [0] (upairs [(2, 0x2000)] (regs [(0, 4, 0x2044)] (store [(0x2000, target)] base)))
    let j : RastJob := ⟨1, 0, 0, 0, false, triangle corners, target, 0, false⟩
    let w : State := { base with rasts := [j] }
    okOf d.2 = some target ∧ (s.triCheck 4 0).isNone = true ∧ bad.iss.lanes = [] ++ 0 :: [] ∧ (bad.triCheck 4 0).isSome = true
    ∧ okOf (bad.descCheck bad.low (bad.rup 2) none).2 = some target ∧ okOf r.2 = some [(0, triangle corners)] ∧ s.targetCheck target = none
    ∧ rastClass (triangle corners) 0x2000 = 0 ∧ rastClass (triangle corners) 1 = 1
    ∧ rastClass (triangle (List.replicate 9 0)) 1 = 2 ∧ rastClass (triangle (0x7FC00000 :: List.replicate 8 0)) 1 = 3
    ∧ (triOf (triangle corners)).any (fun t =>
        let g := w.drawGo j t.orient ((t.orient.pixels target).drop 0) 0
        g.2.isNone && goesOn g.1 1 && g.1.rastFls.isEmpty) = true
    ∧ (w.rasts.countP fun j => j.uid == 1) ≠ 0 ∧ (s.rasts.countP fun j => j.uid == s.iss.uid) = 0 := by decide +kernel

/-- A frame of 64 by 16 pixels at 0x3000. -/
def frame : List Byte := toBytes 8 0x3000 ++ toBytes 2 64 ++ toBytes 2 16 ++ toBytes 4 256 ++ List.replicate 48 0

/-- Displays: a frame that passes, heads with room and without, a present that has latched, a head that is off and on, values of DISP.CTL. -/
theorem test_meets_displays :
    let s := issue [0] (upairs [(2, 0x2000), (4, 0x2040)] (store [(0x2000, frame)] base))
    let p : PresOp := ⟨1, 1, 0, false, 0, frame, 0x2040, 7, false, true, true⟩
    let one := s.setHead 0 { pend := [p] }
    let on : State := { one with sys := (sreg 0x39 0, 2 ^ 31) :: one.sys }
    (0 : BitVec 3).toNat ∈ s.members (s.team 1).slice ∧ (s.head 0).pend.length < 2
    ∧ okOf (s.descCheck s.low (s.rup 2) (some (s.rup 4))).2 = some frame ∧ presOk frame false = true
    ∧ (one.head 0).pend = p :: []
    ∧ goesOn ((s.setHead 0 {}).writeCw p.ctx p.cw p.scope (2 ^ 62)) 1 = true ∧ one.parts = []
    ∧ ({ one with parts := [⟨1, one.opNow, 0, 0x3000, page, [1, 2]⟩] } : State).parts.any (fun q => q.op == one.opNow) = true
    ∧ nbit (s.sysr 0x39 0) 31 = false ∧ nbit (on.sysr 0x39 0) 31 = true ∧ nbit (on.sysr 0x39 0) 29 = false ∧ (on.head 0).pend = p :: []
    ∧ s.recovery = false ∧ (60 % 256 < 24 ∨ 240 < 60 % 256) = False ∧ 20 % 256 < 24 := by decide +kernel

/-- Displays: a head of a link, trained to a mode, with nothing pending. -/
theorem test_meets_sinks :
    let s := ({ base with sys := [(sreg 0x39 0, 2 ^ 31 + 2 ^ 29)] } : State).setHead 0 { mode := some (640, 480) }
    nbit (s.sysr 0x39 0) 31 = true ∧ nbit (s.sysr 0x39 0) 29 = true ∧ (s.head 0).mode = some (640, 480) ∧ (s.head 0).pend = []
    ∧ (s.head 0).shown = none := by decide +kernel

/-- A collective's descriptor: members at 0x3000, one member, f32 sums with the given window and table. -/
def collDesc (src aux window wh : Nat) : List Byte :=
  toBytes 8 src ++ toBytes 8 0x3200 ++ toBytes 8 aux ++ toBytes 8 0x3000 ++ toBytes 2 1 ++ [0, 0, 0, BitVec.ofNat 8 window] ++ toBytes 2 0
    ++ toBytes 4 1 ++ toBytes 2 wh ++ toBytes 2 wh ++ toBytes 4 9 ++ toBytes 4 0 ++ toBytes 8 0

/-- An issue of a collective with the descriptor at 0x2000, the list of members naming package `id`. -/
def collecting (d : List Byte) (id : Nat) : State :=
  issue [0] (upairs [(2, 0x2000), (4, 0x2040)] (store [(0x2000, d), (0x3000, toBytes 2 id), (0x3044, [1, 0, 0, 0])] base))

/-- CollectiveIssues: descriptors that are good, with a field out of its range and misaligned; lists with this package and without; the
order of a composite of one tile. -/
theorem test_meets_collectives :
    let s := collecting (collDesc 0x3100 0 1 0) 0
    let r := s.descCheck s.low (s.rup 2) (some (s.rup 4))
    let s2 := State.drain { r.1 with nextTag := r.1.nextTag + 1 }
    let cap := s2.scap 0
    let c : Ctx := ⟨0, 0, false, 1, 1⟩
    let x := collecting (collDesc 0x3100 0x3040 1 16) 0
    let o := x.readOrders c 0x3040 1 (List.range 1)
    s.colls.length < 16 ∧ okOf r.2 = some (collDesc 0x3100 0 1 0)
    ∧ collFieldBad 1 cap (collDesc 0x3100 0 1 0) = false ∧ collAlignBad 1 (collDesc 0x3100 0 1 0) = false
    ∧ collFieldBad 1 cap (collDesc 0x3100 0 0 0) = true ∧ collAlignBad 1 (collDesc 0x3101 0 1 0) = true
    ∧ okOf (s2.engRead c 0x3000 2).2 = some [0, 0] ∧ s2.pkg = 0 ∧ hasDup [0] = false
    ∧ okOf ((collecting (collDesc 0x3100 0 1 0) 5).engRead c 0x3000 2).2 = some [5, 0]
    ∧ collFieldBad 3 cap (collDesc 0x3100 0x3040 1 16) = false ∧ collAlignBad 3 (collDesc 0x3100 0x3040 1 16) = false
    ∧ o.2 = some [(0, 0, [0])] ∧ o.1.pkg = 0 := by decide +kernel

/-- A collective with member 7, and a message of a type from package 7 for it. -/
def coll7 (fate : Nat) (refused : List Nat) : Coll :=
  ⟨1, 1, 1, 0, 0, false, 1, collDesc 0x3100 0 1 0, 0x2040, 7, 64, [⟨7, 4, [], true, 0, [], false, refused, [], true, 0, none⟩], [], [], 0, fate⟩
@[inherit_doc coll7] def chunk (typ tag : Nat) : Msg :=
  { osrc := 7, odst := 0, typ := typ, ordered := false, relayed := false, rsv := false, len := 1, seq := 0, tag := tag, req := none,
    off := 0, data := [0, 0, 0, 0] }

/-- CollectiveProgress: chunks of a collective under way, of a composite, of one that has failed, of a composite that is complete and has or has
not all of its member's part, of none, and of no member of it. -/
theorem test_meets_chunks :
    let s (c : Coll) : State := { base with colls := [c], inChunks := [chunk 3 9] }
    let find (c : Coll) := (s c).colls.find? fun x => x.f 48 4 == 9 && x.fate == 0
    (s (coll7 0 [])).inChunks = chunk 3 9 :: [] ∧ find (coll7 0 []) = some (coll7 0 [])
    ∧ (coll7 0 []).members.find? (fun x => x.id == 7) = some ⟨7, 4, [], true, 0, [], false, [], [], true, 0, none⟩
    ∧ ((coll7 0 []).members.all fun x => x.id != 8) = true ∧ (coll7 0 []).minor = 1
    ∧ (let comp (got : Nat) : Coll :=
         { coll7 1 [] with minor := 3, members := [⟨7, 4, [], false, 0, [], false, [], [], false, got, some 8⟩] }
       (comp 4).past (chunk 3 9) 0 = true ∧ (comp 8).past (chunk 3 9) 0 = false ∧ find { comp 4 with fate := 0 } = some { comp 4 with fate := 0 })
    ∧ (coll7 2 []).past (chunk 3 9) 0 = true ∧ ((coll7 2 []).f 48 4 = 9 ∧ (coll7 2 []).fate = 2) ∧ ((s (coll7 0 [])).colls.all fun c => c.f 48 4 != 8) = true := by
  decide +kernel

/-- CollectiveProgress: refusals for a member of a collective and for none; timeouts of one under way, with and without a refusal, of one that
has ended with a chunk queued and without; an end that leaves the team running. -/
theorem test_meets_collective_ends :
    let of_ (c : Coll) : Bool := c.f 48 4 == 9 && c.members.any fun x => x.id == 7 && x.sends && x.out.any (·.1 == 0)
    let busy (c : Coll) : Bool := c.members.any fun m => m.queued || m.todo != [] || (m.sends && m.out != [])
    let queued : Coll := { coll7 1 [] with members := [⟨7, 4, [], true, 0, [0], true, [], [], true, 0, none⟩] }
    let sent : Coll := { coll7 1 [] with members := [⟨7, 4, [], true, 4, [], false, [], [(0, false)], true, 0, none⟩] }
    let s : State := { base with colls := [sent], inCRefs := [chunk 2 9] }
    s.inCRefs = chunk 2 9 :: [] ∧ of_ sent = true ∧ of_ (coll7 0 []) = false
    ∧ (coll7 0 [0]).members.any (fun m => m.refused != []) = true ∧ (coll7 0 []).members.any (fun m => m.refused != []) = false
    ∧ queued.fate ≠ 0 ∧ busy queued = true ∧ busy sent = true ∧ (coll7 1 []).fate ≠ 0 ∧ busy (coll7 1 []) = false
    ∧ base.parts = [] ∧ ({ s with parts := [⟨1, (coll7 0 []).op, 0, 0x3000, page, [1, 2]⟩] } : State).parts.any (fun p => p.op == (coll7 0 []).op) = true
    ∧ (∀ c ∈ [coll7 1 [], coll7 2 []],
        goesOn (({ s with colls := [c] } : State).writeCw c.ctx 0x2040 7 (2 * 2 ^ 62 + 5 * 2 ^ 48)) 1 = true)
    ∧ goesOn (({ s with colls := [] } : State).writeCw (coll7 0 []).ctx 0x2040 7 (3 * 2 ^ 62 + 2 ^ 48)) 1 = true := by
  decide +kernel

/-- A launch entry of one team of four threads at the packet at 0x1004, with DONE 0. -/
def launchEntry (bad : Nat) : List Byte :=
  let hdr := if bad = 1 then 2 ^ 127 else 0
  toBytes 16 (if bad = 2 then hdr + 0x1005 else hdr + 0x1004) ++ List.replicate 28 0 ++ [16, 0, 0, 0] ++ List.replicate 80 0

/-- A slice with queue 0 on, its ring at 0x4000 with the given entry, and the bell ahead of HEAD. -/
def queued (e : List Byte) : State :=
  store [(0x4000, e)] { base with sys := [(sreg 0x18 0, 0x4000), (sreg 0x19 0, BitVec.ofNat 64 (2 ^ 31 + 4 * 2 ^ 16)), (sreg 0x28 0, 0x10001)], bells := [(0, 1)] }

/-- LaunchQueues: entries due and not due, that pass and that fail a check; values of LQ.CTL; queues on and off. -/
theorem test_meets_queues :
    let s := queued (launchEntry 0)
    let ck (b : Nat) := ((queued (launchEntry b)).setLaunch 2 (launchOf (launchEntry b) 0 0 0 false)).checkEntry 2 (launchEntry b)
    s.entryDue 0 0 = true ∧ base.entryDue 0 0 = false ∧ (s.ringEntry 0 0x4000).2 = some (launchEntry 0)
    ∧ entryCheck1 (launchEntry 0) = true ∧ entryCheck1 (launchEntry 1) = false ∧ entryCheck1 (launchEntry 2) = true
    ∧ (ck 0).2 = 0 ∧ (ck 1).2 = 1 ∧ (ck 2).2 = 2
    ∧ packetAddr (launchOf (launchEntry 2) 0 0 0 false).node0.code = false
    ∧ nbit (s.sysr 0x19 0) 31 = true ∧ s.lead 0 = 0 ∧ nbit (base.sysr 0x19 0) 31 = false ∧ s.recovery = false
    ∧ bits (3 * 2 ^ 16) 19 16 < 4 ∧ bits (2 ^ 31 + 4 * 2 ^ 16) 19 16 = bits (s.sysr 0x19 0) 19 16 := by decide +kernel

/-- A package whose launch 1 has a team to start, its threads and its core free, and its slice running. -/
def startable : State :=
  { State.reset with launches := [(1, { live := true, node0 := { code := 0x1004, sx := 4 } })], nextLid := 2, nextUid := 2 }

/-- TeamStarts: a candidate that can be placed, and slices that place none. -/
theorem test_meets_starts :
    let s := startable
    (∀ x ∈ s.cands 0, x.key.headD 3 = 0 → (s.coreFor 0 (s.candNeed x)).isSome = true) ∧ (s.cands 0).length = 1 ∧ (s.candsOf 1 != []) = true ∧ s.lead 0 = 0 ∧ nbit (s.sysr 0x22 0) 29 = false ∧ nbit (s.sysr 0x22 0) 31 = false
    ∧ ((s.cands 0).find? fun x => s.placeable 0 x).isSome = true ∧ ((s.cands 0).all fun x => (s.coreFor 0 (s.candNeed x)).isSome) = true
    ∧ (s.cands 1).isEmpty = true ∧ (s.launch 1).live = true ∧ (s.launch 1).node0.threads ≤ 1024 ∧ (s.launch 1).node0.scr ≤ 2 ^ 20 := by
  decide +kernel

/-- A write for launch 1 to package 7 without an answer. -/
def sending : RemOp := ⟨5, 1, 1, 0, 0, 7, ⟨.write, 0, 8, 2, 0, 0, 7, false, 0⟩, .flags, false, 1⟩

/-- LaunchEnds: a launch with nothing left, without and with a write under way, one that was aborted, one that still runs; phases that are over and
one that is not, without and with operations buffered. -/
theorem test_meets_ends :
    let s : State := { base with teams := [] }
    let ln : Launch := { live := true, started := 1 }
    let done := s.setLaunch 1 ln
    let det := s.setLaunch 1 { ln with det := true }
    let b : BufOp := ⟨1, 1, 0, false, 0, 0, 0, 0, .redF32 0, 0x80A0000000000100, 7, [], false, false⟩
    let asks : State := { done with remote := [sending] }
    let waits : State := { done with atoms := [{ pend false with uid := 9 }] }
    (waits.publishSlice 0).atoms.any (fun p => !(waits.team p.uid).live && waits.lead p.slice == waits.lead (waits.launch 1).slice) = true
    ∧ done.launchBusy 1 = false ∧ (done.launch 1).live = true ∧ (done.launch 1).dying = none ∧ (done.publishSlice 0).remote = []
    ∧ ((asks.publishSlice 0).remote.any fun o => !readsOnly o.req.kind && o.launch == 1) = true
    ∧ ((s.setLaunch 1 { ln with dying := some 2 }).launch 1).dying = some 2 ∧ base.launchBusy 1 = true
    ∧ det.phaseOver 1 = true ∧ (det.launch 1).phase < 16 ∧ (base.setLaunch 1 { ln with det := true }).phaseOver 1 = false
    ∧ ((det.publishSlice 0).flushBufs fun b => b.launch == 1).bufops = []
    ∧ ((({ det with bufops := [b] } : State).publishSlice 0).flushBufs fun b => b.launch == 1).bufops.any (fun b => b.launch == 1) = true := by
  decide +kernel

/-- Team 1 with a stop; its threads at a packet. -/
def stopping (st : Stop) : State := team (fun tm => { tm with stop := some st }) base

/-- TeamStops: a team that is not stopping, one whose issue goes on, one with an operation under way, one with room to be saved and one
without, with a fault and without; one to be flushed that fits and one that does not. -/
theorem test_meets_stops :
    let st (r : Nat) (f : Bool) : Stop := ⟨r, f, [], 10, 1, r == 1⟩
    let noRoom (s : State) : State := { s with sys := (sreg 0x21 0, BitVec.ofNat 64 (2 ^ 55)) :: s.sys }
    let idem := team (fun tm => { tm with idem := true }) (stopping (st 1 true))
    let s1 := (stopping (st 2 false)).publish 0 7 1 0
    (base.team 1).stop = none ∧ ((stopping (st 2 false)).team 1).live = true ∧ (stopping (st 2 false)).issueStopped 1 = true
    ∧ (thread 0 (fun th => { th with pos := 5 }) (stopping (st 2 false))).issueStopped 1 = false
    ∧ (stopping (st 2 false)).opsStopped 1 = true ∧ ({ stopping (st 2 false) with atoms := [pend false] } : State).opsStopped 1 = false
    ∧ s1.remote = [] ∧ s1.saveRoom 1 = some 4096 ∧ (noRoom s1).saveRoom 1 = none
    ∧ (idem.publish 0 7 1 0).flushFits 1 = true ∧ s1.flushFits 1 = false ∧ { st 1 true with chosen := false }.chosen = false
    ∧ ({ st 3 false with faults := [⟨0, 0, 4, 0⟩] }.faults ≠ []) := by decide +kernel

/-- TeamStops: a line written for another package keeps the team waiting for its answer. -/
theorem test_meets_stop_writes :
    let far := (stopping ⟨2, false, [], 0, 1, false⟩).setCopy 0 (dline 0x80A0000000000100) held
    far.opsStopped 1 = true ∧ ((far.publish 0 7 1 0).remote.any fun o => o.uid == 1) = true := by decide +kernel

/-- TeamStops: a bound that the save meets, and one that neither a drain nor a save meets, whatever the free times are. -/
theorem test_meets_choices :
    let s := stopping ⟨1, false, [], 10, 1, true⟩
    let within (bound : Nat) (x : Nat × Option Nat × Nat) : Prop := ∃ y, x.2.1 = some y ∧ y ≤ bound * usec
    (∃ bound, ∃ x ∈ s.choices 1 1, within bound x) ∧ ∀ x ∈ s.choices 1 1, ¬ within 0 x := by
  intro s within
  have hr : (s.saveRoom 1).isSome = true := by decide +kernel
  have hf : s.flushFits 1 = false := by decide +kernel
  have hs : s.samples = [] := rfl
  have hb : (s.team 1).budget = 0 := by decide +kernel
  have hz : 0 < s.saveSize 1 := by decide +kernel
  constructor
  · let lat := Config.freeWord ((s.tick * 2 ^ 32 + 1) * 4 + 1) + s.saveSize 1 * 1
    refine ⟨lat, (1, some lat, 2 * (s.saveSize 1 * 1)), ?_, lat, rfl, Nat.le_mul_of_pos_right _ (by decide)⟩
    simp only [State.choices, hs, hr, if_true, List.any_nil, Bool.false_eq_true, if_false]
    exact List.mem_append_left _ (List.mem_append_right _ (List.mem_singleton.2 rfl))
  · rintro x hx ⟨y, hy, hle⟩
    simp only [State.choices, hs, hr, hf, hb, if_true, List.any_nil, Bool.false_eq_true, if_false, true_or, List.append_nil, List.mem_append,
      List.mem_singleton] at hx
    rcases hx with rfl | rfl
    · cases hy
    · simp only [Option.map_some, Option.some.injEq] at hy
      omega

/-- A fault-queue entry of slice 0 with number 5. -/
def entry5 (kind : Nat) (answered : Bool) : FEntry := ⟨0, 5, kind, List.replicate 64 0, 1, 9, 0x30, 4, true, answered, 0⟩

/-- FaultCommands: entries that are open, answered, of another kind, of no launch; numbers that name a launch and none. -/
theorem test_meets_faults :
    let s (k : Nat) (a : Bool) : State := { base with entries := [entry5 k a], ringLid := [(5, 1)] }
    (s 1 false).recovery = false ∧ (s 1 false).lead 0 = 0 ∧ nbit ((s 1 false).sysr 0x22 0) 29 = false
    ∧ (s 1 false).entryOf 0 5 = some (entry5 1 false) ∧ (s 2 false).entryOf 0 5 = some (entry5 2 false)
    ∧ (s 1 true).entryOf 0 5 = some (entry5 1 true) ∧ ((s 1 false).entries.all fun e => e.seq != 6) = true
    ∧ ((s 1 false).launch 1).posted = false ∧ ((s 1 false).setLaunch 1 { live := true, posted := true }).launch 1 = { live := true, posted := true }
    ∧ bytesAt (entry5 1 false).body 8 1 ≠ Cause.detSpill.code ∧ ((s 1 false).team 9).live = false ∧ ((s 1 false).launch 1).live = true
    ∧ (entry5 2 false).eng / 16 = 3 ∧ NMap.find (s 1 false).ringLid ((4 * 0 + 0) * 65536 + 5) = some 1
    ∧ NMap.find (s 1 false).ringLid ((4 * 0 + 0) * 65536 + 6) = none ∧ ((s 1 false).entries.all (·.posted)) = true := by decide +kernel

/-- ContextSwitches: a slice that is running, busy, out, and being restored. -/
theorem test_meets_switches :
    let s (c m : Nat) : State := { base with sys := [(sreg 0x22 0, BitVec.ofNat 64 c)], ctx := [(0, m)], teams := [] }
    (s 0 0).recovery = false ∧ (s 0 0).lead 0 = 0 ∧ nbit ((s (2 ^ 31) 1).sysr 0x22 0) 31 = true
    ∧ (nbit ((s (2 ^ 29) 0).sysr 0x22 0) 31 = false ∧ nbit ((s (2 ^ 29) 0).sysr 0x22 0) 29 = true)
    ∧ (nbit ((s 0 0).sysr 0x22 0) 31 = false ∧ nbit ((s 0 0).sysr 0x22 0) 29 = false) ∧ (s 0 0).allFit 0 = true
    ∧ ({ s 0 0 with sys := [(sreg 0x21 0, BitVec.ofNat 64 (2 ^ 55))] } : State).allFit 0 = false
    ∧ NMap.get 0 (s (2 ^ 31) 1).ctx 0 = 1 ∧ (s (2 ^ 31) 1).residents 0 = [] ∧ (s (2 ^ 31) 1).sorts = [] ∧ (s (2 ^ 31) 1).colls = []
    ∧ nbit ((s (2 ^ 31) 1).sysr 0x22 0) 29 = false ∧ Memory.wf base.mem = true
    ∧ NMap.get 0 (s (2 ^ 31 + 2 ^ 29) 2).ctx 0 = 2 ∧ (s (2 ^ 31 + 2 ^ 29) 2).physBad 0 4096 = false
    ∧ nbit ((s (2 ^ 31 + 2 ^ 29) 2).sysr 0x22 0) 31 = true ∧ nbit ((s (2 ^ 31 + 2 ^ 29) 2).sysr 0x22 0) 29 = true
    ∧ (s (2 ^ 31 + 2 ^ 29) 2).lateCmds = [] ∧ (base.residents 0 ≠ []) := by decide +kernel

/-- ContextSwitches: the restore of an area whose header is poisoned, and one with a command that was written meanwhile. -/
theorem test_meets_restores :
    let s : State := { base with sys := [(sreg 0x21 0, BitVec.ofNat 64 (2 ^ 55)), (sreg 0x22 0, BitVec.ofNat 64 (2 ^ 31 + 2 ^ 29))],
                                 ctx := [(0, 2)], teams := [], poison := [2 ^ 55 / 64], lateCmds := [(0, 0x1000000000000005)] }
    NMap.get 0 s.ctx 0 = 2 ∧ s.physBad (s.ctxBase 0) 4096 = true ∧ nbit (s.sysr 0x22 0) 31 = true ∧ nbit (s.sysr 0x22 0) 29 = true
    ∧ (s.lateCmds.filter fun x => x.1 == 0).length = 1 := by decide +kernel

/-- A message from package 7 with the four bytes of 5. -/
def answer (typ tag : Nat) : Msg :=
  { osrc := 7, odst := 0, typ := typ, ordered := false, relayed := false, rsv := false, len := 1, seq := 3, tag := tag, req := none,
    off := 0, data := [5, 0, 0, 0] }

/-- The operation of tag 4, which package 7 is asked for. -/
def asked (act : RemAct) : RemOp := ⟨4, 1, 1, 0, 0, 7, ⟨.read, 0, 4, 0, 0, 0, 7, false, 0⟩, act, false, 2⟩

/-- DeviceRegisters: values in and out of range, with the state that forbids a change and without. -/
theorem test_meets_registers :
    let idle : State := { base with teams := [] }
    let on : State := { idle with sys := [(sreg 0x30 0, BitVec.ofNat 64 (2 ^ 31 + 2 ^ 26 + 16 * 2 ^ 14 + 20 * 2 ^ 8))] }
    let x := 2 ^ 31 + 2 ^ 26 + 16 * 2 ^ 14 + 20 * 2 ^ 8
    idle.recovery = false ∧ 32 < bits (33 * 2 ^ 8) 13 8 ∧ ¬ (32 < bits (4 * 2 ^ 8 + 4) 13 8 ∨ 32 < (4 * 2 ^ 8 + 4) % 64)
    ∧ idle.teams = [] ∧ idle.dieFlits 0 = 0 ∧ idle.cistern = [] ∧ idle.linesAt 192 = []
    ∧ (base.teams.any fun e => e.2.live && coreDie e.2.core == 0) = true
    ∧ idle.members 0 ≠ (idle.setSys 0x41 0 1).members 0 ∧ nbit (idle.sysr 0x22 (idle.lead 0)) 29 = false
    ∧ ((List.range 8).all fun k => idle.members k == (idle.setSys 0x41 0 0).members k) = true
    ∧ bits (2 ^ 6 + 2 ^ 7) 7 6 = 3
    ∧ ¬ (bits x 7 6 = 3 ∨ (bits x 29 26 = 0 ∨ bits x 19 14 < 4 ∨ 40 < bits x 19 14 ∨ bits x 13 8 < 10 ∨ 50 < bits x 13 8))
    ∧ nbit x 31 = true ∧ nbit (idle.sysr 0x30 0) 31 = false ∧ nbit (on.sysr 0x30 0) 31 = true ∧ x % 2 ^ 30 / 64 = on.sysr 0x30 0 % 2 ^ 30 / 64
    ∧ 400 % 65536 < 500 ∧ ¬ (1000 % 65536 < 500 ∨ 4000 < 1000 % 65536)
    ∧ (base.team 1).live = true ∧ base.scrBusy 1 = false ∧ nbit (2 ^ 63) 63 = true
    ∧ nbit (idle.sysr 0x40 0) 28 = false ∧ nbit ((idle.setSys 0x40 0 (2 ^ 28)).sysr 0x40 0) 28 = true
    ∧ sregInfo 0x20 = some (false, 8) := by decide +kernel

/-- DeviceRegisters: wells that hold a message; slices that a new group joins, which are out and which are not; a register that exists for
fewer places. -/
theorem test_meets_groups :
    let w : State := { base with wells := [⟨answer 1 4, 2⟩] }
    let out : State := { base with sys := (List.range 8).map fun k => (sreg 0x22 k, BitVec.ofNat 64 (2 ^ 29)) }
    let new (s : State) := s.setSys 0x41 0 1
    w.dieFlits 0 ≠ 0 ∧ (∃ k < 8, base.members k ≠ (new base).members k ∧ nbit (base.sysr 0x22 (base.lead k)) 29 = false)
    ∧ (∀ k < 8, out.members k ≠ (new out).members k → nbit (out.sysr 0x22 (out.lead k)) 29 = true) ∧ out.saved = []
    ∧ sregInfo 0x10 = some (false, 2) := by decide +kernel

/-- Invalidations: a slice that is busy and one that is not, with nothing and with an invalidation under way. -/
theorem test_meets_invalidations :
    let busy : State := { base with sys := [(sreg 0x29 0, BitVec.ofNat 64 (2 ^ 63))], invals := [(0, 1)] }
    base.recovery = false ∧ base.lead 0 = 0 ∧ nbit (base.sysr 0x29 0) 63 = false ∧ nbit (busy.sysr 0x29 0) 63 = true ∧ base.invals = []
    ∧ busy.invals = (0, 1) :: [] ∧ busy.invalBusy 0 1 = false ∧ (base.teams.any fun e => base.lead e.2.slice == 0) = true
    ∧ ({ busy with atoms := [pend false] } : State).invalBusy 0 1 = true := by decide +kernel

/-- FirmwareAndReset: a mailbox that is free and one that is taken; a reset whose image passes, and one whose image does not, where no image is
held. -/
theorem test_meets_firmware :
    let s : State := { base with fwBusy := some (1, 0) }
    let pass (ok : Bool) : Bool := match base.fwImage.or base.fwRun with | some img => base.imageOk img | none => ok
    base.fwBusy = none ∧ s.fwBusy = some (1, 0) ∧ Memory.wf s.mem = true ∧ (0x1000 : Nat) < 2 ^ 56
    ∧ pass true = true ∧ pass false = false := by decide +kernel

/-- AttachmentsAndErrors: links that train and that do not, lines that are present and absent. -/
theorem test_meets_attachments :
    ((16 ∈ [1, 2, 4, 8, 16] ∧ 0 < 64 ∧ 64 ≤ 128) ∧ ¬ (3 ∈ [1, 2, 4, 8, 16]))
    ∧ (base.atoms ++ base.scops) = [] ∧ base.present (64 * 0x40) 64 = true ∧ base.present (64 * 2 ^ 49) 64 = false := by decide +kernel

/-- A fabric whose plane 0 is up, with package 7 in slot 0, and dark slots after it. -/
def fabric (on up : Bool) : State :=
  { base with
    sys := (sreg 0x30 0, BitVec.ofNat 64 ((if on then 2 ^ 31 else 0) + 2 ^ 26 + 16 * 2 ^ 14 + 20 * 2 ^ 8)) :: base.sys,
    cal := [(0, 0, 7)], planes := [(0, { up := up, cur := some 0 })] }

/-- FabricSlots: slots within the calendar and past it, lit and dark, planes up and down, frames from the peer and from another, a fabric that
relays nothing; what a frame that is not sent puts back. -/
theorem test_meets_slots :
    let first := (fabric true true).setPlane 0 { up := true }
    let last := (fabric true true).setPlane 0 { up := true, cur := some 40 }
    0 < first.nslot ∧ last.nslot ≤ 41 ∧ first.fabOn = true ∧ first.peer 0 0 = some 7 ∧ first.peer 0 1 = none
    ∧ (fabric false true).fabOn = false ∧ ((fabric true false).plane 0).up = false ∧ ((fabric true true).plane 0).cur = some 0
    ∧ (fabric true true).peer 0 0 ≠ some 6 ∧ (first.plane 0).cur = none ∧ ((fabric true true).plane 0).up = true
    ∧ bits ((fabric true true).sysr 0x30 0) 7 6 = 0 ∧ ((fabric true true).plane 0).sentQ = [] := by decide +kernel

/-- SentFrames: refusals of no payload; members with a chunk to send again, with more to send, and with none. -/
theorem test_meets_frames :
    let c (m : CMember) : Coll := { coll7 0 [] with members := [m] }
    let m (next : Nat) (todo : List Nat) : CMember := ⟨7, 4, [], true, next, todo, true, [], [], true, 0, none⟩
    let q : QMsg := ⟨0, { answer 1 4 with odst := 7 }, false, false, none, none⟩
    let s : State := { (fabric true true) with sendQ := [q] }
    (s.headOf 0 7 = some q ∧ seqDist (NMap.get 0 s.txAck 7) (NMap.get 0 s.txSeq 7) ≤ 4096)
    ∧ (fabric true true).pendRefs.all (fun m => m.len == 0) = true ∧ ({ chunk 2 9 with len := 0 } : Msg).len = 0
    ∧ (∀ x ∈ [m 0 [64], m 0 [], m 4 []],
        ({ base with colls := [c x] } : State).colls.find? (fun c => c.id == 1) = some (c x) ∧ (c x).members.find? (fun m => m.id == 7) = some x)
    ∧ (m 0 [64]).todo = 64 :: [] ∧ (m 0 []).todo = [] ∧ (m 0 []).next < (m 0 []).total ∧ (m 4 []).total ≤ (m 4 []).next := by
  decide +kernel

/-- ReceivedMessages: reserved and good messages, for this package and for another, FREE and ORDERED, within an allowance and beyond it. -/
theorem test_meets_messages :
    let s := (fabric true true).setPlane 0 { up := true, cur := some 0, allow := [(5, 3)] }
    let m := answer 1 4
    let granted (m : Msg) := ((s.plane 0).allow.map fun a => if a.1 = m.odst then a.2 else 0).sum
    let far : Msg := { m with odst := 5, relayed := true }
    let inTurn : Msg := { m with ordered := true, seq := 0 }
    { m with rsv := true }.rsv = true ∧ 4 < (answer 5 4).typ ∧ ((answer 0 4).typ = 0 ∧ (answer 0 4).req = none)
    ∧ ¬ (m.rsv = true ∨ 4 < m.typ ∨ (m.typ = 0 ∧ m.req = none)) ∧ m.odst = s.pkg ∧ m.ordered = false
    ∧ inTurn.seq = NMap.get 0 s.rxNext inTurn.osrc ∧ inTurn.len < 4096 ∧ s.rxHeld = []
    ∧ far.odst ≠ s.pkg ∧ far.relayed = true ∧ msgFlits far ≤ granted far ∧ granted { far with odst := 6 } < msgFlits far
    ∧ (∀ f : Frame, (fun o : Out => match o with | .frame _ => true | _ => false) (.frame f) = true) := by
  refine ⟨by decide, by decide, by decide, by decide, by decide +kernel, by decide, by decide +kernel, by decide, by decide +kernel,
    by decide +kernel, by decide, by decide +kernel, by decide +kernel, fun _ => rfl⟩

/-- RemoteAnswers: requests that are served and refused, one of two parts before each of them, and one behind another of its package. -/
theorem test_meets_requests :
    let r (size : Nat) : Req := ⟨.read, 0x1000, size, 0, 0, 0, 7, false, 0⟩
    let ask (size : Nat) : Msg := { answer 0 4 with req := some (r size) }
    let s (grant size : Nat) : State := { base with
      sys := base.sys ++ [(sreg 0x34 0, BitVec.ofNat 64 grant)], inReqs := [ask size, answer 0 5] }
    let got : List Byte := List.replicate 8 0
    let half : State := { (s 1 16) with servings := [⟨7, page, got⟩] }
    let one (i n : Nat) : Bool := ((s 1 16).serveTr (r n)).any fun e => (State.servePart { (s 1 16) with inReqs := [answer 0 5] } (r n) e i (min n 8)).2 == some (0, 1)
    (s 0 4).inReqs = ask 4 :: [answer 0 5] ∧ (s 0 4).serveTr (r 4) = none ∧ one 0 4 = true ∧ one 0 16 = true ∧ one 8 16 = true
    ∧ ((s 1 4).serveTr (r 4)).any (fun e =>
        (State.servePart { (s 1 4) with inReqs := [answer 0 5], poison := [pline 0x1000] } (r 4) e 0 4).2.isNone) = true
    ∧ (s 1 16).servings = [] ∧ half.servings.find? (fun v => v.osrc == 7) = some ⟨7, page, got⟩ ∧ base.pkg ≠ 7
    ∧ (s 1 4).inReqs[1]? = some (answer 0 5) ∧ (((s 1 4).inReqs.take 1).any fun x => x.osrc == 7) = true := by decide +kernel

/-- RemoteAnswers: answers that are awaited and that are not, a line that its place awaits and one that it holds, acknowledgments ahead and
behind. -/
theorem test_meets_answers :
    let line := dline 0x80A0000000000100
    let s (act : RemAct) : State := { base with
      remote := [asked act], inResps := [answer 1 4], inRefs := [answer 2 4], inAcks := [answer 4 0], txSeq := [(7, 5)] }
    let regs := RemAct.regs [8] 4
    (s regs).awaited (answer 1 4) = some (asked regs) ∧ (s regs).awaited (answer 1 9) = none ∧ (asked regs).act = .regs [8] 4
    ∧ ((s regs).thr 1 0).exited = false ∧ (asked regs).req.sc = false ∧ ((s regs).team 1).live = true
    ∧ (asked regs).req.kind = .read ∧ ((s regs).thr 1 0).fenced = 0 ∧ sending.req.kind = .write
    ∧ ({ s regs with cwords := [((s regs).nameOf scAsked.va, 7)] } : State).cwords = [((s regs).nameOf scAsked.va, 7)]
    ∧ (7 ≤ scAsked.req.scope ∧ scAsked.req.sc = true ∧ scAsked.req.kind = .read ∧ 0 < scAsked.req.size)
    ∧ { asked (.fill 0 line) with again := true }.again = true
    ∧ (s regs).remote.find? (fun x => x.tag == 4) = some (asked regs)
    ∧ (s (.fill 0 line)).awaited (answer 1 4) = some (asked (.fill 0 line)) ∧ (asked (.fill 0 line)).again = false
    ∧ (s (.fill 0 line)).copy 0 line = none ∧ ((s (.fill 0 line)).linesAt 0).length < (s (.fill 0 line)).copyCap 0
    ∧ ((s (.fill 0 line)).setCopy 0 line held).copy 0 line = some held
    ∧ seqDist (NMap.get 0 (s regs).txAck 7) 3 ≤ seqDist (NMap.get 0 (s regs).txAck 7) (NMap.get 0 (s regs).txSeq 7)
    ∧ ¬ seqDist (NMap.get 0 (s regs).txAck 7) 6 ≤ seqDist (NMap.get 0 (s regs).txAck 7) (NMap.get 0 (s regs).txSeq 7) := by decide +kernel

/-- A code line whose packet 0 holds NOP, then two words of zeros. -/
def nopLine : List Byte := List.replicate 4 0 ++ toBytes 4 0x45000004 ++ List.replicate 56 0

/-- A package about to issue packet 0 of the line at 0x1000, with the threads of team 1. -/
def ready : State :=
  let s := store [(0x1000, nopLine)] base
  let s := { s with agenda := [.issue 0 0] }
  (List.range 4).foldl (fun s t => s.setThr 1 t { s.thr 1 t with pos := 0x1004 }) s

/-- The bytes that `ready` fetches. -/
def fetched (s : State) (c : Issuer) : Option (List Byte) := okOf (s.fetch c.uid (c.ts.headD 0) 0x1004).2

/-- StepRunsDecoded: a legal packet, the fragment that issues it and its lanes. -/
theorem test_meets_step :
    let s0 : State := { ready with agenda := [] }
    let c : Issuer := (s0.issuersAt 0 0).headD ⟨0, 0, 0, 0, []⟩
    let line := nopLine
    let at_ := (s0.fetch c.uid (c.ts.headD 0) 0x1004).1
    ready.agenda = .issue 0 0 :: [] ∧ c.uid = 1 ∧ c.ts = [0, 1, 2, 3] ∧ (s0.thr 1 0).running = none ∧ posPacket 0x1004 = 0x1004
    ∧ fetched s0 c = some line ∧ bytesAt line 0 4 < 32 ∧ nbit (bytesAt line 0 4) 0 = false
    ∧ reads ((packetWords line 0).getD 0 0) 0 .nop = true ∧ Instr.nop.wf 64 = true ∧ chained ((packetWords line 0).getD 0 0) = false
    ∧ isX ((packetWords line 0).getD 0 0) = false
    ∧ okOf (decodeAt 64 (at_.caddyWr c) line 0x1004) = some ([(0, .nop)], 1)
    ∧ (match at_.turnOf c [(0, .nop)] false with | .go lanes => lanes == [0, 1, 2, 3] | _ => false) = true
    ∧ drains [(0, .nop)] = false := by decide +kernel

/-- StepRunsDecoded: a group that comes after an operation whose line is poisoned. -/
theorem test_meets_late_stop :
    let s : State := { ready with atoms := [pend false], poison := [0x40] }
    let c : Issuer := (s.issuersAt 0 0).headD ⟨0, 0, 0, 0, []⟩
    c.uid = 1 ∧ drains [(0, .stN8 1 2 false)] = true ∧ (s.lateStop c).isSome = true := by decide +kernel

/-- The step of `ready` runs NOP: every thread stands at word 1 of the packet. -/
theorem test_step_nop :
    ((List.range 4).all fun t => ((after (step ready) ready).thr 1 t).pos == 0x1005) = true := by decide +kernel

/-- A move of each kind at the head of the agenda, and the canonical memory after reset. -/
theorem test_meets_event :
    (∀ m ∈ [Move.sampleLoad 0, .sampleCode 1 4, .enginePart 0], ({ base with agenda := [m] } : State).agenda = m :: [])
    ∧ ({ base with agenda := [.event (.loadFill 0)] } : State).agenda = .event (.loadFill 0) :: [] ∧ Memory.wf State.reset.mem = true := by
  decide +kernel

end Sys2Proof.Tests
end

section
/-!
PROOFS. Integer arithmetic (R150, R152, R154): the flags of the `.cc` forms, the 64-bit pairs and the immediate forms.
-/

namespace Sys2Proof.Machine

open Sys2Proof

/-! The bits of a condition-code set (R136, R150). -/

@[simp] theorem ccC_mkCc (c z s v : Bool) : ccC (mkCc c z s v) = c := by revert c z s v; decide
@[simp] theorem ccZ_mkCc (c z s v : Bool) : ccZ (mkCc c z s v) = z := by revert c z s v; decide
@[simp] theorem ccS_mkCc (c z s v : Bool) : ccS (mkCc c z s v) = s := by revert c z s v; decide
@[simp] theorem ccV_mkCc (c z s v : Bool) : ccV (mkCc c z s v) = v := by revert c z s v; decide

/-- What R150 says of a set `g` written with result `r`: Z and S come from `r`, C says `carry` and V says `ovf`. -/
def FlagsOf (r : Word) (g : BitVec 4) (carry ovf : Prop) : Prop :=
  (ccZ g = true ↔ r = 0) ∧ ccS g = r.msb ∧ (ccC g = true ↔ carry) ∧ (ccV g = true ↔ ovf)

theorem flagsOf_ccRes {r : Word} {c v : Bool} {carry ovf : Prop} (hc : c = true ↔ carry) (hv : v = true ↔ ovf) :
    FlagsOf r (ccRes r c v) carry ovf :=
  ⟨by simp [ccRes], by simp [ccRes], by simpa [ccRes] using hc, by simpa [ccRes] using hv⟩

/-- An integer lies outside i32. -/
def OutsideI32 (r : Int) : Prop := r < -2 ^ 31 ∨ 2 ^ 31 ≤ r

theorem outI32_iff (r : Int) : outI32 r = true ↔ OutsideI32 r := by
  simp only [outI32, OutsideI32, Bool.or_eq_true, decide_eq_true_eq]
  omega

/-! The 32-bit results that the flags are computed from are the results written. -/

theorem addX_zero (a b : Word) : addX a b 0 = a + b := by simp [addX, toW, BitVec.ofNat_add]

theorem ofInt_sub_toNat (a b : Word) : ofInt ((a.toNat : Int) - b.toNat) = a - b := by
  simp [ofInt, Int.sub_eq_add_neg, BitVec.ofInt_add, BitVec.ofInt_neg, BitVec.sub_eq_add_neg]

theorem mulLo_eq_mul (a b : Word) : mulLo a b = a * b := by simp [mulLo, ofInt, BitVec.ofInt_mul]

/-! The rows of R150's table. -/

theorem ccAdd_flags (a b : Word) (cin : Nat) :
    FlagsOf (addX a b cin) (ccAdd a b cin) ((2 : Int) ^ 32 ≤ a.toNat + b.toNat + cin) (OutsideI32 (a.toInt + b.toInt + cin)) :=
  flagsOf_ccRes (by rw [decide_eq_true_eq]; omega) (outI32_iff _)

theorem ccSub_flags (a b : Word) (bin : Nat) :
    FlagsOf (ofInt ((a.toNat : Int) - b.toNat - bin)) (ccSub a b bin) ((b.toNat : Int) + bin ≤ a.toNat)
      (OutsideI32 (a.toInt - b.toInt - bin)) :=
  flagsOf_ccRes (by rw [decide_eq_true_eq]; omega) (outI32_iff _)

/-- IADD is IADDX with no carry in. -/
theorem iadd_flags (a b : Word) :
    FlagsOf (a + b) (ccAdd a b 0) ((2 : Int) ^ 32 ≤ a.toNat + b.toNat) (OutsideI32 (a.toInt + b.toInt)) := by
  simpa [addX_zero] using ccAdd_flags a b 0

/-- ISUB and ICMP are ISUBX with no borrow in. -/
theorem isub_flags (a b : Word) :
    FlagsOf (a - b) (ccSub a b 0) ((b.toNat : Int) ≤ a.toNat) (OutsideI32 (a.toInt - b.toInt)) := by
  simpa [ofInt_sub_toNat] using ccSub_flags a b 0

theorem iaddx_flags (a b : Word) (c : Bool) :
    FlagsOf (addX a b c.toNat) (ccAdd a b c.toNat) ((2 : Int) ^ 32 ≤ a.toNat + b.toNat + c.toNat)
      (OutsideI32 (a.toInt + b.toInt + c.toNat)) :=
  ccAdd_flags a b c.toNat

/-- The borrow that ISUBX takes in is 1 − c. -/
theorem isubx_flags (a b : Word) (c : Bool) :
    FlagsOf (subX a b c.toNat) (ccSub a b (1 - c.toNat)) ((b.toNat : Int) + (1 - c.toNat) ≤ a.toNat)
      (OutsideI32 (a.toInt - b.toInt - (1 - c.toNat))) := by
  have borrow : ((1 - c.toNat : Nat) : Int) = 1 - c.toNat := Int.ofNat_sub c.toNat_le
  simpa only [subX, borrow] using ccSub_flags a b (1 - c.toNat)

theorem ccMul_flags (a b : Word) :
    FlagsOf (mulLo a b) (ccMul a b) ((2 : Int) ^ 32 ≤ a.toNat * b.toNat) (OutsideI32 (a.toInt * b.toInt)) := by
  rw [mulLo_eq_mul]
  exact flagsOf_ccRes (by rw [decide_eq_true_eq]; exact_mod_cast Iff.rfl) (outI32_iff _)

theorem ccAdds_flags (a b : Word) : FlagsOf (addsI a b) (ccAdds a b) False (OutsideI32 (a.toInt + b.toInt)) :=
  flagsOf_ccRes Bool.false_eq_true.to_iff (outI32_iff _)

theorem ccLogic_flags (r : Word) : FlagsOf r (ccLogic r) False False :=
  flagsOf_ccRes Bool.false_eq_true.to_iff Bool.false_eq_true.to_iff

theorem execIcmp_onlyCc (c : BitVec 2) (a b : VReg) (s : State) :
    OnlyCc s c (fun l => ccSub (s.rv l a.toNat) (s.rv l b.toNat) 0) (execIcmp c a b s) :=
  lanes_onlyCc s c _ _ fun _ _ => rfl

theorem sub_eq_zero_iff_toNat (a b : Word) : a - b = 0 ↔ (a.toNat : Int) = b.toNat := by
  rw [sub_eq_zero, ← BitVec.toNat_inj, Int.ofNat_inj]

/-- The flags that `binCc` writes are those of its two functions. -/
theorem binCc_flags {f : Word → Word → Word} {g : Word → Word → BitVec 4} {carry ovf : Word → Word → Prop}
    (h : ∀ x y, FlagsOf (f x y) (g x y) (carry x y) (ovf x y)) (c : BitVec 2) (d a b : VReg) (s : State) :
    ∃ F G, PutsCc s d c F G (binCc c f g d a b s) ∧ ∀ l ∈ s.iss.lanes,
      FlagsOf (F l) (G l) (carry (s.rv l a.toNat) (s.rv l b.toNat)) (ovf (s.rv l a.toNat) (s.rv l b.toNat)) :=
  ⟨_, _, binCc_puts c f g d a b s, fun _ _ => h _ _⟩

/-- The same for the operations that take the carry of the set that they write. -/
theorem binXCc_flags {f : Word → Word → Nat → Word} {g : Word → Word → Nat → BitVec 4} {carry ovf : Word → Word → Bool → Prop}
    (h : ∀ x y (cin : Bool), FlagsOf (f x y cin.toNat) (g x y cin.toNat) (carry x y cin) (ovf x y cin))
    (c : BitVec 2) (d a b : VReg) (s : State) :
    ∃ F G, PutsCc s d c F G (binXCc c f g d a b s) ∧ ∀ l ∈ s.iss.lanes,
      FlagsOf (F l) (G l) (carry (s.rv l a.toNat) (s.rv l b.toNat) (ccC (s.rcc l c.toNat)))
        (ovf (s.rv l a.toNat) (s.rv l b.toNat) (ccC (s.rcc l c.toNat))) :=
  ⟨_, _, binXCc_puts c f g d a b s, fun _ _ => h _ _ _⟩

/-- Settles O2: each form writes the set that its row of R150's table gives, and ICMP the one of ISUB. -/
theorem integerFlags : Obligations.IntegerFlags := by
  intro s d a b pa pb c x y sx sy cin out sets
  -- IMULH, IMIN and IMAX
  have logic (f : Word → Word → Word) := binCc_flags (fun x y => ccLogic_flags (f x y)) c d a b s
  refine ⟨binCc_flags iadd_flags c d a b s, binXCc_flags iaddx_flags c d a b s, binCc_flags isub_flags c d a b s,
    binXCc_flags (g := fun x y cin => ccSub x y (1 - cin)) isubx_flags c d a b s,
    binCc_flags ccMul_flags c d a b s, binCc_flags ccAdds_flags c d a b s,
    logic mulhI, logic mulhN, logic minI, logic minN, logic maxI, logic maxN, _, execIcmp_onlyCc c a b s, fun l _ => ?_⟩
  obtain ⟨zero, sign, carry, ovf⟩ := isub_flags (s.rv l a.toNat) (s.rv l b.toNat)
  refine ⟨zero.trans (sub_eq_zero_iff_toNat _ _), sign.trans ?_, carry, ovf⟩
  rw [← ofInt_sub_toNat, ofInt]

/-! Register pairs (R152). -/

theorem even_of_r2 {N : Nat} {x : VReg} (h : r2 N x = true) : x.toNat % 2 = 0 := by
  simp only [r2, Bool.and_eq_true, beq_iff_eq] at h
  exact h.1

theorem wf_iadd64 (N : Nat) (d a b : VReg) (pa pb : Bool) :
    (Instr.iadd64 d a b pa pb).wf N = (r2 N d && r2 N a && r2 N b) := rfl

theorem wf_isub64 (N : Nat) (d a b : VReg) (pa pb : Bool) :
    (Instr.isub64 d a b pa pb).wf N = (r2 N d && r2 N a && r2 N b) := rfl

theorem wf_addr (N : Nat) (d a b : VReg) (pa pb : Bool) :
    (Instr.addr d a b pa pb).wf N = (r2 N d && r2 N a && r1 N b) := rfl

theorem rp_lt (s : State) (l r : Nat) : s.rp l r < 2 ^ 64 := by
  have lo := (s.rv l r).isLt
  have hi := (s.rv l (r + 1)).isLt
  unfold State.rp
  omega

/-- A body that writes the pair d, d + 1 of its lane, where d is even. -/
theorem lanes_setP_puts (s : State) (d : VReg) (hd : d.toNat % 2 = 0) (f : Nat → Nat) (body : State → Nat → State)
    (h : ∀ m l, body { s with v := m } l = State.setP { s with v := m } l d.toNat (f l)) :
    Puts2 s d f (.next (s.lanes body)) :=
  lanes_puts2 s d (by omega) f body h

/-- A difference of two 64-bit values, computed without a negative number. -/
theorem sub_mod_pair {p q : Nat} (hq : q < 2 ^ 64) : (p + 2 ^ 64 - q) % 2 ^ 64 = (((p : Int) - q) % 2 ^ 64).toNat := by
  omega

theorem execIadd64_puts (s : State) (d a b : VReg) (hd : d.toNat % 2 = 0) :
    Puts2 s d (fun l => (s.rp l a.toNat + s.rp l b.toNat) % 2 ^ 64) (execIadd64 d a b s) :=
  lanes_setP_puts s d hd _ _ fun _ _ => rfl

theorem execIsub64_puts (s : State) (d a b : VReg) (hd : d.toNat % 2 = 0) :
    Puts2 s d (fun l => (s.rp l a.toNat + 2 ^ 64 - s.rp l b.toNat) % 2 ^ 64) (execIsub64 d a b s) :=
  lanes_setP_puts s d hd _ _ fun _ _ => rfl

theorem execAddr_puts (s : State) (d a b : VReg) (hd : d.toNat % 2 = 0) :
    Puts2 s d (fun l => wrap ((s.rp l a.toNat : Int) + (s.rv l b.toNat).toInt) 64) (execAddr d a b s) :=
  lanes_setP_puts s d hd _ _ fun _ _ => rfl

/-- Settles O3: `wf` asks for even pairs, and each form writes the pair that the three lemmas above give. -/
theorem pairResults : Obligations.PairResults := by
  constructor
  · intro N d a b pa pb even
    simp only [wf_iadd64, wf_isub64, wf_addr, Bool.and_eq_true]
    exact ⟨fun ⟨⟨hd, ha⟩, hb⟩ => ⟨even_of_r2 hd, even_of_r2 ha, even_of_r2 hb⟩,
      fun ⟨⟨hd, ha⟩, hb⟩ => ⟨even_of_r2 hd, even_of_r2 ha, even_of_r2 hb⟩,
      fun ⟨⟨hd, ha⟩, _⟩ => ⟨even_of_r2 hd, even_of_r2 ha⟩⟩
  · intro s d a b pa pb hd
    rw [exec_iadd64, exec_isub64, exec_addr]
    simp only [← sub_mod_pair (rp_lt ..)]
    exact ⟨execIadd64_puts s d a b hd, execIsub64_puts s d a b hd, execAddr_puts s d a b hd⟩

/-! Immediates (R154). -/

theorem sext_toNat_eq_toInt (i : BitVec 12) : sext i.toNat 12 = i.toInt := by
  have := i.isLt
  simp only [sext, BitVec.toInt_eq_toNat_cond]
  omega

theorem imm32_eq_ofInt (i : BitVec 12) : imm32 i = BitVec.ofInt 32 (sext i.toNat 12) := by
  rw [sext_toNat_eq_toInt, imm32, BitVec.signExtend]

theorem add_imm32 (x : Word) (i : BitVec 12) : x + imm32 i = BitVec.ofInt 32 (x.toNat + sext i.toNat 12) := by
  rw [BitVec.ofInt_add, ← imm32_eq_ofInt, BitVec.ofInt_natCast, BitVec.ofNat_toNat, BitVec.setWidth_eq]

theorem shiftLeft_eq_ofNat (x : Word) (n : Nat) : x <<< n = BitVec.ofNat 32 (x.toNat * 2 ^ n) := by
  apply BitVec.eq_of_toNat_eq
  rw [BitVec.toNat_shiftLeft, BitVec.toNat_ofNat, Nat.shiftLeft_eq]

theorem ushiftRight_eq_ofNat (x : Word) (n : Nat) : x >>> n = BitVec.ofNat 32 (x.toNat / 2 ^ n) := by
  apply BitVec.eq_of_toNat_eq
  rw [BitVec.toNat_ushiftRight, BitVec.toNat_ofNat, Nat.shiftRight_eq_div_pow,
    Nat.mod_eq_of_lt (Nat.lt_of_le_of_lt (Nat.div_le_self ..) x.isLt)]

/-- `un` puts any function that agrees with the one it computes. -/
theorem un_puts_of_eq {f g : Word → Word} (h : ∀ x, f x = g x) (d a : VReg) (s : State) :
    Puts1 s d (fun l => g (s.rv l a.toNat)) (un f d a s) :=
  funext h ▸ un_puts f d a s

theorem fMaj_of_toNat {w : BitVec 32} {m : BitVec 7} (h : w.toNat / 2 ^ 24 % 128 = m.toNat) : fMaj w = m := by
  apply BitVec.eq_of_toNat_eq
  rw [BitVec.extractLsb'_toNat, Nat.shiftRight_eq_div_pow]
  exact h

theorem fZero_eq_false {w : BitVec 32} {lo n : Nat} (h : w.toNat / 2 ^ lo % 2 ^ n ≠ 0) : fZero w lo n = false := by
  rw [beq_eq_false_iff_ne]
  intro e
  have := congrArg BitVec.toNat e
  rw [BitVec.extractLsb'_toNat, Nat.shiftRight_eq_div_pow, BitVec.toNat_ofNat, Nat.zero_mod] at this
  exact h this

theorem chk_false (i : Instr) : chk false i = .error .badField := rfl

/-- Settles O4: the results by the lemmas of `un`, the refusals by the field that `decI` checks in each of the three majors. -/
theorem immediateResults : Obligations.ImmediateResults := by
  constructor
  · intro s d a imm n x i
    refine ⟨un_puts_of_eq (fun x => add_imm32 x imm) d a s, ?_, ?_, ?_,
      un_puts_of_eq (fun x => shiftLeft_eq_ofNat x n.toNat) d a s,
      un_puts_of_eq (fun x => ushiftRight_eq_ofNat x n.toNat) d a s, ?_⟩ <;>
      simp only [i, ← imm32_eq_ofInt]
    · exact un_puts (· &&& imm32 imm) d a s
    · exact un_puts (· ||| imm32 imm) d a s
    · exact un_puts (· ^^^ imm32 imm) d a s
    · exact lanes_puts1 s d _ _ fun _ _ => rfl
  · intro w o major
    refine ⟨fun hm hz => ?_, fun hm hz => ?_⟩
    · rcases hm with hm | hm
      · rw [decode_14 (fMaj_of_toNat hm), decI, fZero_eq_false hz, chk_false]
      · rw [decode_15 (fMaj_of_toNat hm), decI, fZero_eq_false hz, chk_false]
    · rw [decode_16 (fMaj_of_toNat hm), decI, fZero_eq_false hz, chk_false]

end Sys2Proof.Machine
end
